-- ==== Sys2Proof/Word.lean ====
section
/-! DEFINITION. The word types of Gehair and the finite tables its state is made of. -/

namespace Sys2Proof

/-- A byte of memory. -/
abbrev Byte := BitVec 8

/-- A general register, a special register, an address as it is computed. -/
abbrev Word := BitVec 64

/-- The number of a general register (R129). -/
abbrev Reg := BitVec 5

/-- The number of a curd register (R109). -/
abbrev CurdReg := BitVec 6

/-- The payload of a token: 16 lanes of 32 bits, lane 0 lowest (R8, R13). -/
abbrev Payload := BitVec 512

/-- A table from numbers to values, held as the pairs that have been written. -/
abbrev Tbl (α : Type) := List (Nat × α)

/-- The value written at an index, if one was. -/
def Tbl.find {α : Type} : Tbl α → Nat → Option α
  | [], _ => none
  | (j, y) :: t, i => if i = j then some y else Tbl.find t i

/-- Write one index; the pairs stay in ascending order of index. -/
def Tbl.put {α : Type} : Tbl α → Nat → α → Tbl α
  | [], i, x => [(i, x)]
  | (j, y) :: t, i, x =>
    if i < j then (i, x) :: (j, y) :: t
    else if i = j then (i, x) :: t
    else (j, y) :: Tbl.put t i x

/-- The value at an index, the default where nothing was written. -/
def Tbl.get {α : Type} (t : Tbl α) (dflt : α) (i : Nat) : α :=
  (Tbl.find t i).getD dflt

end Sys2Proof
end

