-- ==== Sys2Proof/Syntax.lean ====
section
/-! DEFINITION. The instructions and events of Gehair: one constructor per row of opcode_table.json.
The first 119 are control-processor words; the others are steps of the engines and of the outside world, which
have no word. -/

namespace Sys2Proof

/-- Who performs a window access (R141): a host, or the privileged code of a core. -/
inductive Agent where
  | host
  | core (c : BitVec 7)
deriving DecidableEq, Repr

/-- A unit that saves its state in a press (R365). -/
inductive PressUnit where
  | element (e : BitVec 7)
  | stream (s : BitVec 5)
  | matrix (n : BitVec 2)
  | edge (p : BitVec 3)
  | curd (c : BitVec 6)
deriving DecidableEq, Repr

/-- The steps of the machine. The operands of a word are its fields as R40 to R48 lay them out; the operands of an
event name the unit that acts, or carry the input that arrives. -/
inductive Instr where
  /-- NOP (R43). -/
  | nop
  /-- TRAP (R359). -/
  | trap (n : BitVec 12)
  /-- ERET (R359). -/
  | eret
  /-- BRK (R359). -/
  | brk (n : BitVec 12)
  /-- IDLE (R359). -/
  | idle
  /-- TLBI_ALL (R360). -/
  | tlbiAll
  /-- TLBI_ASID (R360). -/
  | tlbiAsid (a : Reg)
  /-- TLBI_VA (R360). -/
  | tlbiVa (a : Reg)
  /-- TLBI_VAALL (R360). -/
  | tlbiVaall (a : Reg)
  /-- PRESS_SAVE (R362). -/
  | pressSave (d : Reg) (a : Reg)
  /-- PRESS_PART (R362). -/
  | pressPart (d : Reg) (a : Reg)
  /-- PRESS_RESTORE (R367). -/
  | pressRestore (d : Reg) (a : Reg)
  /-- SRR (R133). -/
  | srr (d : Reg) (r : BitVec 12)
  /-- SRW (R133). -/
  | srw (a : Reg) (r : BitVec 12)
  /-- ADD (R149). -/
  | add (d : Reg) (a : Reg) (b : Reg) (w : BitVec 1)
  /-- SUB (R149). -/
  | sub (d : Reg) (a : Reg) (b : Reg) (w : BitVec 1)
  /-- MUL (R149). -/
  | mul (d : Reg) (a : Reg) (b : Reg) (w : BitVec 1)
  /-- MULH (R149). -/
  | mulh (d : Reg) (a : Reg) (b : Reg)
  /-- MULHU (R149). -/
  | mulhu (d : Reg) (a : Reg) (b : Reg)
  /-- DIV (R150). -/
  | div (d : Reg) (a : Reg) (b : Reg) (w : BitVec 1)
  /-- DIVU (R150). -/
  | divu (d : Reg) (a : Reg) (b : Reg) (w : BitVec 1)
  /-- REM (R150). -/
  | rem (d : Reg) (a : Reg) (b : Reg) (w : BitVec 1)
  /-- REMU (R150). -/
  | remu (d : Reg) (a : Reg) (b : Reg) (w : BitVec 1)
  /-- AND (R149). -/
  | and (d : Reg) (a : Reg) (b : Reg)
  /-- OR (R149). -/
  | or (d : Reg) (a : Reg) (b : Reg)
  /-- XOR (R149). -/
  | xor (d : Reg) (a : Reg) (b : Reg)
  /-- ANDN (R149). -/
  | andn (d : Reg) (a : Reg) (b : Reg)
  /-- SHL (R149). -/
  | shl (d : Reg) (a : Reg) (b : Reg) (w : BitVec 1)
  /-- SHR (R149). -/
  | shr (d : Reg) (a : Reg) (b : Reg) (w : BitVec 1)
  /-- SAR (R149). -/
  | sar (d : Reg) (a : Reg) (b : Reg) (w : BitVec 1)
  /-- ROL (R149). -/
  | rol (d : Reg) (a : Reg) (b : Reg) (w : BitVec 1)
  /-- MIN (R149). -/
  | min (d : Reg) (a : Reg) (b : Reg)
  /-- MAX (R149). -/
  | max (d : Reg) (a : Reg) (b : Reg)
  /-- MINU (R149). -/
  | minu (d : Reg) (a : Reg) (b : Reg)
  /-- MAXU (R149). -/
  | maxu (d : Reg) (a : Reg) (b : Reg)
  /-- SEQ (R149). -/
  | seq (d : Reg) (a : Reg) (b : Reg)
  /-- SNE (R149). -/
  | sne (d : Reg) (a : Reg) (b : Reg)
  /-- SLT (R149). -/
  | slt (d : Reg) (a : Reg) (b : Reg)
  /-- SLTU (R149). -/
  | sltu (d : Reg) (a : Reg) (b : Reg)
  /-- SLE (R149). -/
  | sle (d : Reg) (a : Reg) (b : Reg)
  /-- SLEU (R149). -/
  | sleu (d : Reg) (a : Reg) (b : Reg)
  /-- CLZ (R149). -/
  | clz (d : Reg) (a : Reg) (w : BitVec 1)
  /-- CTZ (R149). -/
  | ctz (d : Reg) (a : Reg) (w : BitVec 1)
  /-- POPC (R149). -/
  | popc (d : Reg) (a : Reg) (w : BitVec 1)
  /-- SEXT (R149). -/
  | sext (d : Reg) (a : Reg) (x : BitVec 5)
  /-- ZEXT (R149). -/
  | zext (d : Reg) (a : Reg) (x : BitVec 5)
  /-- BSWAP (R149). -/
  | bswap (d : Reg) (a : Reg)
  /-- ADDI (R153). -/
  | addi (d : Reg) (a : Reg) (i : BitVec 16)
  /-- ANDI (R153). -/
  | andi (d : Reg) (a : Reg) (i : BitVec 16)
  /-- ORI (R153). -/
  | ori (d : Reg) (a : Reg) (i : BitVec 16)
  /-- XORI (R153). -/
  | xori (d : Reg) (a : Reg) (i : BitVec 16)
  /-- SHLI (R154). -/
  | shli (d : Reg) (a : Reg) (n : BitVec 6)
  /-- SHRI (R154). -/
  | shri (d : Reg) (a : Reg) (n : BitVec 6)
  /-- SARI (R154). -/
  | sari (d : Reg) (a : Reg) (n : BitVec 6)
  /-- SLTI (R153). -/
  | slti (d : Reg) (a : Reg) (i : BitVec 16)
  /-- SLTUI (R153). -/
  | sltui (d : Reg) (a : Reg) (i : BitVec 16)
  /-- LIH (R153). -/
  | lih (d : Reg) (a : Reg) (i : BitVec 16)
  /-- LD (R345). -/
  | ld (d : Reg) (a : Reg) (w : BitVec 2) (o : BitVec 2) (p : BitVec 2) (i : BitVec 10)
  /-- LDU (R345). -/
  | ldu (d : Reg) (a : Reg) (w : BitVec 2) (o : BitVec 2) (p : BitVec 2) (i : BitVec 10)
  /-- ST (R345). -/
  | st (s : Reg) (a : Reg) (w : BitVec 2) (o : BitVec 2) (p : BitVec 2) (i : BitVec 10)
  /-- AMOADD (R346). -/
  | amoadd (d : Reg) (a : Reg) (b : Reg) (w : BitVec 2) (o : BitVec 2) (p : BitVec 2)
  /-- AMOAND (R346). -/
  | amoand (d : Reg) (a : Reg) (b : Reg) (w : BitVec 2) (o : BitVec 2) (p : BitVec 2)
  /-- AMOOR (R346). -/
  | amoor (d : Reg) (a : Reg) (b : Reg) (w : BitVec 2) (o : BitVec 2) (p : BitVec 2)
  /-- AMOXOR (R346). -/
  | amoxor (d : Reg) (a : Reg) (b : Reg) (w : BitVec 2) (o : BitVec 2) (p : BitVec 2)
  /-- AMOMIN (R346). -/
  | amomin (d : Reg) (a : Reg) (b : Reg) (w : BitVec 2) (o : BitVec 2) (p : BitVec 2)
  /-- AMOMAX (R346). -/
  | amomax (d : Reg) (a : Reg) (b : Reg) (w : BitVec 2) (o : BitVec 2) (p : BitVec 2)
  /-- AMOMINU (R346). -/
  | amominu (d : Reg) (a : Reg) (b : Reg) (w : BitVec 2) (o : BitVec 2) (p : BitVec 2)
  /-- AMOMAXU (R346). -/
  | amomaxu (d : Reg) (a : Reg) (b : Reg) (w : BitVec 2) (o : BitVec 2) (p : BitVec 2)
  /-- AMOSWAP (R346). -/
  | amoswap (d : Reg) (a : Reg) (b : Reg) (w : BitVec 2) (o : BitVec 2) (p : BitVec 2)
  /-- CAS_D (R347). -/
  | casD (d : Reg) (a : Reg) (b : Reg) (o : BitVec 2) (p : BitVec 2)
  /-- CAS_Q (R347). -/
  | casQ (d : Reg) (a : Reg) (b : Reg) (o : BitVec 2) (p : BitVec 2)
  /-- FENCE (R349). -/
  | fence (o : BitVec 2) (p : BitVec 2)
  /-- SBAR (R350). -/
  | sbar (a : Reg) (p : BitVec 2)
  /-- WAIT (R351). -/
  | wait (d : Reg) (a : Reg) (b : Reg) (o : BitVec 2) (p : BitVec 2)
  /-- B (R155). -/
  | jump (i : BitVec 26)
  /-- CALL (R155). -/
  | call (i : BitVec 26)
  /-- BEQ (R156). -/
  | beq (a : Reg) (b : Reg) (i : BitVec 12)
  /-- BNE (R156). -/
  | bne (a : Reg) (b : Reg) (i : BitVec 12)
  /-- BLT (R156). -/
  | blt (a : Reg) (b : Reg) (i : BitVec 12)
  /-- BGE (R156). -/
  | bge (a : Reg) (b : Reg) (i : BitVec 12)
  /-- BLTU (R156). -/
  | bltu (a : Reg) (b : Reg) (i : BitVec 12)
  /-- BGEU (R156). -/
  | bgeu (a : Reg) (b : Reg) (i : BitVec 12)
  /-- JR (R157). -/
  | jr (a : Reg)
  /-- CALLR (R157). -/
  | callr (a : Reg)
  /-- CDECL (R111). -/
  | cdecl (c : CurdReg) (a : Reg)
  /-- CPUT (R112). -/
  | cput (c : CurdReg) (a : Reg) (x : BitVec 1) (e : BitVec 4)
  /-- CRD (R113). -/
  | crd (c : CurdReg) (d : Reg) (e : BitVec 4) (w : BitVec 1)
  /-- CRDM (R114). -/
  | crdm (c : CurdReg) (a : Reg) (w : BitVec 1) (o : BitVec 2) (p : BitVec 2)
  /-- CRDP (R113). -/
  | crdp (c : CurdReg) (d : Reg) (b : Reg) (w : BitVec 1)
  /-- SETTLE (R115). -/
  | settle (c : CurdReg)
  /-- CCLR (R116). -/
  | cclr (c : CurdReg)
  /-- CSTAT (R117). -/
  | cstat (c : CurdReg) (d : Reg) (s : BitVec 5)
  /-- CFG (R255). -/
  | cfg (a : Reg) (v : BitVec 3)
  /-- CFGW (R255). -/
  | cfgw (a : Reg) (v : BitVec 3)
  /-- SWAP (R256). -/
  | swap (v : BitVec 3)
  /-- ARM (R256). -/
  | arm (a : Reg) (v : BitVec 3)
  /-- DRAIN (R257). -/
  | drain (v : BitVec 3)
  /-- VWAIT (R258). -/
  | vwait (v : BitVec 3)
  /-- VSTAT (R260). -/
  | vstat (d : Reg) (s : BitVec 5) (v : BitVec 3)
  /-- VKILL (R259). -/
  | vkill (v : BitVec 3)
  /-- SDEF (R292). -/
  | sdef (a : Reg) (s : BitVec 5)
  /-- SGO (R293). -/
  | sgo (a : Reg) (b : Reg) (s : BitVec 5)
  /-- QARM (R296). -/
  | qarm (a : Reg) (t : BitVec 5) (q : BitVec 3)
  /-- QDIS (R296). -/
  | qdis (q : BitVec 3)
  /-- CPY (R297). -/
  | cpy (a : Reg)
  /-- TOK (R294). -/
  | tok (a : Reg) (s : BitVec 5)
  /-- TRCV (R295). -/
  | trcv (d : Reg) (a : Reg) (s : BitVec 5)
  /-- TAIL (R245). -/
  | tail (d : Reg) (a : Reg)
  /-- DONE (R246). -/
  | done
  /-- HSEED (R322). -/
  | hseed (a : Reg) (b : Reg)
  /-- HTAB (R322). -/
  | htab (a : Reg) (b : Reg)
  /-- HPOOL (R322). -/
  | hpool (a : Reg) (b : Reg)
  /-- HSTAT (R323). -/
  | hstat (d : Reg) (a : Reg)
  /-- TEV (R433). -/
  | tev (a : Reg) (b : Reg)
  /-- TMARK (R434). -/
  | tmark (a : Reg)
  /-- TCTL (R435). -/
  | tctl (a : Reg)
  /-- TIME (R436). -/
  | time (d : Reg) (a : Reg)
  /-- TAT (R437). -/
  | tat (a : Reg)
  /-- RCSNAP (R371). -/
  | rcsnap (a : Reg) (b : Reg)
  /-- CULTURE_PLANE_LOAD (R255). -/
  | culturePlaneLoad (v : BitVec 3)
  /-- PLANE_EXCHANGE (R228). -/
  | planeExchange (v : BitVec 3)
  /-- VAT_RETIRE (R252). -/
  | vatRetire (v : BitVec 3)
  /-- VAT_STALL (R124). -/
  | vatStall (v : BitVec 3)
  /-- MCAST_STALL (R398). -/
  | mcastStall (e : BitVec 7) (port : BitVec 3) (tag : BitVec 3)
  /-- TOKEN_DELIVERY (R180). -/
  | tokenDelivery (n : Nat)
  /-- PASS (R198). -/
  | pass (e : BitVec 7) (k : BitVec 3)
  /-- CONST (R198). -/
  | const (e : BitVec 7) (k : BitVec 3)
  /-- DELAY (R198). -/
  | delay (e : BitVec 7) (k : BitVec 3)
  /-- IADD (R199). -/
  | iadd (e : BitVec 7) (k : BitVec 3)
  /-- ISUB (R199). -/
  | isub (e : BitVec 7) (k : BitVec 3)
  /-- IMUL (R199). -/
  | imul (e : BitVec 7) (k : BitVec 3)
  /-- IMULH (R199). -/
  | imulh (e : BitVec 7) (k : BitVec 3)
  /-- IMAC (R199). -/
  | imac (e : BitVec 7) (k : BitVec 3)
  /-- INEG (R199). -/
  | ineg (e : BitVec 7) (k : BitVec 3)
  /-- IABS (R199). -/
  | iabs (e : BitVec 7) (k : BitVec 3)
  /-- IMIN (R199). -/
  | imin (e : BitVec 7) (k : BitVec 3)
  /-- IMAX (R199). -/
  | imax (e : BitVec 7) (k : BitVec 3)
  /-- ISADD (R199). -/
  | isadd (e : BitVec 7) (k : BitVec 3)
  /-- ISSUB (R199). -/
  | issub (e : BitVec 7) (k : BitVec 3)
  /-- ICLAMP (R199). -/
  | iclamp (e : BitVec 7) (k : BitVec 3)
  /-- STAGE_AND (R199). -/
  | stageAnd (e : BitVec 7) (k : BitVec 3)
  /-- STAGE_OR (R199). -/
  | stageOr (e : BitVec 7) (k : BitVec 3)
  /-- STAGE_XOR (R199). -/
  | stageXor (e : BitVec 7) (k : BitVec 3)
  /-- NOT (R199). -/
  | stageNot (e : BitVec 7) (k : BitVec 3)
  /-- STAGE_SHL (R199). -/
  | stageShl (e : BitVec 7) (k : BitVec 3)
  /-- STAGE_SHR (R199). -/
  | stageShr (e : BitVec 7) (k : BitVec 3)
  /-- STAGE_SAR (R199). -/
  | stageSar (e : BitVec 7) (k : BitVec 3)
  /-- ICMP (R199). -/
  | icmp (e : BitVec 7) (k : BitVec 3)
  /-- SEL (R199). -/
  | sel (e : BitVec 7) (k : BitVec 3)
  /-- IDOT4 (R200). -/
  | idot4 (e : BitVec 7) (k : BitVec 3)
  /-- IDOT2 (R200). -/
  | idot2 (e : BitVec 7) (k : BitVec 3)
  /-- FADD (R201). -/
  | fadd (e : BitVec 7) (k : BitVec 3)
  /-- FSUB (R201). -/
  | fsub (e : BitVec 7) (k : BitVec 3)
  /-- FMUL (R201). -/
  | fmul (e : BitVec 7) (k : BitVec 3)
  /-- FMA (R201). -/
  | fma (e : BitVec 7) (k : BitVec 3)
  /-- FNMA (R201). -/
  | fnma (e : BitVec 7) (k : BitVec 3)
  /-- FMIN (R201). -/
  | fmin (e : BitVec 7) (k : BitVec 3)
  /-- FMAX (R201). -/
  | fmax (e : BitVec 7) (k : BitVec 3)
  /-- FABS (R201). -/
  | fabs (e : BitVec 7) (k : BitVec 3)
  /-- FNEG (R201). -/
  | fneg (e : BitVec 7) (k : BitVec 3)
  /-- FCMP (R201). -/
  | fcmp (e : BitVec 7) (k : BitVec 3)
  /-- FCLAMP (R201). -/
  | fclamp (e : BitVec 7) (k : BitVec 3)
  /-- RCP (R82). -/
  | rcp (e : BitVec 7) (k : BitVec 3)
  /-- RSQ (R82). -/
  | rsq (e : BitVec 7) (k : BitVec 3)
  /-- SQRT (R82). -/
  | sqrt (e : BitVec 7) (k : BitVec 3)
  /-- EXP2 (R82). -/
  | exp2 (e : BitVec 7) (k : BitVec 3)
  /-- LOG2 (R82). -/
  | log2 (e : BitVec 7) (k : BitVec 3)
  /-- EXP (R82). -/
  | exp (e : BitVec 7) (k : BitVec 3)
  /-- LOG (R82). -/
  | log (e : BitVec 7) (k : BitVec 3)
  /-- TANH (R82). -/
  | tanh (e : BitVec 7) (k : BitVec 3)
  /-- SIGM (R82). -/
  | sigm (e : BitVec 7) (k : BitVec 3)
  /-- CVT (R202). -/
  | cvt (e : BitVec 7) (k : BitVec 3)
  /-- RINT (R203). -/
  | rint (e : BitVec 7) (k : BitVec 3)
  /-- FTOI (R203). -/
  | ftoi (e : BitVec 7) (k : BitVec 3)
  /-- ITOF (R203). -/
  | itof (e : BitVec 7) (k : BitVec 3)
  /-- LSUM (R204). -/
  | lsum (e : BitVec 7) (k : BitVec 3)
  /-- LMAX (R204). -/
  | lmax (e : BitVec 7) (k : BitVec 3)
  /-- LMIN (R204). -/
  | lmin (e : BitVec 7) (k : BitVec 3)
  /-- LSCAN (R205). -/
  | lscan (e : BitVec 7) (k : BitVec 3)
  /-- LREC (R206). -/
  | lrec (e : BitVec 7) (k : BitVec 3)
  /-- SHUF (R207). -/
  | shuf (e : BitVec 7) (k : BitVec 3)
  /-- BCAST (R207). -/
  | bcast (e : BitVec 7) (k : BitVec 3)
  /-- LROT (R207). -/
  | lrot (e : BitVec 7) (k : BitVec 3)
  /-- STEER (R208). -/
  | steer (e : BitVec 7) (k : BitVec 3)
  /-- MERGE (R209). -/
  | merge (e : BitVec 7) (k : BitVec 3)
  /-- SWITCH (R210). -/
  | switch (e : BitVec 7) (k : BitVec 3)
  /-- ROUTE (R211). -/
  | route (e : BitVec 7) (k : BitVec 3)
  /-- GATE (R212). -/
  | gate (e : BitVec 7) (k : BitVec 3)
  /-- COUNT (R213). -/
  | count (e : BitVec 7) (k : BitVec 3)
  /-- SPLOOP (R214). -/
  | sploop (e : BitVec 7) (k : BitVec 3)
  /-- ISECT (R215). -/
  | isect (e : BitVec 7) (k : BitVec 3)
  /-- SEQNO (R216). -/
  | seqno (e : BitVec 7) (k : BitVec 3)
  /-- EOSGEN (R217). -/
  | eosgen (e : BitVec 7) (k : BitVec 3)
  /-- PRUNE (R218). -/
  | prune (e : BitVec 7) (k : BitVec 3)
  /-- CONTRIB (R120). -/
  | contrib (e : BitVec 7) (k : BitVec 3)
  /-- MRD (R220). -/
  | mrd (e : BitVec 7) (k : BitVec 3)
  /-- MWR (R220). -/
  | mwr (e : BitVec 7) (k : BitVec 3)
  /-- MACC (R220). -/
  | macc (e : BitVec 7) (k : BitVec 3)
  /-- MPUSH (R222). -/
  | mpush (e : BitVec 7) (k : BitVec 3)
  /-- MPOP (R222). -/
  | mpop (e : BitVec 7) (k : BitVec 3)
  /-- MREORD (R223). -/
  | mreord (e : BitVec 7) (k : BitVec 3)
  /-- MREORD_RELEASE (R223). -/
  | mreordRelease (e : BitVec 7)
  /-- STREAM_READ_TOKEN (R283). -/
  | streamReadToken (s : BitVec 5)
  /-- STREAM_WRITE_TOKEN (R284). -/
  | streamWriteToken (s : BitVec 5)
  /-- GATHER_TOKEN (R284). -/
  | gatherToken (s : BitVec 5)
  /-- SCATTER_TOKEN (R284). -/
  | scatterToken (s : BitVec 5)
  /-- COPY_FIRE (R289). -/
  | copyFire (q : BitVec 3)
  /-- COPY_BEAT (R287). -/
  | copyBeat (p : BitVec 6)
  /-- COPY_COMPLETE (R288). -/
  | copyComplete (p : BitVec 6)
  /-- KEYST_KEY (R312). -/
  | keystKey (s : BitVec 5)
  /-- BGATH_QUERY (R319). -/
  | bgathQuery (s : BitVec 5)
  /-- PAGE_WALK (R301). -/
  | pageWalk
  /-- STREAM_RETRY (R303). -/
  | streamRetry (s : BitVec 5) (agent : Agent)
  /-- COPY_RETRY (R303). -/
  | copyRetry (p : BitVec 6) (agent : Agent)
  /-- MX_WEIGHT_TOKEN (R383). -/
  | mxWeightToken (n : BitVec 2)
  /-- MX_METADATA_TOKEN (R384). -/
  | mxMetadataToken (n : BitVec 2)
  /-- MX_A_TOKEN (R382). -/
  | mxAToken (n : BitVec 2)
  /-- MX_TILE (R387). -/
  | mxTile (n : BitVec 2)
  /-- MX_EPILOGUE_TOKEN (R391). -/
  | mxEpilogueToken (n : BitVec 2)
  /-- EP_EGRESS_TOKEN (R395). -/
  | epEgressToken (p : BitVec 3)
  /-- EP_INGRESS_TOKEN (R394). -/
  | epIngressToken (p : BitVec 3)
  /-- EP_CREDIT (R395). -/
  | epCredit (n : Nat)
  /-- REDUCE_STORE (R392). -/
  | reduceStore (n : Nat)
  /-- SCHED_SELECT (R266). -/
  | schedSelect (v : BitVec 3)
  /-- SCHED_INJECT (R266). -/
  | schedInject (v : BitVec 3)
  /-- BLOCK_AGED (R266). -/
  | blockAged (v : BitVec 3)
  /-- JOB_SELECT (R248). -/
  | jobSelect
  /-- DEPENDENCE_REREAD (R248). -/
  | dependenceReread
  /-- WORK_UNIT_START (R244). -/
  | workUnitStart
  /-- JOB_RETIRE (R247). -/
  | jobRetire
  /-- JQD_WRITE (R439). -/
  | jqdWrite (q : BitVec 4) (val : BitVec 64) (agent : Agent)
  /-- INGRESS_PAYLOAD_WRITE (R249). -/
  | ingressPayloadWrite (off : BitVec 12) (data : BitVec 512)
  /-- INGRESS_SIDEBAND_WRITE (R249). -/
  | ingressSidebandWrite (val : BitVec 64)
  /-- LAUNCH_MESSAGE (R250). -/
  | launchMessage (node : BitVec 14) (partid : BitVec 16) (tag : BitVec 16) (payload : BitVec 64)
  /-- ASYNC_TRAP_ENTRY (R355). -/
  | asyncTrapEntry
  /-- WDOG_EXPIRE (R139). -/
  | wdogExpire
  /-- WDOG_WRITE (R139). -/
  | wdogWrite (val : BitVec 64) (agent : Agent)
  /-- HMSG_WRITE (R359). -/
  | hmsgWrite (val : BitVec 64) (agent : Agent)
  /-- PRESS_UNIT_SAVE (R365). -/
  | pressUnitSave (u : PressUnit)
  /-- PRESS_COMPLETE (R365). -/
  | pressComplete
  /-- HCMD_PRESS (R441). -/
  | hcmdPress (arg : BitVec 64)
  /-- HCMD_RESTART (R441). -/
  | hcmdRestart (entry : BitVec 64)
  /-- HCMD_FENCE (R450). -/
  | hcmdFence
  /-- HCMD_UNFENCE (R450). -/
  | hcmdUnfence
  /-- BOOT_WRITE (R447). -/
  | bootWrite (val : BitVec 64)
  /-- RESET (R446). -/
  | reset
  /-- LINK_REPLAY (R443). -/
  | linkReplay (port : BitVec 6)
  /-- LINK_DOWN (R443). -/
  | linkDown (port : BitVec 6)
  /-- LINK_UP (R444). -/
  | linkUp (port : BitVec 6)
  /-- DIE_PATH_FAILURE (R445). -/
  | diePathFailure (die : BitVec 2)
  /-- THERMAL (R451). -/
  | thermal (die : BitVec 2)
  /-- ECC_UE_REPORT (R442). -/
  | eccUeReport
  /-- PTP_FRAME (R427). -/
  | ptpFrame (state : BitVec 2) (time : BitVec 64) (utc : BitVec 16) (offset : BitVec 32)
  /-- PPS_INPUT (R427). -/
  | ppsInput
  /-- TRIGGER_FIRE (R431). -/
  | triggerFire (n : BitVec 4)
  /-- SINK_RECORD_WRITE (R418). -/
  | sinkRecordWrite (die : BitVec 2) (x : BitVec 3)
  /-- SRIDX_WRITE (R416). -/
  | sridxWrite (die : BitVec 2) (x : BitVec 3) (val : BitVec 64) (agent : Agent)
  /-- SCFG_WRITE (R416). -/
  | scfgWrite (die : BitVec 2) (x : BitVec 3) (val : BitVec 64) (agent : Agent)
  /-- SBASE_WRITE (R416). -/
  | sbaseWrite (die : BitVec 2) (x : BitVec 3) (val : BitVec 64) (agent : Agent)
  /-- WINDOW_WRITE (R141). -/
  | windowWrite (addr : BitVec 50) (width : BitVec 2) (val : BitVec 64) (agent : Agent)
  /-- WRITE_FRAME (R341). -/
  | writeFrame (addr : BitVec 50) (data : List (BitVec 8))
  /-- PPS_OUTPUT (R452). -/
  | ppsOutput
  /-- HOLDOVER (R428). -/
  | holdover
deriving DecidableEq, Repr

end Sys2Proof
end

