-- ==== Sys2Proof/WellFormed.lean ====
section
/-! DEFINITION. Which operand values an instruction admits: the codes that R41, R46, R47 and the entries exclude.
An event is well formed when the unit it names exists (R4, R50). -/

namespace Sys2Proof

/-- Orders of LD and LDU: rlx and acq (R35, R46). -/
def okLoadOrder (o : BitVec 2) : Bool := o == 0 || o == 1

/-- Orders of ST: rlx and rel (R35, R46). -/
def okStoreOrder (o : BitVec 2) : Bool := o == 0 || o == 2

/-- Widths of an AMO: w and d (R47). -/
def okAmoWidth (w : BitVec 2) : Bool := w == 2 || w == 3

/-- Width codes of SEXT and ZEXT: 0 to 2 (R44). -/
def okExtWidth (x : BitVec 5) : Bool := x.toNat < 3

/-- Registers of CAS.q: even ones (R347). -/
def okPair (r : Reg) : Bool := r.toNat % 2 == 0

/-- Is the grid element at this index a compute element: x + y even (R4)? -/
def isCe (e : BitVec 7) : Bool := (e.toNat % 8 + e.toNat / 8) % 2 == 0

/-- Does the stage exist: six on a compute element, two on a memory element (R52)? -/
def okStage (e : BitVec 7) (k : BitVec 3) : Bool := if isCe e then k.toNat < 6 else k.toNat < 2

/-- The operand checks of each instruction, all others admitting every value of their fields. -/
def Instr.wellFormed : Instr → Bool
  | .ld _ _ _ o _ _ | .ldu _ _ _ o _ _ => okLoadOrder o
  | .st _ _ _ o _ _ => okStoreOrder o
  | .amoadd _ _ _ w _ _ | .amoand _ _ _ w _ _ | .amoor _ _ _ w _ _ | .amoxor _ _ _ w _ _
  | .amomin _ _ _ w _ _ | .amomax _ _ _ w _ _ | .amominu _ _ _ w _ _ | .amomaxu _ _ _ w _ _
  | .amoswap _ _ _ w _ _ => okAmoWidth w
  | .sext _ _ x | .zext _ _ x => okExtWidth x
  | .casQ d _ b _ _ => okPair d && okPair b
  | .crdm _ _ _ o _ => o == 0 || o == 2
  | .wait _ _ _ o _ => o == 0 || o == 1
  | .cstat _ _ s => s.toNat < 3
  | .vstat _ s _ => s.toNat < 3
  | .mrd e k | .mwr e k | .macc e k | .mpush e k | .mpop e k | .mreord e k =>
    !isCe e && okStage e k
  | .mreordRelease e => !isCe e
  | .const e k | .delay e k | .iadd e k | .isub e k | .imul e k | .imulh e k | .imac e k
  | .ineg e k | .iabs e k | .imin e k | .imax e k | .isadd e k | .issub e k | .iclamp e k | .stageAnd e k
  | .stageOr e k | .stageXor e k | .stageNot e k | .stageShl e k | .stageShr e k | .stageSar e k | .icmp e k
  | .sel e k | .idot4 e k | .idot2 e k | .fadd e k | .fsub e k | .fmul e k | .fma e k | .fnma e k | .fmin e k
  | .fmax e k | .fabs e k | .fneg e k | .fcmp e k | .fclamp e k | .rcp e k | .rsq e k | .sqrt e k | .exp2 e k
  | .log2 e k | .exp e k | .log e k | .tanh e k | .sigm e k | .cvt e k | .rint e k | .ftoi e k | .itof e k
  | .lsum e k | .lmax e k | .lmin e k | .lscan e k | .lrec e k | .shuf e k | .bcast e k | .lrot e k
  | .steer e k | .merge e k | .switch e k | .route e k | .gate e k | .count e k | .sploop e k | .isect e k
  | .seqno e k | .eosgen e k | .prune e k | .contrib e k | .pass e k => isCe e && okStage e k
  | .linkReplay p | .linkDown p | .linkUp p => p.toNat < 36
  | .hcmdPress _ => true
  | _ => true

end Sys2Proof
end

