-- ==== Sys2Proof/Decode.lean ====
section
/-! DEFINITION. Reading an instruction from its bytes, and writing its word, by the tables of R40 to R48. -/

namespace Sys2Proof

/-- Why a word is no instruction (R41): every one of them raises ILLEGAL. -/
inductive Reject where
  | fewBytes
  | reservedOpcode
  | reservedFunction
  | nonzeroField
  | excludedCode
deriving DecidableEq, Repr

/-- Field of `n` bits from bit `lo` upward. -/
abbrev bitsAt (w : BitVec 32) (lo n : Nat) : BitVec n := w.extractLsb' lo n

/-- An instruction whose unused fields must be zero (R41). -/
def unused (ok : Bool) (i : Instr) : Except Reject Instr := if ok then .ok i else .error .nonzeroField

/-- SYS group, opcode 0x00 (R43, R358). -/
def decodeSys (w : BitVec 32) : Except Reject Instr :=
  let d := bitsAt w 21 5
  let a := bitsAt w 16 5
  let n := bitsAt w 0 12
  match (bitsAt w 12 4).toNat with
  | 0 => unused (d == 0 && a == 0 && n == 0) .nop
  | 1 => unused (d == 0 && a == 0) (.trap n)
  | 2 => unused (d == 0 && a == 0 && n == 0) .eret
  | 3 => unused (d == 0 && a == 0) (.brk n)
  | 4 => unused (d == 0 && a == 0 && n == 0) .idle
  | 5 =>
    match n.toNat with
    | 0 => unused (d == 0 && a == 0) .tlbiAll
    | 1 => unused (d == 0) (.tlbiAsid a)
    | 2 => unused (d == 0) (.tlbiVa a)
    | 3 => unused (d == 0) (.tlbiVaall a)
    | _ => .error .excludedCode
  | 6 =>
    match n.toNat with
    | 0 => .ok (.pressSave d a)
    | 1 => .ok (.pressPart d a)
    | 2 => .ok (.pressRestore d a)
    | _ => .error .excludedCode
  | 7 => unused (a == 0) (.srr d n)
  | 8 => unused (d == 0) (.srw a n)
  | _ => .error .reservedFunction

/-- ALU group, opcode 0x01 (R44, R148, R152). -/
def decodeAlu (w : BitVec 32) : Except Reject Instr :=
  let d := bitsAt w 21 5
  let a := bitsAt w 16 5
  let b := bitsAt w 11 5
  let v := bitsAt w 10 1
  match (bitsAt w 0 10).toNat with
  | 0 => .ok (.add d a b v)
  | 1 => .ok (.sub d a b v)
  | 2 => .ok (.mul d a b v)
  | 3 => unused (v == 0) (.mulh d a b)
  | 4 => unused (v == 0) (.mulhu d a b)
  | 5 => .ok (.div d a b v)
  | 6 => .ok (.divu d a b v)
  | 7 => .ok (.rem d a b v)
  | 8 => .ok (.remu d a b v)
  | 9 => unused (v == 0) (.and d a b)
  | 10 => unused (v == 0) (.or d a b)
  | 11 => unused (v == 0) (.xor d a b)
  | 12 => unused (v == 0) (.andn d a b)
  | 13 => .ok (.shl d a b v)
  | 14 => .ok (.shr d a b v)
  | 15 => .ok (.sar d a b v)
  | 16 => .ok (.rol d a b v)
  | 17 => unused (v == 0) (.min d a b)
  | 18 => unused (v == 0) (.max d a b)
  | 19 => unused (v == 0) (.minu d a b)
  | 20 => unused (v == 0) (.maxu d a b)
  | 21 => unused (v == 0) (.seq d a b)
  | 22 => unused (v == 0) (.sne d a b)
  | 23 => unused (v == 0) (.slt d a b)
  | 24 => unused (v == 0) (.sltu d a b)
  | 25 => unused (v == 0) (.sle d a b)
  | 26 => unused (v == 0) (.sleu d a b)
  | 27 => unused (b == 0) (.clz d a v)
  | 28 => unused (b == 0) (.ctz d a v)
  | 29 => unused (b == 0) (.popc d a v)
  | 30 => unused (v == 0) (.sext d a b)
  | 31 => unused (v == 0) (.zext d a b)
  | 32 => unused (v == 0 && b == 0) (.bswap d a)
  | _ => .error .reservedFunction

/-- SHIFTI, opcode 0x06 (R45, R154). -/
def decodeShift (w : BitVec 32) : Except Reject Instr :=
  let d := bitsAt w 21 5
  let a := bitsAt w 16 5
  let n := bitsAt w 0 6
  let z := bitsAt w 6 8
  match (bitsAt w 14 2).toNat with
  | 0 => unused (z == 0) (.shli d a n)
  | 1 => unused (z == 0) (.shri d a n)
  | 2 => unused (z == 0) (.sari d a n)
  | _ => .error .reservedFunction

/-- The memory forms, opcodes 0x0A to 0x0C (R344). -/
def decodeMem (mk : Reg → Reg → BitVec 2 → BitVec 2 → BitVec 2 → BitVec 10 → Instr) (w : BitVec 32) :
    Except Reject Instr :=
  .ok (mk (bitsAt w 21 5) (bitsAt w 16 5) (bitsAt w 14 2) (bitsAt w 12 2) (bitsAt w 10 2) (bitsAt w 0 10))

/-- AMO group, opcode 0x0D (R346). -/
def decodeAmo (w : BitVec 32) : Except Reject Instr :=
  let d := bitsAt w 21 5
  let a := bitsAt w 16 5
  let b := bitsAt w 11 5
  let z := bitsAt w 5 2
  let o := bitsAt w 3 2
  let p := bitsAt w 1 2
  let q := bitsAt w 0 1
  match (bitsAt w 7 4).toNat with
  | 0 => unused (q == 0) (.amoadd d a b z o p)
  | 1 => unused (q == 0) (.amoand d a b z o p)
  | 2 => unused (q == 0) (.amoor d a b z o p)
  | 3 => unused (q == 0) (.amoxor d a b z o p)
  | 4 => unused (q == 0) (.amomin d a b z o p)
  | 5 => unused (q == 0) (.amomax d a b z o p)
  | 6 => unused (q == 0) (.amominu d a b z o p)
  | 7 => unused (q == 0) (.amomaxu d a b z o p)
  | 8 => unused (q == 0) (.amoswap d a b z o p)
  | _ => .error .reservedFunction

/-- CAS group, opcode 0x0E (R347). -/
def decodeCas (w : BitVec 32) : Except Reject Instr :=
  let d := bitsAt w 21 5
  let a := bitsAt w 16 5
  let b := bitsAt w 11 5
  let z := bitsAt w 5 2
  let o := bitsAt w 3 2
  let p := bitsAt w 1 2
  let q := bitsAt w 0 1
  match (bitsAt w 7 4).toNat with
  | 0 => unused (z == 0 && q == 0) (.casD d a b o p)
  | 1 => unused (z == 0 && q == 0) (.casQ d a b o p)
  | _ => .error .reservedFunction

/-- MSYNC group, opcode 0x0F (R348). -/
def decodeSync (w : BitVec 32) : Except Reject Instr :=
  let d := bitsAt w 21 5
  let a := bitsAt w 16 5
  let b := bitsAt w 11 5
  let z := bitsAt w 5 2
  let o := bitsAt w 3 2
  let p := bitsAt w 1 2
  let q := bitsAt w 0 1
  match (bitsAt w 7 4).toNat with
  | 0 => unused (d == 0 && a == 0 && b == 0 && z == 0 && q == 0) (.fence o p)
  | 1 => unused (d == 0 && b == 0 && z == 0 && o == 0 && q == 0) (.sbar a p)
  | 2 => unused (z == 0 && q == 0) (.wait d a b o p)
  | _ => .error .reservedFunction

/-- BC, opcode 0x12 (R156). -/
def decodeBranch (w : BitVec 32) : Except Reject Instr :=
  let a := bitsAt w 17 5
  let b := bitsAt w 12 5
  let i := bitsAt w 0 12
  match (bitsAt w 22 4).toNat with
  | 0 => .ok (.beq a b i)
  | 1 => .ok (.bne a b i)
  | 2 => .ok (.blt a b i)
  | 3 => .ok (.bge a b i)
  | 4 => .ok (.bltu a b i)
  | 5 => .ok (.bgeu a b i)
  | _ => .error .reservedFunction

/-- JMPR, opcode 0x13 (R157). -/
def decodeJump (w : BitVec 32) : Except Reject Instr :=
  let d := bitsAt w 21 5
  let a := bitsAt w 16 5
  let b := bitsAt w 11 5
  match (bitsAt w 0 11).toNat with
  | 0 => unused (d == 0 && b == 0) (.jr a)
  | 1 => unused (d == 0 && b == 0) (.callr a)
  | _ => .error .reservedFunction

/-- CURD group, opcode 0x14 (R109). -/
def decodeCurd (w : BitVec 32) : Except Reject Instr :=
  let c := bitsAt w 20 6
  let a := bitsAt w 15 5
  let b := bitsAt w 10 5
  let x := bitsAt w 14 1
  let e := bitsAt w 10 4
  let v := bitsAt w 4 1
  let o := bitsAt w 2 2
  let p := bitsAt w 0 2
  let q := bitsAt w 0 5
  match (bitsAt w 5 5).toNat with
  | 0 => unused (b == 0 && q == 0) (.cdecl c a)
  | 1 => unused (q == 0) (.cput c a x e)
  | 2 => unused (x == 0 && o == 0 && p == 0) (.crd c a e v)
  | 3 => unused (b == 0) (.crdm c a v o p)
  | 4 => unused (o == 0 && p == 0) (.crdp c a b v)
  | 5 => unused (a == 0 && b == 0 && q == 0) (.settle c)
  | 6 => unused (a == 0 && b == 0 && q == 0) (.cclr c)
  | 7 => unused (q == 0) (.cstat c a b)
  | _ => .error .reservedFunction

/-- VAT group, opcode 0x15 (R254). -/
def decodeVat (w : BitVec 32) : Except Reject Instr :=
  let d := bitsAt w 21 5
  let a := bitsAt w 16 5
  let b := bitsAt w 11 5
  let z := bitsAt w 3 4
  let v := bitsAt w 0 3
  match (bitsAt w 7 4).toNat with
  | 0 => unused (d == 0 && b == 0 && z == 0) (.cfg a v)
  | 1 => unused (d == 0 && b == 0 && z == 0) (.cfgw a v)
  | 2 => unused (d == 0 && a == 0 && b == 0 && z == 0) (.swap v)
  | 3 => unused (d == 0 && b == 0 && z == 0) (.arm a v)
  | 4 => unused (d == 0 && a == 0 && b == 0 && z == 0) (.drain v)
  | 5 => unused (d == 0 && a == 0 && b == 0 && z == 0) (.vwait v)
  | 6 => unused (a == 0 && z == 0) (.vstat d b v)
  | 7 => unused (d == 0 && a == 0 && b == 0 && z == 0) (.vkill v)
  | _ => .error .reservedFunction

/-- STRM group, opcode 0x16 (R291). -/
def decodeStrm (w : BitVec 32) : Except Reject Instr :=
  let d := bitsAt w 21 5
  let a := bitsAt w 16 5
  let b := bitsAt w 11 5
  let s := bitsAt w 0 5
  let zs := bitsAt w 5 2
  let q := bitsAt w 0 3
  let zq := bitsAt w 3 4
  match (bitsAt w 7 4).toNat with
  | 0 => unused (d == 0 && b == 0 && zs == 0) (.sdef a s)
  | 1 => unused (d == 0 && zs == 0) (.sgo a b s)
  | 2 => unused (d == 0 && zq == 0) (.qarm a b q)
  | 3 => unused (d == 0 && a == 0 && b == 0 && zq == 0) (.qdis q)
  | 4 => unused (d == 0 && b == 0 && zq == 0 && q == 0) (.cpy a)
  | 5 => unused (d == 0 && b == 0 && zs == 0) (.tok a s)
  | 6 => unused (b == 0 && zs == 0) (.trcv d a s)
  | _ => .error .reservedFunction

/-- LNCH group, opcode 0x17 (R48, R245, R246). -/
def decodeLaunch (w : BitVec 32) : Except Reject Instr :=
  let d := bitsAt w 21 5
  let a := bitsAt w 16 5
  let b := bitsAt w 11 5
  match (bitsAt w 0 11).toNat with
  | 0 => unused (b == 0) (.tail d a)
  | 1 => unused (d == 0 && a == 0 && b == 0) .done
  | _ => .error .reservedFunction

/-- HASH group, opcode 0x18 (R321). -/
def decodeHash (w : BitVec 32) : Except Reject Instr :=
  let d := bitsAt w 21 5
  let a := bitsAt w 16 5
  let b := bitsAt w 11 5
  match (bitsAt w 0 11).toNat with
  | 0 => unused (d == 0) (.hseed a b)
  | 1 => unused (d == 0) (.htab a b)
  | 2 => unused (d == 0) (.hpool a b)
  | 3 => unused (b == 0) (.hstat d a)
  | _ => .error .reservedFunction

/-- TRC group, opcode 0x19 (R432). -/
def decodeTrace (w : BitVec 32) : Except Reject Instr :=
  let d := bitsAt w 21 5
  let a := bitsAt w 16 5
  let b := bitsAt w 11 5
  match (bitsAt w 0 11).toNat with
  | 0 => unused (d == 0) (.tev a b)
  | 1 => unused (d == 0 && b == 0) (.tmark a)
  | 2 => unused (d == 0 && b == 0) (.tctl a)
  | 3 => unused (b == 0) (.time d a)
  | 4 => unused (d == 0 && b == 0) (.tat a)
  | _ => .error .reservedFunction

/-- RCSNAP, opcode 0x1A (R42, R371). -/
def decodeSnap (w : BitVec 32) : Except Reject Instr :=
  let d := bitsAt w 21 5
  match (bitsAt w 0 11).toNat with
  | 0 => unused (d == 0) (.rcsnap (bitsAt w 16 5) (bitsAt w 11 5))
  | _ => .error .reservedFunction

/-- The instruction a word's fields spell, by its major opcode (R42). -/
def decodeFields (w : BitVec 32) : Except Reject Instr :=
  let d := bitsAt w 21 5
  let a := bitsAt w 16 5
  let i := bitsAt w 0 16
  match (bitsAt w 26 6).toNat with
  | 0x00 => decodeSys w
  | 0x01 => decodeAlu w
  | 0x02 => .ok (.addi d a i)
  | 0x03 => .ok (.andi d a i)
  | 0x04 => .ok (.ori d a i)
  | 0x05 => .ok (.xori d a i)
  | 0x06 => decodeShift w
  | 0x07 => .ok (.slti d a i)
  | 0x08 => .ok (.sltui d a i)
  | 0x09 => .ok (.lih d a i)
  | 0x0A => decodeMem .ld w
  | 0x0B => decodeMem .ldu w
  | 0x0C => decodeMem .st w
  | 0x0D => decodeAmo w
  | 0x0E => decodeCas w
  | 0x0F => decodeSync w
  | 0x10 => .ok (.jump (bitsAt w 0 26))
  | 0x11 => .ok (.call (bitsAt w 0 26))
  | 0x12 => decodeBranch w
  | 0x13 => decodeJump w
  | 0x14 => decodeCurd w
  | 0x15 => decodeVat w
  | 0x16 => decodeStrm w
  | 0x17 => decodeLaunch w
  | 0x18 => decodeHash w
  | 0x19 => decodeTrace w
  | 0x1A => decodeSnap w
  | _ => .error .reservedOpcode

/-- The instruction of a word, or why it raises ILLEGAL (R41, R46, R47). -/
def decodeWord (w : BitVec 32) : Except Reject Instr :=
  match decodeFields w with
  | .ok i => if i.wellFormed then .ok i else .error .excludedCode
  | .error r => .error r

/-- Four bytes as one little-endian word (R40). -/
def wordOfBytes (b0 b1 b2 b3 : Byte) : BitVec 32 := b3 ++ b2 ++ b1 ++ b0

/-- The bytes of a word, lowest address first (R40). -/
def bytesOfWord (w : BitVec 32) : List Byte :=
  [w.extractLsb' 0 8, w.extractLsb' 8 8, w.extractLsb' 16 8, w.extractLsb' 24 8]

/-- Read one instruction from the front of a list of bytes. -/
def decodeBytes : List Byte → Except Reject (Instr × List Byte)
  | b0 :: b1 :: b2 :: b3 :: rest =>
    match decodeWord (wordOfBytes b0 b1 b2 b3) with
    | .ok i => .ok (i, rest)
    | .error r => .error r
  | _ => .error .fewBytes

/-- The instruction whose bits, numbered as the table numbers them, are `w`; every instruction is one word. -/
def decodeTableWord (_nbits w : Nat) : Option Instr :=
  match decodeBytes (bytesOfWord (BitVec.ofNat 32 w)) with
  | .ok (i, _) => some i
  | .error _ => none

/-! The encoder, one function for each format of R40. -/

def encR (op : BitVec 6) (d a b : Reg) (fn : BitVec 11) : BitVec 32 := op ++ d ++ a ++ b ++ fn
def encI (op : BitVec 6) (d a : Reg) (imm : BitVec 16) : BitVec 32 := op ++ d ++ a ++ imm
def encSys (d a : Reg) (sel : BitVec 4) (n : BitVec 12) : BitVec 32 := (0 : BitVec 6) ++ d ++ a ++ sel ++ n
def encAlu (d a b : Reg) (w : BitVec 1) (fn : BitVec 10) : BitVec 32 := (1 : BitVec 6) ++ d ++ a ++ b ++ w ++ fn
def encSh (d a : Reg) (k : BitVec 2) (n : BitVec 6) : BitVec 32 :=
  (6 : BitVec 6) ++ d ++ a ++ k ++ (0 : BitVec 8) ++ n
def encM (op : BitVec 6) (d a : Reg) (w o p : BitVec 2) (i : BitVec 10) : BitVec 32 :=
  op ++ d ++ a ++ w ++ o ++ p ++ i
def encJ (op : BitVec 6) (i : BitVec 26) : BitVec 32 := op ++ i
def encBC (cond : BitVec 4) (a b : Reg) (i : BitVec 12) : BitVec 32 := (0x12 : BitVec 6) ++ cond ++ a ++ b ++ i
def encC (c : CurdReg) (a b : Reg) (fn : BitVec 5) (v : BitVec 1) (o p : BitVec 2) : BitVec 32 :=
  (0x14 : BitVec 6) ++ c ++ a ++ b ++ fn ++ v ++ o ++ p
def encCe (c : CurdReg) (a : Reg) (x : BitVec 1) (e : BitVec 4) (fn : BitVec 5) (v : BitVec 1) : BitVec 32 :=
  (0x14 : BitVec 6) ++ c ++ a ++ x ++ e ++ fn ++ v ++ (0 : BitVec 4)
def encE (op : BitVec 6) (d a b : Reg) (fn : BitVec 4) (w o p : BitVec 2) : BitVec 32 :=
  op ++ d ++ a ++ b ++ fn ++ w ++ o ++ p ++ (0 : BitVec 1)
def encEv (d a b : Reg) (fn : BitVec 4) (v : BitVec 3) : BitVec 32 :=
  (0x15 : BitVec 6) ++ d ++ a ++ b ++ fn ++ (0 : BitVec 4) ++ v
def encEs (d a b : Reg) (fn : BitVec 4) (s : BitVec 5) : BitVec 32 :=
  (0x16 : BitVec 6) ++ d ++ a ++ b ++ fn ++ (0 : BitVec 2) ++ s
def encEq (d a b : Reg) (fn : BitVec 4) (q : BitVec 3) : BitVec 32 :=
  (0x16 : BitVec 6) ++ d ++ a ++ b ++ fn ++ (0 : BitVec 4) ++ q

/-- The word of an instruction (R40 to R48); an event has none. -/
def encode : Instr → Option (BitVec 32)
  | .nop => some (encSys 0 0 0 0)
  | .trap n => some (encSys 0 0 1 n)
  | .eret => some (encSys 0 0 2 0)
  | .brk n => some (encSys 0 0 3 n)
  | .idle => some (encSys 0 0 4 0)
  | .tlbiAll => some (encSys 0 0 5 0)
  | .tlbiAsid a => some (encSys 0 a 5 1)
  | .tlbiVa a => some (encSys 0 a 5 2)
  | .tlbiVaall a => some (encSys 0 a 5 3)
  | .pressSave d a => some (encSys d a 6 0)
  | .pressPart d a => some (encSys d a 6 1)
  | .pressRestore d a => some (encSys d a 6 2)
  | .srr d r => some (encSys d 0 7 r)
  | .srw a r => some (encSys 0 a 8 r)
  | .add d a b w => some (encAlu d a b w 0)
  | .sub d a b w => some (encAlu d a b w 1)
  | .mul d a b w => some (encAlu d a b w 2)
  | .mulh d a b => some (encAlu d a b 0 3)
  | .mulhu d a b => some (encAlu d a b 0 4)
  | .div d a b w => some (encAlu d a b w 5)
  | .divu d a b w => some (encAlu d a b w 6)
  | .rem d a b w => some (encAlu d a b w 7)
  | .remu d a b w => some (encAlu d a b w 8)
  | .and d a b => some (encAlu d a b 0 9)
  | .or d a b => some (encAlu d a b 0 10)
  | .xor d a b => some (encAlu d a b 0 11)
  | .andn d a b => some (encAlu d a b 0 12)
  | .shl d a b w => some (encAlu d a b w 13)
  | .shr d a b w => some (encAlu d a b w 14)
  | .sar d a b w => some (encAlu d a b w 15)
  | .rol d a b w => some (encAlu d a b w 16)
  | .min d a b => some (encAlu d a b 0 17)
  | .max d a b => some (encAlu d a b 0 18)
  | .minu d a b => some (encAlu d a b 0 19)
  | .maxu d a b => some (encAlu d a b 0 20)
  | .seq d a b => some (encAlu d a b 0 21)
  | .sne d a b => some (encAlu d a b 0 22)
  | .slt d a b => some (encAlu d a b 0 23)
  | .sltu d a b => some (encAlu d a b 0 24)
  | .sle d a b => some (encAlu d a b 0 25)
  | .sleu d a b => some (encAlu d a b 0 26)
  | .clz d a w => some (encAlu d a 0 w 27)
  | .ctz d a w => some (encAlu d a 0 w 28)
  | .popc d a w => some (encAlu d a 0 w 29)
  | .sext d a x => some (encAlu d a x 0 30)
  | .zext d a x => some (encAlu d a x 0 31)
  | .bswap d a => some (encAlu d a 0 0 32)
  | .addi d a i => some (encI 0x02 d a i)
  | .andi d a i => some (encI 0x03 d a i)
  | .ori d a i => some (encI 0x04 d a i)
  | .xori d a i => some (encI 0x05 d a i)
  | .shli d a n => some (encSh d a 0 n)
  | .shri d a n => some (encSh d a 1 n)
  | .sari d a n => some (encSh d a 2 n)
  | .slti d a i => some (encI 0x07 d a i)
  | .sltui d a i => some (encI 0x08 d a i)
  | .lih d a i => some (encI 0x09 d a i)
  | .ld d a w o p i => some (encM 0x0A d a w o p i)
  | .ldu d a w o p i => some (encM 0x0B d a w o p i)
  | .st s a w o p i => some (encM 0x0C s a w o p i)
  | .amoadd d a b w o p => some (encE 0x0D d a b 0 w o p)
  | .amoand d a b w o p => some (encE 0x0D d a b 1 w o p)
  | .amoor d a b w o p => some (encE 0x0D d a b 2 w o p)
  | .amoxor d a b w o p => some (encE 0x0D d a b 3 w o p)
  | .amomin d a b w o p => some (encE 0x0D d a b 4 w o p)
  | .amomax d a b w o p => some (encE 0x0D d a b 5 w o p)
  | .amominu d a b w o p => some (encE 0x0D d a b 6 w o p)
  | .amomaxu d a b w o p => some (encE 0x0D d a b 7 w o p)
  | .amoswap d a b w o p => some (encE 0x0D d a b 8 w o p)
  | .casD d a b o p => some (encE 0x0E d a b 0 0 o p)
  | .casQ d a b o p => some (encE 0x0E d a b 1 0 o p)
  | .fence o p => some (encE 0x0F 0 0 0 0 0 o p)
  | .sbar a p => some (encE 0x0F 0 a 0 1 0 0 p)
  | .wait d a b o p => some (encE 0x0F d a b 2 0 o p)
  | .jump i => some (encJ 0x10 i)
  | .call i => some (encJ 0x11 i)
  | .beq a b i => some (encBC 0 a b i)
  | .bne a b i => some (encBC 1 a b i)
  | .blt a b i => some (encBC 2 a b i)
  | .bge a b i => some (encBC 3 a b i)
  | .bltu a b i => some (encBC 4 a b i)
  | .bgeu a b i => some (encBC 5 a b i)
  | .jr a => some (encR 0x13 0 a 0 0)
  | .callr a => some (encR 0x13 0 a 0 1)
  | .cdecl c a => some (encC c a 0 0 0 0 0)
  | .cput c a x e => some (encCe c a x e 1 0)
  | .crd c d e w => some (encCe c d 0 e 2 w)
  | .crdm c a w o p => some (encC c a 0 3 w o p)
  | .crdp c d b w => some (encC c d b 4 w 0 0)
  | .settle c => some (encC c 0 0 5 0 0 0)
  | .cclr c => some (encC c 0 0 6 0 0 0)
  | .cstat c d s => some (encC c d s 7 0 0 0)
  | .cfg a v => some (encEv 0 a 0 0 v)
  | .cfgw a v => some (encEv 0 a 0 1 v)
  | .swap v => some (encEv 0 0 0 2 v)
  | .arm a v => some (encEv 0 a 0 3 v)
  | .drain v => some (encEv 0 0 0 4 v)
  | .vwait v => some (encEv 0 0 0 5 v)
  | .vstat d s v => some (encEv d 0 s 6 v)
  | .vkill v => some (encEv 0 0 0 7 v)
  | .sdef a s => some (encEs 0 a 0 0 s)
  | .sgo a b s => some (encEs 0 a b 1 s)
  | .qarm a t q => some (encEq 0 a t 2 q)
  | .qdis q => some (encEq 0 0 0 3 q)
  | .cpy a => some (encEq 0 a 0 4 0)
  | .tok a s => some (encEs 0 a 0 5 s)
  | .trcv d a s => some (encEs d a 0 6 s)
  | .tail d a => some (encR 0x17 d a 0 0)
  | .done => some (encR 0x17 0 0 0 1)
  | .hseed a b => some (encR 0x18 0 a b 0)
  | .htab a b => some (encR 0x18 0 a b 1)
  | .hpool a b => some (encR 0x18 0 a b 2)
  | .hstat d a => some (encR 0x18 d a 0 3)
  | .tev a b => some (encR 0x19 0 a b 0)
  | .tmark a => some (encR 0x19 0 a 0 1)
  | .tctl a => some (encR 0x19 0 a 0 2)
  | .time d a => some (encR 0x19 d a 0 3)
  | .tat a => some (encR 0x19 0 a 0 4)
  | .rcsnap a b => some (encR 0x1A 0 a b 0)
  | _ => none

/-- Is the step one that a control processor fetches as a word? -/
def Instr.isWord (i : Instr) : Bool := (encode i).isSome

/-- The word of an instruction, as traps report it (R354); zero for an event, which no trap reports. -/
def Instr.word (i : Instr) : BitVec 32 := (encode i).getD 0

end Sys2Proof
end

