-- ==== Sys2Proof/Machine/Num.lean ====
section
/-! DEFINITION. Numbers: the element formats, FA48 and XP320, exact values, and the roundings that produce their
patterns and flags (03_number_formats R62 to R76). -/

namespace Sys2Proof.Machine

/-- The six sticky flags: bit 0 INV, 1 OVF, 2 UNF, 3 INX, 4 SAT, 5 POISON (R65, R117). -/
abbrev FlagSet := BitVec 6

def flagInv : FlagSet := 1
def flagOvf : FlagSet := 2
def flagUnf : FlagSet := 4
def flagInx : FlagSet := 8
def flagSat : FlagSet := 16
def flagPoison : FlagSet := 32

/-- A flag set raised under a condition. -/
def flagIf (c : Bool) (f : FlagSet) : FlagSet := if c then f else 0

/-- What the top exponent of a floating format encodes (R62). -/
inductive Specials where
  | ieee
  | e4m3
  | finiteOnly
deriving DecidableEq, Repr

/-- A floating format: exponent and fraction widths, bias, specials (R62, R72). -/
structure FloatFmt where
  expBits : Nat
  fracBits : Nat
  bias : Nat
  specials : Specials
deriving DecidableEq, Repr

/-- A number format: an integer of some width, or a floating format. -/
inductive NumFmt where
  | int (width : Nat)
  | float (f : FloatFmt)
deriving DecidableEq, Repr

def f32Fmt : FloatFmt := ⟨8, 23, 127, .ieee⟩
def bf16Fmt : FloatFmt := ⟨8, 7, 127, .ieee⟩
def f16Fmt : FloatFmt := ⟨5, 10, 15, .ieee⟩
def e4m3Fmt : FloatFmt := ⟨4, 3, 7, .e4m3⟩
def e5m2Fmt : FloatFmt := ⟨5, 2, 15, .ieee⟩
def e3m2Fmt : FloatFmt := ⟨3, 2, 3, .finiteOnly⟩
def e2m3Fmt : FloatFmt := ⟨2, 3, 1, .finiteOnly⟩
def e2m1Fmt : FloatFmt := ⟨2, 1, 1, .finiteOnly⟩
def fa48Fmt : FloatFmt := ⟨11, 36, 1023, .ieee⟩

/-- The number format of a format code (R54); codes 12 to 15 name none and read as i32. -/
def fmtOfCode (c : BitVec 4) : NumFmt :=
  match c.toNat with
  | 1 => .float f32Fmt
  | 2 => .float bf16Fmt
  | 3 => .float f16Fmt
  | 4 => .float e4m3Fmt
  | 5 => .float e5m2Fmt
  | 6 => .float e3m2Fmt
  | 7 => .float e2m3Fmt
  | 8 => .float e2m1Fmt
  | 9 => .int 8
  | 10 => .int 4
  | 11 => .int 16
  | _ => .int 32

/-- Is the code a format (R54)? -/
def okFmt (c : BitVec 4) : Bool := c.toNat < 12

/-- Elements per lane of a format code (R63). -/
def perLane (c : BitVec 4) : Nat :=
  match c.toNat with
  | 2 | 3 | 11 => 2
  | 4 | 5 | 9 => 4
  | 6 | 7 => 5
  | 8 | 10 => 8
  | _ => 1

/-- Bits of one element of a format code (R63). -/
def elemBits (c : BitVec 4) : Nat :=
  match c.toNat with
  | 2 | 3 | 11 => 16
  | 4 | 5 | 9 => 8
  | 6 | 7 => 6
  | 8 | 10 => 4
  | _ => 32

/-- Is the code one of a floating format? -/
def isFloatCode (c : BitVec 4) : Bool := 1 ≤ c.toNat && c.toNat ≤ 8

/-- The two 6-bit formats (R63). -/
def isSixBit (c : BitVec 4) : Bool := c.toNat == 6 || c.toNat == 7

/-- The channels that carry SCALE tokens (R76). -/
def isScaledCode (c : BitVec 4) : Bool := (4 ≤ c.toNat && c.toNat ≤ 9)

/-- Width in bits of an encoded element. -/
def NumFmt.width : NumFmt → Nat
  | .int w => w
  | .float f => 1 + f.expBits + f.fracBits

def NumFmt.isFloat : NumFmt → Bool
  | .int _ => false
  | .float _ => true

/-- Exponent of the least significant fraction bit of a subnormal. -/
def FloatFmt.minExp (f : FloatFmt) : Int := 1 - (f.bias : Int) - (f.fracBits : Int)

/-- The pattern of the largest finite value, without its sign (R62). -/
def FloatFmt.maxPat (f : FloatFmt) : Nat :=
  match f.specials with
  | .ieee => (2 ^ f.expBits - 1) * 2 ^ f.fracBits - 1
  | .e4m3 => 2 ^ (f.expBits + f.fracBits) - 2
  | .finiteOnly => 2 ^ (f.expBits + f.fracBits) - 1

/-- The pattern of infinity, for a format that has one. -/
def FloatFmt.infPat (f : FloatFmt) : Nat := (2 ^ f.expBits - 1) * 2 ^ f.fracBits

/-- The canonical NaN (R64); zero for a format without NaN. -/
def FloatFmt.nanPat (f : FloatFmt) : Nat :=
  match f.specials with
  | .ieee => (2 ^ f.expBits - 1) * 2 ^ f.fracBits + 2 ^ (f.fracBits - 1)
  | .e4m3 => 2 ^ (f.expBits + f.fracBits) - 1
  | .finiteOnly => 0

def FloatFmt.hasNan (f : FloatFmt) : Bool := f.specials != .finiteOnly
def FloatFmt.hasInf (f : FloatFmt) : Bool := f.specials == .ieee

/-- The sign bit of a floating pattern. -/
def FloatFmt.signPat (f : FloatFmt) (neg : Bool) : Nat := if neg then 2 ^ (f.expBits + f.fracBits) else 0

/-- An exact value: a NaN, an infinity, or (−1)^neg · m · 2^e; m = 0 is a zero of that sign. -/
inductive Val where
  | nan (signalling : Bool)
  | inf (neg : Bool)
  | fin (neg : Bool) (m : Nat) (e : Int)
deriving DecidableEq, Repr

namespace Val

def isNan : Val → Bool
  | .nan _ => true
  | _ => false

def isSignalling : Val → Bool
  | .nan s => s
  | _ => false

def isInf : Val → Bool
  | .inf _ => true
  | _ => false

def isZero : Val → Bool
  | .fin _ 0 _ => true
  | _ => false

/-- The sign, of a NaN plus. -/
def isNeg : Val → Bool
  | .nan _ => false
  | .inf n => n
  | .fin n _ _ => n

def neg : Val → Val
  | .nan s => .nan s
  | .inf n => .inf (!n)
  | .fin n m e => .fin (!n) m e

def abs : Val → Val
  | .nan s => .nan s
  | .inf _ => .inf false
  | .fin _ m e => .fin false m e

/-- Times a power of two. -/
def scale (v : Val) (k : Int) : Val :=
  match v with
  | .fin n m e => .fin n m (e + k)
  | v => v

/-- The signed integer the value is at exponent `e`, for an `e` at or below its own. -/
def atExp (v : Val) (e : Int) : Int :=
  match v with
  | .fin n m e' =>
    let x : Int := (m * 2 ^ (e' - e).toNat : Nat)
    if n then -x else x
  | _ => 0

def expOf : Val → Int
  | .fin _ _ e => e
  | _ => 0

/-- Order of two values neither of which is a NaN, the two zeros equal: −1, 0 or 1. -/
def cmp (a b : Val) : Int :=
  match a, b with
  | .inf x, .inf y => if x == y then 0 else if x then -1 else 1
  | .inf x, _ => if x then -1 else 1
  | _, .inf y => if y then 1 else -1
  | a, b =>
    let e := min a.expOf b.expOf
    let x := a.atExp e
    let y := b.atExp e
    if x < y then -1 else if x = y then 0 else 1

/-- An exact integer. -/
def ofInt (z : Int) : Val := .fin (z < 0) z.natAbs 0

/-- The exact product (R68): 0 × ∞ is a NaN and raises INV. -/
def mul (a b : Val) : Val × FlagSet :=
  match a, b with
  | .nan _, _ => (.nan false, 0)
  | _, .nan _ => (.nan false, 0)
  | .inf x, .inf y => (.inf (x != y), 0)
  | .inf x, .fin y m _ => if m = 0 then (.nan false, flagInv) else (.inf (x != y), 0)
  | .fin x m _, .inf y => if m = 0 then (.nan false, flagInv) else (.inf (x != y), 0)
  | .fin x m e, .fin y n f => (.fin (x != y) (m * n) (e + f), 0)

end Val

/-- Rounding modes (R66): 0 RNE, 1 RTZ, 2 RUP, 3 RDN, 4 SR. -/
inductive RMode where
  | rne | rtz | rup | rdn | sr
deriving DecidableEq, Repr

/-- The mode of a rounding code (R55); codes 5 to 7 name none and read as RNE. -/
def rmodeOf (c : BitVec 3) : RMode :=
  match c.toNat with
  | 1 => .rtz
  | 2 => .rup
  | 3 => .rdn
  | 4 => .sr
  | _ => .rne

/-- Sign of an exact sum that is zero (R68): −0 when every addend is −0, or under RDN when some addend is nonzero. -/
def zeroSumNeg (xs : List Val) (mode : RMode) : Bool :=
  xs.all (fun v => v.isZero && v.isNeg) || (mode == .rdn && xs.any (fun v => !v.isZero))

/-- ExactSum (R71). -/
def exactSum (xs : List Val) (mode : RMode) : Val × FlagSet :=
  if xs.any Val.isNan then (.nan false, 0)
  else
    let pinf := xs.any (fun v => v.isInf && !v.isNeg)
    let ninf := xs.any (fun v => v.isInf && v.isNeg)
    if pinf && ninf then (.nan false, flagInv)
    else if pinf then (.inf false, 0)
    else if ninf then (.inf true, 0)
    else
      let e : Int := xs.foldl (fun m v => min m v.expOf) 0
      let z : Int := xs.foldl (fun acc v => acc + v.atExp e) 0
      if z = 0 then (.fin (zeroSumNeg xs mode) 0 0, 0)
      else (.fin (z < 0) z.natAbs e, 0)

/-- Does the magnitude `y0 + rem / 2^shift` round to `y0 + 1` (R66, R70)? `draw` is the SR draw. -/
def roundsUp (mode : RMode) (neg : Bool) (y0 rem shift draw : Nat) : Bool :=
  match mode with
  | .rne => 2 * rem > 2 ^ shift || (2 * rem == 2 ^ shift && y0 % 2 == 1)
  | .rtz => false
  | .rup => !neg && rem != 0
  | .rdn => neg && rem != 0
  | .sr => draw < 2 ^ 32 * rem / 2 ^ shift

/-- Round a magnitude m · 2^e to a multiple of 2^q: the quotient and whether it is exact. -/
def roundTo (mode : RMode) (neg : Bool) (m : Nat) (e q : Int) (draw : Nat) : Nat × Bool :=
  if q ≤ e then (m * 2 ^ (e - q).toNat, true)
  else
    let s := (q - e).toNat
    let y0 := m / 2 ^ s
    let r := m % 2 ^ s
    (if roundsUp mode neg y0 r s draw then y0 + 1 else y0, r == 0)

/-- What a magnitude above the largest finite value becomes (R67). -/
def overflowPat (f : FloatFmt) (mode : RMode) (neg : Bool) : Nat × FlagSet :=
  if f.hasInf then
    let mag :=
      match mode with
      | .rne | .sr => f.infPat
      | .rtz => f.maxPat
      | .rup => if neg then f.maxPat else f.infPat
      | .rdn => if neg then f.infPat else f.maxPat
    (f.signPat neg + mag, flagOvf ||| flagInx)
  else (f.signPat neg + f.maxPat, flagSat ||| flagInx)

/-- Round a finite value into a floating format (R71). -/
def roundFloat (f : FloatFmt) (mode : RMode) (draw : Nat) (neg : Bool) (m : Nat) (e : Int) : Nat × FlagSet :=
  if m = 0 then (f.signPat neg, 0)
  else
    let top : Int := (Nat.log2 m : Int) + e
    let q := max (top - f.fracBits) f.minExp
    let (y, exact) := roundTo mode neg m e q draw
    let pat := (q - f.minExp).toNat * 2 ^ f.fracBits + y
    if pat > f.maxPat then overflowPat f mode neg
    else
      (f.signPat neg + pat,
        if exact then 0 else flagInx ||| flagIf (top < f.minExp + f.fracBits) flagUnf)

/-- Least and greatest integers of a width. -/
def intMin (w : Nat) : Int := -(2 ^ (w - 1) : Nat)
def intMax (w : Nat) : Int := (2 ^ (w - 1) : Nat) - 1

/-- Sat (R71). -/
def satInt (w : Nat) (z : Int) : Int × FlagSet :=
  if z < intMin w then (intMin w, flagSat)
  else if z > intMax w then (intMax w, flagSat)
  else (z, 0)

/-- The w-bit pattern of an integer. -/
def intPat (w : Nat) (z : Int) : Nat := (z % (2 ^ w : Nat)).toNat

/-- A w-bit pattern read as two's complement. -/
def patInt (w : Nat) (p : Nat) : Int :=
  let q := p % 2 ^ w
  if q ≥ 2 ^ (w - 1) then (q : Int) - (2 ^ w : Nat) else q

/-- Wrap (R71): the pattern, and OVF when the value changed. -/
def wrapInt (w : Nat) (z : Int) : Nat × FlagSet :=
  let p := intPat w z
  (p, flagIf (patInt w p != z) flagOvf)

/-- Round a finite value to an integer (R71). -/
def intRound (mode : RMode) (draw : Nat) (neg : Bool) (m : Nat) (e : Int) : Int × Bool :=
  let (y, exact) := roundTo mode neg m e 0 draw
  ((if neg then -(y : Int) else y), exact)

/-- Round (R71). -/
def round (fmt : NumFmt) (mode : RMode) (draw : Nat) (x : Val) : Nat × FlagSet :=
  match fmt, x with
  | .int _, .nan _ => (0, flagInv)
  | .int w, .inf neg => (intPat w (if neg then intMin w else intMax w), flagSat)
  | .int w, .fin neg m e =>
    let (y, exact) := intRound mode draw neg m e
    let (z, fl) := satInt w y
    (intPat w z, fl ||| flagIf (!exact) flagInx)
  | .float f, .nan _ => if f.hasNan then (f.nanPat, 0) else (0, flagInv)
  | .float f, .inf neg =>
    if f.hasInf then (f.signPat neg + f.infPat, 0) else (f.signPat neg + f.maxPat, flagSat)
  | .float f, .fin neg m e => roundFloat f mode draw neg m e

/-- The exact value of a floating pattern (R62). -/
def decodeFloat (f : FloatFmt) (p : Nat) : Val :=
  let mag := p % 2 ^ (f.expBits + f.fracBits)
  let neg := p / 2 ^ (f.expBits + f.fracBits) % 2 == 1
  let ex := mag / 2 ^ f.fracBits
  let fr := mag % 2 ^ f.fracBits
  if f.specials == .ieee && ex == 2 ^ f.expBits - 1 then
    if fr == 0 then .inf neg else .nan (fr < 2 ^ (f.fracBits - 1))
  else if f.specials == .e4m3 && mag == 2 ^ (f.expBits + f.fracBits) - 1 then .nan false
  else if ex == 0 then .fin neg fr f.minExp
  else .fin neg (2 ^ f.fracBits + fr) (f.minExp + (ex : Int) - 1)

/-- The exact value of an element pattern, unscaled. -/
def exactOf (fmt : NumFmt) (p : Nat) : Val :=
  match fmt with
  | .int w => .ofInt (patInt w p)
  | .float f => decodeFloat f p

/-- Exact (R71) under the block scale in force, with the flags of consuming it: INV for a signalling NaN (R64) and
for a NaN scale. Outside every group no scale is in force and i8 reads as an integer. -/
def exact (fmt : NumFmt) (sc : Option Byte) (p : Nat) : Val × FlagSet :=
  let v := exactOf fmt p
  match sc with
  | none => (v, flagIf v.isSignalling flagInv)
  | some s =>
    if s == 0xFF then (.nan false, flagInv)
    else
      let v := if fmt == .int 8 then v.scale (-6) else v
      (v.scale ((s.toNat : Int) - 127), flagIf v.isSignalling flagInv)

/-- A subnormal pattern of a floating format. -/
def isSubnormal (f : FloatFmt) (p : Nat) : Bool :=
  let mag := p % 2 ^ (f.expBits + f.fracBits)
  mag != 0 && mag < 2 ^ f.fracBits

/-- Under NBV 1 a subnormal operand reads as a zero of its sign (R86). -/
def flushIn (nbv : Nat) (f : FloatFmt) (p : Nat) : Nat :=
  if nbv == 1 && isSubnormal f p then f.signPat (p / 2 ^ (f.expBits + f.fracBits) % 2 == 1) else p

/-- Under NBV 1 a subnormal result becomes a zero of its sign and raises UNF and INX (R86). -/
def flushOut (nbv : Nat) (f : FloatFmt) (r : Nat × FlagSet) : Nat × FlagSet :=
  if nbv == 1 && isSubnormal f r.1 then
    (f.signPat (r.1 / 2 ^ (f.expBits + f.fracBits) % 2 == 1), r.2 ||| flagUnf ||| flagInx)
  else r

/-- A floating operand under an NBV: its exact value and the flags of consuming it. -/
def floatOperand (nbv : Nat) (f : FloatFmt) (p : Nat) : Val × FlagSet :=
  let v := decodeFloat f (flushIn nbv f p)
  (v, flagIf v.isSignalling flagInv)

/-- Round into a floating format under an NBV. -/
def roundNbv (nbv : Nat) (f : FloatFmt) (mode : RMode) (draw : Nat) (x : Val) : Nat × FlagSet :=
  flushOut nbv f (round (.float f) mode draw x)

/-! XP320 (R73). -/

/-- An XP320 value: the tag (0 finite, 1 +∞, 2 −∞, 3 NaN) and the integer of weight 2^−180. -/
structure XP where
  tag : BitVec 2
  int : BitVec 320
deriving DecidableEq, Repr

def XP.zero : XP := ⟨0, 0⟩

/-- An integer of weight 2^−180 as an XP320 value, with OVF when it leaves the range. -/
def xpOfInt (z : Int) : XP × FlagSet :=
  if z < -(2 ^ 319 : Nat) then (⟨2, 0⟩, flagOvf)
  else if z ≥ (2 ^ 319 : Nat) then (⟨1, 0⟩, flagOvf)
  else (⟨0, BitVec.ofInt 320 z⟩, 0)

/-- ToXP (R73). -/
def toXP (v : Val) : XP × FlagSet :=
  match v with
  | .nan _ => (⟨3, 0⟩, 0)
  | .inf neg => (⟨if neg then 2 else 1, 0⟩, 0)
  | .fin neg m e =>
    let (y, exact) := roundTo .rne neg m e (-180) 0
    let (x, fl) := xpOfInt (if neg then -(y : Int) else y)
    (x, fl ||| flagIf (!exact) flagInx)

/-- Addition of XP320 values (R73). -/
def xpAdd (a b : XP) : XP × FlagSet :=
  if a.tag == 3 || b.tag == 3 then (⟨3, 0⟩, 0)
  else if a.tag != 0 && b.tag != 0 && a.tag != b.tag then (⟨3, 0⟩, flagInv)
  else if a.tag != 0 then (⟨a.tag, 0⟩, 0)
  else if b.tag != 0 then (⟨b.tag, 0⟩, 0)
  else xpOfInt (a.int.toInt + b.int.toInt)

/-- The exact value of an XP320 value; an exact zero is +0 (R73). -/
def xpVal (a : XP) : Val :=
  match a.tag.toNat with
  | 0 => .fin (a.int.toInt < 0) a.int.toInt.natAbs (-180)
  | 1 => .inf false
  | 2 => .inf true
  | _ => .nan false

/-- Reading an XP320 value (R73): Round, once. -/
def xpRead (fmt : NumFmt) (mode : RMode) (draw : Nat) (a : XP) : Nat × FlagSet := round fmt mode draw (xpVal a)

/-! The stochastic generator (R69). -/

/-- One xorshift step. -/
def xorshift (x0 : BitVec 32) : BitVec 32 :=
  let x := x0 ^^^ (x0 <<< 13)
  let x := x ^^^ (x >>> 17)
  x ^^^ (x <<< 5)

/-- The state of lane L at ARM. -/
def srInit (seed : BitVec 32) (lane : Nat) : BitVec 32 :=
  let s := seed ^^^ BitVec.ofNat 32 (lane * 0x9E3779B9)
  if s == 0 then 1 else s

/-- CDraw (R99): the draw of a curd register's rounding. -/
def cdraw (g e u : Nat) : BitVec 32 :=
  let x := BitVec.ofNat 32 (g * 0x9E3779B9 + e * 0x85EBCA6B + u * 0xC2B2AE35 + 1)
  let x := if x == 0 then 1 else x
  xorshift (xorshift (xorshift x))

/-! Maximum and minimum (IEEE 754-2019; R96). -/

/-- Does a order strictly after b, −0 before +0? Neither is a NaN. -/
def valAfter (a b : Val) : Bool :=
  match a.cmp b with
  | 1 => true
  | 0 => a.isZero && b.isZero && !a.isNeg && b.isNeg
  | _ => false

/-- Maximum of two floating patterns: a NaN gives the canonical NaN. -/
def maxPatF (f : FloatFmt) (a b : Nat) : Nat :=
  let x := decodeFloat f a
  let y := decodeFloat f b
  if x.isNan || y.isNan then f.nanPat else if valAfter y x then b else a

/-- Minimum of two floating patterns. -/
def minPatF (f : FloatFmt) (a b : Nat) : Nat :=
  let x := decodeFloat f a
  let y := decodeFloat f b
  if x.isNan || y.isNan then f.nanPat else if valAfter x y then b else a

/-- Maximum of two patterns of a format, signed for integers. -/
def maxPatN (fmt : NumFmt) (a b : Nat) : Nat :=
  match fmt with
  | .int w => if patInt w a ≥ patInt w b then a else b
  | .float f => maxPatF f a b

/-- Minimum of two patterns of a format. -/
def minPatN (fmt : NumFmt) (a b : Nat) : Nat :=
  match fmt with
  | .int w => if patInt w a ≤ patInt w b then a else b
  | .float f => minPatF f a b

/-- INV of an operation that consumes these patterns arithmetically (R64). -/
def signallingFlag (fmt : NumFmt) (ps : List Nat) : FlagSet :=
  flagIf (ps.any (fun p => (exactOf fmt p).isSignalling)) flagInv

end Sys2Proof.Machine
end

