-- ==== Sys2Proof/Machine/Types.lean ====
section
/-! DEFINITION. The data the state is made of: tokens, traps, memory, translation, the control processor and the curd
registers. -/

namespace Sys2Proof.Machine

/-! Tokens (R178, R179). -/

/-- A token: the fields of its sideband and its payload. `shared` says that the slot it holds is no reserved one of its
tag (R170); `cfgId` names the copies of one CFG token inside an element (R186), zero outside. -/
structure Token where
  kind : BitVec 4
  level : BitVec 4
  valid : BitVec 5
  tag : BitVec 3
  r : Bool
  p : Bool
  low : BitVec 6
  data : Payload
  shared : Bool := false
  cfgId : Nat := 0
deriving DecidableEq, Repr

/-- The sideband word of a token (R178). -/
def Token.sideband (t : Token) : BitVec 24 :=
  t.kind ++ t.level ++ t.valid ++ t.tag ++ BitVec.ofBool t.r ++ BitVec.ofBool t.p ++ t.low

/-- The token of a sideband word and a payload. -/
def Token.ofSideband (sb : BitVec 24) (data : Payload) : Token where
  kind := sb.extractLsb' 20 4
  level := sb.extractLsb' 16 4
  valid := sb.extractLsb' 11 5
  tag := sb.extractLsb' 8 3
  r := sb.getLsbD 7
  p := sb.getLsbD 6
  low := sb.extractLsb' 0 6
  data := data

def kDATA : BitVec 4 := 0
def kEOT : BitVec 4 := 1
def kEOD : BitVec 4 := 2
def kEOS : BitVec 4 := 3
def kCFG : BitVec 4 := 4
def kPRESS : BitVec 4 := 5
def kERR : BitVec 4 := 6
def kTHR : BitVec 4 := 7
def kSCALE : BitVec 4 := 8
def kCTRL : BitVec 4 := 9

/-- Lane L of a payload (R13). -/
def lane (d : Payload) (l : Nat) : BitVec 32 := d.extractLsb' (32 * l) 32

/-- A payload of 16 lanes, lane 0 first; missing lanes are zero. -/
def payloadOf (ls : List (BitVec 32)) : Payload :=
  (ls.take 16).foldr (fun l d => (d <<< 32) ||| l.setWidth 512) 0

/-- The 16 lanes of a payload. -/
def lanes (d : Payload) : List (BitVec 32) := (List.range 16).map (lane d)

/-- A token of some kind with nothing set. -/
def plainToken (kind : BitVec 4) : Token :=
  { kind := kind, level := 0, valid := 0, tag := 0, r := false, p := false, low := 0, data := 0 }

/-- An ERR token of a class: P set, VALID 2, two lanes of information (R180). -/
def errToken (cls : BitVec 4) (l0 l1 : BitVec 32) : Token :=
  { plainToken kERR with level := cls, valid := 2, p := true, data := payloadOf [l0, l1] }

/-- EOT, EOD and EOS: the markers. -/
def Token.isMarker (t : Token) : Bool := t.kind == kEOT || t.kind == kEOD || t.kind == kEOS

/-! Traps (R354). -/

/-- The four information words of a trap. -/
structure TInfo where
  t0 : Word
  t1 : Word
  t2 : Word
  t3 : Word
deriving DecidableEq, Repr

def TInfo.zero : TInfo := ⟨0, 0, 0, 0⟩

/-- A synchronous trap: its code and its information words. -/
structure Trap where
  code : BitVec 8
  info : TInfo
deriving DecidableEq, Repr

/-- A pending asynchronous cause of one source (R355, R356). -/
structure Pending where
  code : BitVec 8
  source : Nat
  info : TInfo
deriving DecidableEq, Repr

def cILLEGAL : BitVec 8 := 0x01
def cPRIV : BitVec 8 := 0x02
def cMISALIGN : BitVec 8 := 0x03
def cXLATE : BitVec 8 := 0x04
def cUNBOUND : BitVec 8 := 0x05
def cPOISON : BitVec 8 := 0x06
def cTRAP : BitVec 8 := 0x07
def cBRK : BitVec 8 := 0x08
def cECCUE : BitVec 8 := 0x09
def cVATFAULT : BitVec 8 := 0x10
def cSTREAMXLATE : BitVec 8 := 0x11
def cHOOP : BitVec 8 := 0x12
def cDENSE : BitVec 8 := 0x13
def cVATSTALL : BitVec 8 := 0x14
def cMCAST : BitVec 8 := 0x15
def cGUARD : BitVec 8 := 0x16
def cPRESSDONE : BitVec 8 := 0x17
def cHOSTMSG : BitVec 8 := 0x18
def cTIMER : BitVec 8 := 0x19

/-! Translation (R298 to R302). -/

/-- Why a translation or an access was refused, with the level it failed at (R302). -/
structure Refused where
  reason : BitVec 4
  level : BitVec 3
deriving DecidableEq, Repr

def rINVALID : BitVec 4 := 0
def rPERM : BitVec 4 := 1
def rFORMAT : BitVec 4 := 2
def rRANGE : BitVec 4 := 3
def rALIGN : BitVec 4 := 4
def rBUS : BitVec 4 := 5
def rCOMMAND : BitVec 4 := 6

/-- Why a translation gives no address yet: it is refused, or a walk for it is asked for or runs (R300). -/
inductive XlatStop where
  | refused (r : Refused)
  | walk
deriving DecidableEq, Repr

/-- The entries a TLBI names (R360). -/
inductive TlbiKind where
  | all
  | asid (a : BitVec 16)
  | va (a : BitVec 16) (addr : Nat)
  | vaall (addr : Nat)
deriving DecidableEq, Repr

/-- What an access does. -/
inductive Access where
  | fetch | read | write | readWrite
deriving DecidableEq, Repr

/-- Does an access write? -/
def Access.writes : Access → Bool
  | .fetch | .read => false
  | .write | .readWrite => true

/-- A cached translation: the page of 2^`bits` bytes that holds `va`, the page base and the leaf's bits. -/
structure TlbEntry where
  asid : BitVec 16
  global : Bool
  bits : Nat
  va : Nat
  base : Nat
  remote : Bool
  node : BitVec 14
  level : BitVec 3
  u : Bool
  x : Bool
  w : Bool
  rd : Bool
deriving DecidableEq, Repr

/-- A physical address: the node it names, if remote, and the local address there. -/
structure PhysAddr where
  remote : Bool
  node : BitVec 14
  addr : Nat
deriving DecidableEq, Repr

/-- Where a local address lies (R276). -/
inductive Region where
  | dram (core : Nat)
  | pad (core elem offset : Nat)
  | window (core offset : Nat)
  | ingress (core offset : Nat)
  | absent
deriving DecidableEq, Repr

/-! Commands of the control processor (R145). -/

/-- A command accepted and not yet performed: the instruction, its operand values, and the address space in force. -/
structure Command where
  instr : Instr
  x : Word
  y : Word
  asid : BitVec 16
  ptroot : Word
  priv : Bool
  xoff : Bool
deriving DecidableEq, Repr

/-- A store waiting in the CP's store buffer (R143). -/
structure PendingStore where
  addr : Nat
  len : Nat
  data : BitVec 512
deriving DecidableEq, Repr

/-! The control processor (06_control_processor). -/

/-- What a control processor is doing. -/
inductive CpMode where
  | running
  | idling
  | rom
  | held
  | stopped
  | between
deriving DecidableEq, Repr

/-- The registers of one control processor; `fetched` is the address of its last fetch (R442), `asked` the cycle in which the
instruction at the program counter asked for a walk (R301). -/
structure Cp where
  gpr : Vector Word 32
  pc : Word
  mode : CpMode
  mstat : Word
  nbv : Word
  curdctl : Word
  cycleOff : Word
  retired : Word
  unitid : BitVec 24
  joblpb : Word
  tvb : Word
  tcause : Word
  tepc : Word
  tinfo : TInfo
  tscratch : Word
  asid : BitVec 16
  ptroot : Word
  wdogLimit : BitVec 32
  wdogStart : Nat
  locked : Bool
  waitFrom : Option Nat
  fetched : Word
  asked : Option Nat
  winSrs : List Nat
  winPrv : Bool
  winAt : Nat
deriving DecidableEq, Repr

/-! The trace fabric (R413 to R420). -/

/-- One context of a die's trace sink: its registers, the records in its buffer, the events waiting at their sources
(lossless mode), and the events discarded since the last SINK_LOST. -/
structure Sink where
  base : Word
  cfg : Word
  widx : BitVec 32
  ridx : BitVec 32
  drops : BitVec 32
  stalls : BitVec 32
  buf : List (BitVec 128)
  waiting : List (BitVec 128)
  lost : Nat
deriving DecidableEq, Repr

/-- An event that a unit of a core has still to raise, because it raised another in the same cycle (R414) or its queue is
full (R420), with the cause that becomes pending with it. -/
structure Report where
  unit : Nat
  type : BitVec 8
  payload : BitVec 32
  cause : Option Pending
deriving DecidableEq, Repr

/-- An armed time trigger (R430): its record's address and the address space it is reached under, the record, the copied
image or payload, the nanosecond it is due in and whether its target had passed when TAT was performed. -/
structure TimeTrigger where
  addr : Word
  asid : BitVec 16
  ptroot : Word
  priv : Bool
  xoff : Bool
  target : Nat
  kind : BitVec 4
  stream : BitVec 5
  queue : BitVec 3
  image : Payload
  side : BitVec 64
  due : Nat
  late : Bool
deriving DecidableEq, Repr

/-! Curd registers (R89). -/

/-- A value in partial representation: a pattern of FA48, f32 or an element, or an XP320 value, or an AFF pair. -/
structure PVal where
  tag : BitVec 2
  bits : BitVec 320
deriving DecidableEq, Repr

/-- A contribution (R94): lanes, valid lanes, contribution format, close mark, poison; `lo` is the first element. -/
structure Contribution where
  data : Payload
  valid : BitVec 16
  fmt : BitVec 4
  exactIn : Bool
  close : Bool
  p : Bool
deriving DecidableEq, Repr

/-- A contribution on its way: made in this cycle, present from the next one on (R95). The register, the binding word
and ADDR of the unit, the stage of an element, the vat slot of the unit. -/
structure Entering where
  reg : BitVec 6
  bind : BitVec 16
  addr : Nat
  stage : Option Nat
  vat : Option Nat
  contrib : Contribution
deriving DecidableEq, Repr

/-- One partial of a curd register. -/
structure Partial where
  vals : Vector PVal 16
  present : BitVec 16
  closed : Bool
  pending : Option Contribution
  flags : FlagSet
  entries : BitVec 32
deriving DecidableEq, Repr

/-- One curd register: declaration, generation, partials, combine record, SRC, CPUT entries. -/
structure Curd where
  decl : BitVec 24
  binds : Vector (BitVec 16) 8
  gen : BitVec 32
  parts : Vector Partial 8
  arose : FlagSet
  first : Vector (BitVec 3) 6
  src : BitVec 8
  cputs : BitVec 32
deriving DecidableEq, Repr

end Sys2Proof.Machine
end

