-- ==== Sys2Proof/Machine/FabricTypes.lean ====
section
/-! DEFINITION. The data of the grid: configuration planes of elements, pools, stages and tokens in flight
(08_fabric_and_configuration, 09_stage_operations). -/

namespace Sys2Proof.Machine

/-! Configuration (R52, R168, R169, R176, R183). -/

/-- One phase of a stage (R52); `written` marks an OP word since BEGIN (R175). -/
structure PhaseCfg where
  op : BitVec 16
  mod : BitVec 16
  dst : BitVec 16
  rep : BitVec 16
  arg : BitVec 16
  written : Bool
deriving DecidableEq, Repr

/-- One stage: PSEL, its four phases, its seed. -/
structure StageCfg where
  psel : BitVec 16
  phases : Vector PhaseCfg 4
  seed : BitVec 32
deriving DecidableEq, Repr

/-- One input port: the pool size and one LTAG word per tag. -/
structure PortCfg where
  slots : BitVec 4
  tags : Vector (BitVec 16) 8
deriving DecidableEq, Repr

/-- One plane of a grid element. `blocked` holds the FIELD of the word that made it BLOCKED (R51, R188). -/
structure ElemCfg where
  stages : Vector StageCfg 6
  kregs : Vector Payload 4
  kReg : BitVec 2
  kIdx : BitVec 5
  xb : Vector (BitVec 16) 4
  lsel : BitVec 16
  inPorts : Vector PortCfg 8
  osel : BitVec 16
  outPorts : Vector (BitVec 16) 8
  rset : BitVec 32
  repl : BitVec 16
  replSet : Bool
  blocked : Option (BitVec 6)
deriving DecidableEq, Repr

/-! Edge units (R279, R311, R318, R378, R394). -/

/-- A level of a stream's geometry: count, dimension, step. -/
structure LevelCfg where
  cnt : BitVec 16
  dim : BitVec 2
  step : BitVec 16
deriving DecidableEq, Repr

/-- A dimension of a stream's geometry: origin, extent, pitch. -/
structure DimCfg where
  org : BitVec 32
  ext : BitVec 32
  pit : BitVec 32
deriving DecidableEq, Repr

/-- One plane of a stream. `key` holds the fields 0x14 to 0x1F. -/
structure StreamCfg where
  mode : BitVec 16
  mark : BitVec 16
  lsel : BitVec 4
  levels : Vector LevelCfg 8
  dsel : BitVec 2
  dims : Vector DimCfg 4
  pad : BitVec 32
  isel : BitVec 3
  slots : BitVec 4
  tags : Vector (BitVec 16) 8
  oport : BitVec 16
  cq : BitVec 3
  key : Vector (BitVec 16) 12
  blocked : Option (BitVec 6)
deriving DecidableEq, Repr

/-- One plane of a matrix node: its words 0x00 to 0x0E. -/
structure MxCfg where
  words : Vector (BitVec 16) 15
  blocked : Option (BitVec 6)
deriving DecidableEq, Repr

/-- One plane of an edge port: its words 0x00 to 0x04. -/
structure EpCfg where
  words : Vector (BitVec 16) 5
  blocked : Option (BitVec 6)
deriving DecidableEq, Repr

/-! Tokens on their way. -/

/-- Where a link ends: a port and tag of a grid element, an input tag of a stream, an input port of a matrix node
(0 w, 1 a0, 2 a1, 3 m), or an edge port (R164, R377, R394). -/
inductive Endpoint where
  | grid (e port tag : Nat)
  | stream (s tag : Nat)
  | matrix (n port : Nat)
  | edge (p : Nat)
deriving DecidableEq, Repr

/-- A token in flight toward an endpoint, the sending format of its link, the cycle in which it arrives (R165, R167), and
whether a parity check on the way fails (R448). -/
structure Flight where
  dest : Endpoint
  tok : Token
  fmt : BitVec 4
  arrive : Nat
  spoilt : Bool
deriving DecidableEq, Repr

/-- Block scales in force for the tokens that follow a SCALE token (R75): its scale bytes, the data tokens left in the
group, the elements of the group already read. -/
structure ScaleGroup where
  bytes : Payload
  left : Nat
  elems : Nat
deriving DecidableEq, Repr

/-- The tokens waiting at one tag of an input port, the elements of the head already taken by a conversion, the scales
in force, the latched press marker, and the sending format of the link (R80, R81, R364, R455). -/
structure InQueue where
  toks : List Token
  taken : Nat
  scale : Option ScaleGroup
  marker : Option Token
  fmt : BitVec 4
deriving DecidableEq, Repr

/-- One element on its way through a conversion: its pattern, format and scale, the token's P and R, and a power of
two it is multiplied by (R79, R80, R203). -/
structure SrcElem where
  pat : Nat
  fmt : BitVec 4
  scale : Option Byte
  p : Bool
  r : Bool
  shift : Int
  inv : Bool
deriving DecidableEq, Repr

/-- The sending router of an output port: elements not yet packed, tokens converted and waiting for a slot, scales in
force, the stage that sent last (R78 to R81). -/
structure OutConv where
  elems : List SrcElem
  waiting : List Token
  scale : Option ScaleGroup
  stage : Nat
deriving DecidableEq, Repr

/-! Running state of a stage (R182, R192, R224). -/

/-- State of an operation that belongs to a phase (R224). The fields serve every operation: `count` numbers tokens
(CONST, COUNT, SEQNO, EOSGEN), `base` is a loop or bit base (COUNT, SPLOOP), `carry` the LSCAN or LREC carry, `elems` the
elements a conversion, PRUNE or ISECT has not yet packed, `out` the tokens of a result still to send, `idxA` and `idxB` the places ISECT has reached in its tokens, `posA` and `posB` in its segments, `lastA` and
`lastB` the coordinates before them, `skipA` and `skipB` a side whose segment is skipped, `stopped` a source that
ended. -/
structure PhaseState where
  count : Nat
  base : Nat
  carry : Option Nat
  elems : List SrcElem
  out : List Token
  idxA : Nat
  idxB : Nat
  posA : Nat
  posB : Nat
  lastA : Option Int
  lastB : Option Int
  skipA : Bool
  skipB : Bool
  stopped : Bool
deriving DecidableEq, Repr

/-- Running state of one stage. `inq` holds the tokens that each lower stage has sent, `scales` the block scales in force on
them (R75), `branch` the branch counters of its output ports, `told` the ports whose counter
has been reported (R398). -/
structure StageState where
  phase : BitVec 2
  count : Nat
  perPhase : Vector PhaseState 4
  inq : Tbl (List (Nat × Token))
  scales : Tbl (Option ScaleGroup)
  hold : Payload
  holdNext : List (Nat × Payload)
  flags : FlagSet
  sr : Vector (BitVec 32) 16
  counters : Vector (BitVec 32) 8
  alternate : Tbl Bool
  dead : Bool
  lastFire : Option Nat
  told : BitVec 8
  replica : Nat
  branch : Tbl Nat
  detached : BitVec 8
  lastOut : Option Nat
deriving DecidableEq, Repr

/-- Running state of one grid element. `fifo`, `fifoAt`, `window` and `next` belong to a memory element (R222, R223):
`fifoAt` is the line of the FIFO's first token, whose payload stands in the bank; `lines` are the lines written since the
work unit began (R366). `cfgSeq` numbers the CFG tokens taken from input ports, `cfgDone` are those of which some stage
has applied the KSEL and KDATA words (R186); `blockedFrom` is the cycle from which the element is BLOCKED (R188). -/
structure Elem where
  outs : Tbl OutConv
  stages : Vector StageState 6
  fifo : List Token
  fifoAt : Nat
  window : Tbl Token
  next : Nat
  lines : List Nat
  cfgSeq : Nat
  cfgDone : List Nat
  blockedFrom : Option Nat
  pressed : Bool
  saved : Bool
deriving DecidableEq, Repr

/-! One cycle of the grid (R171, R173). -/

/-- What may act in the grid in a cycle: a stage, the write side of a reorder window (R223), the converting router of an
output port (R81). -/
inductive Claimant where
  | stage (e k : Nat)
  | release (e : Nat)
  | router (e p : Nat)
deriving DecidableEq, Repr

/-- A claimant that acts in a cycle, and the links on which its claim takes a shared slot (R171). -/
structure Planned where
  who : Claimant
  shared : List Endpoint
deriving DecidableEq, Repr

/-! Vat controllers (R251 to R260). -/

/-- The state of a vat slot (R252), in the order of its codes. -/
inductive VatState where
  | free | loaded | armed | running | draining | drained | retired | killed | blocked | residue
deriving DecidableEq, Repr

/-- The culture status (R260). -/
inductive Cst where
  | empty | loading | loaded | incomplete
deriving DecidableEq, Repr

/-- What a plane of a vat holds: the BEGIN rectangle, the identifier, where it was read, the edge units its words
address, the first framing error (R61), and the controller's own fields (R264). -/
structure Plane where
  rect : BitVec 16
  id : BitVec 32
  addr : Word
  units : List Nat
  framing : Option (BitVec 10)
  ctl : Tbl (BitVec 16)
deriving DecidableEq, Repr

/-- One vat slot. `quietFrom` is the cycle in which a waiting SWAP has found the region quiet (R228). -/
structure Vat where
  state : VatState
  code : BitVec 4
  faddr : BitVec 10
  vseq : Word
  cw : Word
  window : Word
  nbv : Nat
  active : Option Plane
  culture : Option Plane
  cst : Cst
  cstCode : BitVec 4
  loadAt : Option Command
  reported : List Nat
  firstFlag : Vector (BitVec 10) 6
  firstAt : Vector Nat 6
  lastFire : Nat
  stallReported : Bool
  asid : BitVec 16
  ptroot : Word
  priv : Bool
  xoff : Bool
  addrError : Bool
  quietFrom : Option Nat
  pressed : Bool
  saved : Bool
deriving DecidableEq, Repr

end Sys2Proof.Machine
end

