-- ==== Sys2Proof/Machine/OpTable.lean ====
section
/-! DEFINITION. The stage operations: their codes (R60) and the columns of the operation map (R196, R219). -/

namespace Sys2Proof.Machine

/-- The stage operations of R60. -/
inductive StageOp where
  | pass
  | const
  | delay
  | iadd
  | isub
  | imul
  | imulh
  | imac
  | ineg
  | iabs
  | imin
  | imax
  | isadd
  | issub
  | iclamp
  | stageAnd
  | stageOr
  | stageXor
  | stageNot
  | stageShl
  | stageShr
  | stageSar
  | icmp
  | sel
  | idot4
  | idot2
  | fadd
  | fsub
  | fmul
  | fma
  | fnma
  | fmin
  | fmax
  | fabs
  | fneg
  | fcmp
  | fclamp
  | rcp
  | rsq
  | sqrt
  | exp2
  | log2
  | exp
  | log
  | tanh
  | sigm
  | cvt
  | rint
  | ftoi
  | itof
  | lsum
  | lmax
  | lmin
  | lscan
  | lrec
  | shuf
  | bcast
  | lrot
  | steer
  | merge
  | switch
  | route
  | gate
  | count
  | sploop
  | isect
  | seqno
  | eosgen
  | prune
  | contrib
  | mrd
  | mwr
  | macc
  | mpush
  | mpop
  | mreord
deriving DecidableEq, Repr

/-- The operands an operation takes (R196): one register, A, A and B, A B and C, A or none, none. -/
inductive Arity where
  | reg | a | ab | abc | aOrNone | none
deriving DecidableEq, Repr

/-- The formats an operation accepts (R196). -/
inductive FmtSet where
  | any | int | float | i8x4 | i16x2 | reduce | f32 | i32 | prune | contrib | macc
deriving DecidableEq, Repr

/-- What ARG holds (R196). -/
inductive ArgKind where
  | zero | any | delay | opC | lane | elseList | merge | prune | contrib | cap
deriving DecidableEq, Repr

/-- A row of the operation map. -/
structure OpRow where
  code : BitVec 8
  arity : Arity
  fmts : FmtSet
  latency : Nat
  guard : Bool
  round : Bool
  modMask : BitVec 6
  arg : ArgKind
deriving DecidableEq, Repr

/-- The operation map (R196, R219). DELAY's latency is its ARG. -/
def StageOp.row : StageOp → OpRow
  | .pass => ⟨0x00, .a, .any, 1, false, false, 0x00, .zero⟩
  | .const => ⟨0x01, .reg, .any, 1, false, false, 0x00, .any⟩
  | .delay => ⟨0x02, .a, .any, 1, false, false, 0x00, .delay⟩
  | .iadd => ⟨0x10, .ab, .int, 1, true, false, 0x00, .zero⟩
  | .isub => ⟨0x11, .ab, .int, 1, true, false, 0x00, .zero⟩
  | .imul => ⟨0x12, .ab, .int, 1, true, false, 0x20, .zero⟩
  | .imulh => ⟨0x13, .ab, .int, 1, false, false, 0x00, .zero⟩
  | .imac => ⟨0x14, .abc, .int, 1, false, false, 0x20, .opC⟩
  | .ineg => ⟨0x15, .a, .int, 1, false, false, 0x20, .zero⟩
  | .iabs => ⟨0x16, .a, .int, 1, false, false, 0x20, .zero⟩
  | .imin => ⟨0x17, .ab, .int, 1, true, false, 0x00, .zero⟩
  | .imax => ⟨0x18, .ab, .int, 1, true, false, 0x00, .zero⟩
  | .isadd => ⟨0x19, .ab, .int, 1, true, false, 0x00, .zero⟩
  | .issub => ⟨0x1A, .ab, .int, 1, true, false, 0x00, .zero⟩
  | .iclamp => ⟨0x1B, .abc, .int, 1, false, false, 0x00, .opC⟩
  | .stageAnd => ⟨0x1C, .ab, .any, 1, true, false, 0x00, .zero⟩
  | .stageOr => ⟨0x1D, .ab, .any, 1, true, false, 0x00, .zero⟩
  | .stageXor => ⟨0x1E, .ab, .any, 1, true, false, 0x00, .zero⟩
  | .stageNot => ⟨0x1F, .a, .any, 1, false, false, 0x00, .zero⟩
  | .stageShl => ⟨0x20, .ab, .int, 1, true, false, 0x20, .zero⟩
  | .stageShr => ⟨0x21, .ab, .int, 1, true, false, 0x00, .zero⟩
  | .stageSar => ⟨0x22, .ab, .int, 1, true, false, 0x00, .zero⟩
  | .icmp => ⟨0x23, .ab, .int, 1, false, false, 0x07, .zero⟩
  | .sel => ⟨0x24, .abc, .any, 1, false, false, 0x00, .opC⟩
  | .idot4 => ⟨0x25, .abc, .i8x4, 1, false, false, 0x00, .opC⟩
  | .idot2 => ⟨0x26, .abc, .i16x2, 1, false, false, 0x00, .opC⟩
  | .fadd => ⟨0x30, .ab, .float, 3, true, true, 0x00, .zero⟩
  | .fsub => ⟨0x31, .ab, .float, 3, true, true, 0x00, .zero⟩
  | .fmul => ⟨0x32, .ab, .float, 3, true, true, 0x00, .zero⟩
  | .fma => ⟨0x33, .abc, .float, 3, false, true, 0x00, .opC⟩
  | .fnma => ⟨0x34, .abc, .float, 3, false, true, 0x00, .opC⟩
  | .fmin => ⟨0x35, .ab, .float, 3, true, false, 0x00, .zero⟩
  | .fmax => ⟨0x36, .ab, .float, 3, true, false, 0x00, .zero⟩
  | .fabs => ⟨0x37, .a, .float, 3, false, false, 0x00, .zero⟩
  | .fneg => ⟨0x38, .a, .float, 3, false, false, 0x00, .zero⟩
  | .fcmp => ⟨0x39, .ab, .float, 3, false, false, 0x07, .zero⟩
  | .fclamp => ⟨0x3A, .abc, .float, 3, false, false, 0x00, .opC⟩
  | .rcp => ⟨0x3B, .a, .float, 6, false, true, 0x00, .zero⟩
  | .rsq => ⟨0x3C, .a, .float, 6, false, true, 0x00, .zero⟩
  | .sqrt => ⟨0x3D, .a, .float, 6, false, true, 0x00, .zero⟩
  | .exp2 => ⟨0x3E, .a, .float, 6, false, true, 0x00, .zero⟩
  | .log2 => ⟨0x3F, .a, .float, 6, false, true, 0x00, .zero⟩
  | .exp => ⟨0x40, .a, .float, 6, false, true, 0x00, .zero⟩
  | .log => ⟨0x41, .a, .float, 6, false, true, 0x00, .zero⟩
  | .tanh => ⟨0x42, .a, .float, 6, false, true, 0x00, .zero⟩
  | .sigm => ⟨0x43, .a, .float, 6, false, true, 0x00, .zero⟩
  | .cvt => ⟨0x48, .a, .any, 3, false, true, 0x0F, .zero⟩
  | .rint => ⟨0x49, .a, .float, 3, false, true, 0x00, .zero⟩
  | .ftoi => ⟨0x4A, .ab, .float, 3, false, true, 0x0F, .zero⟩
  | .itof => ⟨0x4B, .ab, .int, 3, false, true, 0x0F, .zero⟩
  | .lsum => ⟨0x50, .a, .reduce, 4, false, true, 0x00, .zero⟩
  | .lmax => ⟨0x51, .a, .reduce, 4, false, false, 0x00, .zero⟩
  | .lmin => ⟨0x52, .a, .reduce, 4, false, false, 0x00, .zero⟩
  | .lscan => ⟨0x53, .a, .reduce, 4, false, true, 0x01, .zero⟩
  | .lrec => ⟨0x54, .ab, .f32, 4, false, true, 0x07, .zero⟩
  | .shuf => ⟨0x55, .ab, .any, 4, false, false, 0x00, .zero⟩
  | .bcast => ⟨0x56, .a, .any, 4, false, false, 0x00, .lane⟩
  | .lrot => ⟨0x57, .a, .any, 4, false, false, 0x00, .lane⟩
  | .steer => ⟨0x60, .ab, .any, 1, false, false, 0x07, .elseList⟩
  | .merge => ⟨0x61, .ab, .any, 1, false, false, 0x3F, .merge⟩
  | .switch => ⟨0x62, .ab, .any, 1, false, false, 0x00, .zero⟩
  | .route => ⟨0x63, .ab, .any, 1, false, false, 0x00, .zero⟩
  | .gate => ⟨0x64, .ab, .any, 1, false, false, 0x01, .zero⟩
  | .count => ⟨0x65, .aOrNone, .i32, 1, false, false, 0x0F, .any⟩
  | .sploop => ⟨0x66, .ab, .i32, 1, false, false, 0x01, .zero⟩
  | .isect => ⟨0x67, .ab, .i32, 1, false, false, 0x01, .zero⟩
  | .seqno => ⟨0x68, .a, .any, 1, false, false, 0x01, .zero⟩
  | .eosgen => ⟨0x69, .a, .any, 1, false, false, 0x00, .any⟩
  | .prune => ⟨0x70, .a, .prune, 4, false, false, 0x00, .prune⟩
  | .contrib => ⟨0x78, .a, .contrib, 1, false, true, 0x00, .contrib⟩
  | .mrd => ⟨0x80, .a, .any, 2, false, false, 0x01, .zero⟩
  | .mwr => ⟨0x81, .ab, .any, 1, false, false, 0x01, .zero⟩
  | .macc => ⟨0x82, .ab, .macc, 1, false, true, 0x01, .zero⟩
  | .mpush => ⟨0x83, .a, .any, 1, false, false, 0x00, .cap⟩
  | .mpop => ⟨0x84, .none, .any, 2, false, false, 0x00, .cap⟩
  | .mreord => ⟨0x85, .ab, .any, 1, false, false, 0x00, .cap⟩

/-- The operation of a code (R60); the other codes are reserved. -/
def opOfCode (c : BitVec 8) : Option StageOp :=
  match c.toNat with
  | 0x00 => some .pass
  | 0x01 => some .const
  | 0x02 => some .delay
  | 0x10 => some .iadd
  | 0x11 => some .isub
  | 0x12 => some .imul
  | 0x13 => some .imulh
  | 0x14 => some .imac
  | 0x15 => some .ineg
  | 0x16 => some .iabs
  | 0x17 => some .imin
  | 0x18 => some .imax
  | 0x19 => some .isadd
  | 0x1A => some .issub
  | 0x1B => some .iclamp
  | 0x1C => some .stageAnd
  | 0x1D => some .stageOr
  | 0x1E => some .stageXor
  | 0x1F => some .stageNot
  | 0x20 => some .stageShl
  | 0x21 => some .stageShr
  | 0x22 => some .stageSar
  | 0x23 => some .icmp
  | 0x24 => some .sel
  | 0x25 => some .idot4
  | 0x26 => some .idot2
  | 0x30 => some .fadd
  | 0x31 => some .fsub
  | 0x32 => some .fmul
  | 0x33 => some .fma
  | 0x34 => some .fnma
  | 0x35 => some .fmin
  | 0x36 => some .fmax
  | 0x37 => some .fabs
  | 0x38 => some .fneg
  | 0x39 => some .fcmp
  | 0x3A => some .fclamp
  | 0x3B => some .rcp
  | 0x3C => some .rsq
  | 0x3D => some .sqrt
  | 0x3E => some .exp2
  | 0x3F => some .log2
  | 0x40 => some .exp
  | 0x41 => some .log
  | 0x42 => some .tanh
  | 0x43 => some .sigm
  | 0x48 => some .cvt
  | 0x49 => some .rint
  | 0x4A => some .ftoi
  | 0x4B => some .itof
  | 0x50 => some .lsum
  | 0x51 => some .lmax
  | 0x52 => some .lmin
  | 0x53 => some .lscan
  | 0x54 => some .lrec
  | 0x55 => some .shuf
  | 0x56 => some .bcast
  | 0x57 => some .lrot
  | 0x60 => some .steer
  | 0x61 => some .merge
  | 0x62 => some .switch
  | 0x63 => some .route
  | 0x64 => some .gate
  | 0x65 => some .count
  | 0x66 => some .sploop
  | 0x67 => some .isect
  | 0x68 => some .seqno
  | 0x69 => some .eosgen
  | 0x70 => some .prune
  | 0x78 => some .contrib
  | 0x80 => some .mrd
  | 0x81 => some .mwr
  | 0x82 => some .macc
  | 0x83 => some .mpush
  | 0x84 => some .mpop
  | 0x85 => some .mreord
  | _ => none

/-- Is the operation a memory element's (R60)? -/
def StageOp.isMem (o : StageOp) : Bool := 0x80 ≤ o.row.code.toNat

/-- The operations that move bit patterns (R78): a link is not converted at their end. -/
def StageOp.interprets (o : StageOp) : Bool :=
  match o with
  | .pass | .const | .delay | .steer | .merge | .switch | .route | .gate | .count | .seqno | .eosgen => false
  | o => !o.isMem

/-- Does a format code belong to a set (R196)? -/
def FmtSet.holds (s : FmtSet) (c : BitVec 4) : Bool :=
  let n := c.toNat
  match s with
  | .any => n < 12
  | .int => n == 0 || n == 9 || n == 10 || n == 11
  | .float => n == 1 || n == 2 || n == 3
  | .i8x4 => n == 9
  | .i16x2 => n == 11
  | .reduce => n ≤ 3
  | .f32 => n == 1
  | .i32 => n == 0
  | .prune => n < 12 && n != 6 && n != 7
  | .contrib => n ≤ 1
  | .macc => n ≤ 1

/-! Fields of a phase's words. -/

def PhaseCfg.opcode (p : PhaseCfg) : BitVec 8 := p.op.extractLsb' 8 8
def PhaseCfg.stageOp (p : PhaseCfg) : Option StageOp := if p.written then opOfCode p.opcode else none
def PhaseCfg.selA (p : PhaseCfg) : BitVec 4 := p.op.extractLsb' 4 4
def PhaseCfg.selB (p : PhaseCfg) : BitVec 4 := p.op.extractLsb' 0 4
def PhaseCfg.selC (p : PhaseCfg) : BitVec 4 := p.arg.extractLsb' 0 4
def PhaseCfg.fmt (p : PhaseCfg) : BitVec 4 := p.mod.extractLsb' 12 4
def PhaseCfg.rnd (p : PhaseCfg) : BitVec 3 := p.mod.extractLsb' 9 3
def PhaseCfg.guard (p : PhaseCfg) : BitVec 3 := p.mod.extractLsb' 6 3
def PhaseCfg.low (p : PhaseCfg) : BitVec 6 := p.mod.extractLsb' 0 6
def PhaseCfg.mode (p : PhaseCfg) : RMode := rmodeOf p.rnd
def PhaseCfg.isSr (p : PhaseCfg) : Bool := p.rnd == 4

/-- The result format of a phase (R190). -/
def PhaseCfg.resFmt (p : PhaseCfg) : BitVec 4 :=
  match p.stageOp with
  | some .idot4 | some .idot2 => 0
  | some .cvt | some .ftoi | some .itof => p.mod.extractLsb' 0 4
  | _ => p.fmt

/-- The latency of a phase (R6, R196, R198): the tokens it holds in flight. -/
def PhaseCfg.latency (p : PhaseCfg) : Nat :=
  match p.stageOp with
  | some .delay => p.arg.toNat
  | some o => o.row.latency
  | none => 1

end Sys2Proof.Machine
end

