-- ==== Sys2Proof/Config.lean ====
section
/-! DEFINITION. What one implementation fixes and the spec leaves open: constants without a body, so that no proof can
rest on a value of them (log 10, 11, 12, 13). -/

namespace Sys2Proof.Config

/-- The n-th free value (log 10). -/
opaque freeWord : Nat → BitVec 64

/-- The byte that node `n` holds at a local address when it is read for the k-th time (log 11). -/
opaque remoteByte : Nat → Nat → Nat → BitVec 8

/-- The fused digest of the firmware key, 384 bits (R447; log 12). -/
opaque fusedKeyDigest : BitVec 384

/-- The fused minimum security version (R447; log 12). -/
opaque fusedMinVersion : Nat

/-- The module's power over the last millisecond, in W, at a cycle (R440 PWR; log 10). -/
opaque powerWatts : Nat → BitVec 16

/-- Flits of a scale-up port that FEC corrects in a cycle (R444; log 10): arguments port, cycle. -/
opaque fecFlits : Nat → Nat → Nat

/-- How many doublewords of a record of the n-th press image of the package the spec gives no layout, so few that the
record's LEN can give them (R366; log 13): arguments n, the record's TYPE and INDEX. -/
opaque imageWords : Nat → Nat → Nat → BitVec 16

/-- Byte k of that part of the record (log 13): arguments n, TYPE, INDEX, k. -/
opaque imageByte : Nat → Nat → Nat → Nat → BitVec 8

end Sys2Proof.Config
end

