-- ==== Sys2Proof/Machine/UnitTypes.lean ====
section
/-! DEFINITION. The data of the units beside the grid: streams, copies, hash state, matrix nodes, edge ports, the block
scheduler, presses, jobs, the host block and the links (11_vats to 21_package_and_system). -/

namespace Sys2Proof.Machine

/-- States of a stream, a copy or a matrix node (R285, R303, R391). -/
inductive RunState where
  | idle | running | faulted | ended
deriving DecidableEq, Repr

/-- What a refused access was: for writing, at which address (R302, R303). -/
structure RefusedAccess where
  write : Bool
  va : Word
deriving DecidableEq, Repr

/-! Streams (R285, R303, R313, R320). -/

/-- A query held for a DENSE trap: its position, its candidates, the condition met and its ordinal (R270). -/
structure HeldQuery where
  pos : Nat
  cands : List Nat
  cond : BitVec 2
  ord : Nat
  released : Option Bool
deriving DecidableEq, Repr

/-- What a COPY stream still owes its output: the end token of a fired copy, or a marker (R288, R290). -/
inductive CopyOrder where
  | copy (ord : Nat) (status : Option (BitVec 32))
  | marker (t : Token)
deriving DecidableEq, Repr

/-- The running state of one stream. `lane` and `buf` belong to the token being read or written, `toks` are the tokens
of a partial key, `out` the tokens still to send, `last` that the stream ends behind them, `eos` that an EOS has been
taken, `discard` that input is thrown away up to the next EOS, `table`, `wrote` and `hoop` the state of
an insertion, `dense` the next and the last index of a query that is emitted whole, `pending` that an access has been issued
that is not performed (R177). -/
structure Stream where
  state : RunState
  reason : BitVec 4
  errcnt : BitVec 16
  base : Word
  count : Nat
  pos : Nat
  posted : Word
  asid : BitVec 16
  ptroot : Word
  defined : Bool
  entry : Option TlbEntry
  lane : Nat
  buf : List (BitVec 32)
  poison : Bool
  toks : List Token
  out : List Token
  last : Bool
  eos : Bool
  discard : Bool
  drain : Bool
  orders : List CopyOrder
  fired : Nat
  table : Nat
  wrote : Bool
  hoop : Nat
  scale : Option ScaleGroup
  held : Option HeldQuery
  dense : Option (Nat × Nat)
  refused : Option RefusedAccess
  pending : Bool
  pressed : Bool
  saved : Bool
deriving DecidableEq, Repr

/-! Copies (R286 to R290). -/

/-- A copy record with the address space its addresses are translated under. -/
structure CopyRec where
  words : Vector Word 8
  asid : BitVec 16
  ptroot : Word
  ok : Bool
deriving DecidableEq, Repr

/-- A trigger waiting on a queue: the token's payload, the stream that handed it on with its ordinal there, the cycle it was
taken in, and, if the queue was armed anew in that cycle, the record armed before (R289). -/
structure Trigger where
  data : Payload
  from' : Option (Nat × Nat)
  at' : Nat
  under : Option CopyRec
deriving DecidableEq, Repr

/-- A copy queue: the armed slot, up to 16 triggers, the cycle of the last QARM or QDIS and the record that was armed
before it, under which the triggers of that cycle fire (R289). -/
structure CopyQueue where
  slot : Option Nat
  triggers : List Trigger
  since : Option Nat
  before : Option CopyRec
deriving DecidableEq, Repr

/-- A copy in its place: the record with the trigger's lanes put in, where it stands, what it still has to do. -/
structure Copy where
  crec : CopyRec
  from' : Option (Nat × Nat)
  state : RunState
  reason : BitVec 4
  row : Nat
  off : Nat
  written : Nat
  status : Option (BitVec 32)
  cwDone : Bool
  landed : Bool
  srcEntry : Option TlbEntry
  dstEntry : Option TlbEntry
  refused : Option RefusedAccess
deriving DecidableEq, Repr

/-! The walker (R301). -/

/-- Who asked for a walk: the control processor, a stream, a copy, a node, or a unit that reads for a command, by its unit
code. -/
inductive Walker where
  | cp
  | stream (s : Nat)
  | copySrc (p : Nat)
  | copyDst (p : Nat)
  | node (n : Nat)
  | unit (u : Nat)
deriving DecidableEq, Repr

/-- A walk that runs or waits: the access it is for, the level it reads next, the base of the table there, the cycle of the
request, the refusal it has come to where its requester is still to be told, and the TLBIs that have come while it runs
(R360). -/
structure Walk where
  who : Walker
  asid : BitVec 16
  ptroot : Word
  va : Word
  priv : Bool
  access : Access
  level : Nat
  base : Nat
  at' : Nat
  refused : Option Refused
  named : List TlbiKind
deriving DecidableEq, Repr

/-! Hash state (R305). -/

/-- A table of a head: its descriptor, base and counters. -/
structure HashTable where
  desc : BitVec 28
  base : Word
  inserted : BitVec 32
  lost : BitVec 32
deriving DecidableEq, Repr

/-- The hash state of a core: seeds by head, tables by 4·head + table (one undefined again keeps its counters under base
0), the pool; the key stream whose insertion is half done, the cycle and the key stream of the last request for a hoop. -/
structure Hash where
  seeds : Tbl (BitVec 32)
  tables : Tbl HashTable
  pool : Word
  slots : Nat
  next : Nat
  exh : Bool
  inserting : Option Nat
  allocAt : Option (Nat × Nat)
deriving DecidableEq, Repr

/-! Matrix nodes (R377 to R393). -/

/-- One accumulator: its values by 128·row + column, 48 bits each, and its flag word (R387, R390). -/
structure MxTile where
  vals : Tbl (BitVec 48)
  flags : FlagSet
  fcol : BitVec 8
  frow : BitVec 8
  ftile : BitVec 16
  dirty : Bool
deriving DecidableEq, Repr

/-- A computed tile on its way out: its number, its rows, the next row and token, whether its outputs carry P. -/
structure MxOut where
  tile : Nat
  rows : Nat
  row : Nat
  tok : Nat
  p : Bool
  lastTile : Bool
deriving DecidableEq, Repr

/-- The running state of a matrix node: the section's progress, the weight buffer, the A elements taken. -/
structure MxNode where
  state : RunState
  reason : BitVec 4
  left : Nat
  weights : List Token
  masks : List Payload
  lines : Nat
  spoiled : Bool
  wPoison : Bool
  wFails : Bool
  wCorrects : Bool
  tag : BitVec 32
  a : List SrcElem
  aBad : List Bool
  aTaken : Nat
  aScale : Option ScaleGroup
  aEnded : Bool
  aPoison : Bool
  tile : Nat
  outs : List MxOut
  out : List Token
  finished : Bool
  entry : Option TlbEntry
  refused : Option RefusedAccess
  tiles : Vector MxTile 2
  pressed : Bool
  saved : Bool
deriving DecidableEq, Repr

/-! Edge ports and the network between them (R394, R395, R405 to R410). -/

/-- A token between two edge ports: where it came from (core 96 for another package), where it goes, its sender's PARTID,
the sending format of the link it came on, when it arrives, whether a parity check on the way fails (R448). -/
structure NetToken where
  srcCore : Nat
  srcPort : Nat
  dstCore : Nat
  dstPort : Nat
  part : BitVec 16
  tok : Token
  fmt : BitVec 4
  arrive : Nat
  spoilt : Bool
deriving DecidableEq, Repr

/-- A write, a token or a credit on its way to another package: the node, the local address or the core and port there, the
sender's PARTID (R408), the bytes. -/
structure Frame where
  node : Nat
  addr : Nat
  part : BitVec 16
  data : List Byte
deriving DecidableEq, Repr

/-- A token frame from another package (R394, R408): the core and the ingress port it is for, the sender's PARTID, the
sending format of its link, the sideband, the payload. -/
structure TokenFrame where
  core : Nat
  port : Nat
  part : BitVec 16
  fmt : BitVec 4
  side : BitVec 24
  data : BitVec 512
deriving DecidableEq, Repr

/-- A reduce-store from another package (R392): its sender, the local address, ROP, the sideband and the payload of its data
token. -/
structure ReduceFrame where
  sender : Nat
  addr : BitVec 50
  rop : BitVec 1
  side : BitVec 24
  data : BitVec 512
deriving DecidableEq, Repr

/-- The running state of an edge port: credits, of an ingress port those that its senders of this package hold in common, of
an egress port those from another package; whether it refuses its own link for want of one, whether its contributions have
stopped, the CTRL half of a reduce pair, the core that the last token an ingress port took came from (96 for another package),
the tokens a press found before its marker, the guard's counts. -/
structure EpState where
  credits : Nat
  shut : Bool
  dead : Bool
  ctrl : Option Token
  from' : Option Nat
  inbox : List NetToken
  dcnt : BitVec 32
  total : BitVec 32
  firstSb : BitVec 24
  pressed : Bool
  saved : Bool
deriving DecidableEq, Repr

/-- A credit on its way to an egress port. -/
structure Credit where
  core : Nat
  port : Nat
deriving DecidableEq, Repr

/-- A reduce-store on its way: the sender, the fabric address, ROP, the lanes (R392). -/
structure Reduce where
  core : Nat
  port : Nat
  addr : Word
  rop : BitVec 2
  tok : Token
deriving DecidableEq, Repr

/-! The block scheduler and the ingress port (R249, R263 to R266). -/

/-- A parked thread record and the cycle in which it was parked. -/
structure ThreadRec where
  toks : List Token
  at' : Nat
deriving DecidableEq, Repr

/-- What the scheduler keeps of the scheduled vat most recently armed (R264): its slot, BTB, QB, the address space it was
armed under. -/
structure ThreadTables where
  slot : Nat
  btb : Word
  qb : Word
  asid : BitVec 16
  ptroot : Word
  priv : Bool
  xoff : Bool
deriving DecidableEq, Repr

/-- The scheduler of a core: entry queues by block, the rest of the record being injected by slot, slots in which
injection has stopped, slots it no longer uses, records being formed at sinks by sink, ended threads, the tables that
apply, the records parked so far by block. -/
structure Sched where
  queues : Tbl (List ThreadRec)
  injecting : Tbl (List Token)
  stopped : List Nat
  left : List Nat
  forming : Tbl (List Token)
  threadsEnded : Nat
  tables : Option ThreadTables
  parked : Tbl Nat
deriving DecidableEq, Repr

/-- The ingress port of a core (R249). -/
structure Ingress where
  sideband : BitVec 24
  toks : List Token
  drops : Nat
deriving DecidableEq, Repr

/-! Presses (R362 to R366). -/

/-- A press under way or just complete on one core: a press of the partition, this core's part of the issue, a host's
command; the image area, the slots covered, the registers saved, the status once it is set. -/
structure Press where
  active : Bool
  part : Bool
  issuer : Bool
  host : Bool
  area : Word
  covered : List Nat
  curds : List Nat
  status : Option (BitVec 8)
deriving DecidableEq, Repr

/-! Jobs (R240 to R250). -/

/-- A block in a queue: where it stands, the copy a TAIL took of it, the argument a launch message replaces. -/
structure JobRef where
  addr : Word
  copied : Option (Vector Word 8)
  arg0 : Option Word
deriving DecidableEq, Repr

/-- The running job of a partition: its block, its units, the cores that run them, the next unit of each, the units
that have ended, its child. -/
structure Job where
  addr : Word
  block : Vector Word 8
  units : Nat
  cores : List Nat
  nextUnit : Tbl Nat
  begun : Bool
  ended : Nat
  child : Option JobRef
deriving DecidableEq, Repr

/-- A message-launch entry (R250). -/
structure Mle where
  w0 : Word
  w1 : Word
deriving DecidableEq, Repr

/-- The job unit of a partition; `missed` counts the launch messages that matched no armed entry (R250), `childAt` gives the
cycle in which the last tail child went to the head of a queue, the queue and the child (R439). -/
structure JobUnit where
  queues : Tbl (List JobRef)
  last : Nat
  job : Option Job
  reread : Nat
  mles : Tbl Mle
  missed : Nat
  childAt : Option (Nat × Nat × JobRef)
deriving DecidableEq, Repr

/-! The package (R440 to R451). -/

/-- A scale-up port (R443, R444); `tries` counts the failed replays of the flit that is being replayed. -/
structure LinkPort where
  up : Bool
  peer : BitVec 14
  replays : BitVec 16
  tries : Nat
deriving DecidableEq, Repr

/-- The host block (R440); `hcmdAt` gives the cycle in which a host command was last taken (R441). -/
structure HostBlock where
  hrbase : Word
  hrcfg : Word
  hrwidx : BitVec 32
  hrlost : BitVec 32
  hrridx : BitVec 32
  hrsp : Word
  boot : Word
  hcmdAt : Option Nat
deriving DecidableEq, Repr

end Sys2Proof.Machine
end

