-- ==== Sys2Proof/Machine/State.lean ====
section
/-! DEFINITION. The state of the package, its faults and refusals, and the state after reset. -/

namespace Sys2Proof.Machine

/-- The machine's own stops. -/
inductive Fault where
  /-- Raised by step: the schedule names, as an event, an instruction that only a control processor fetches.
  Safe: no hardware run has such a turn. -/
  | wordAsEvent
deriving DecidableEq, Repr

/-- Steps without a meaning. -/
inductive Refusal where
  /-- Raised by exec for an instruction that is not modelled yet. Safe: nothing can be proved of it. -/
  | notModelled (mnemonic : String)
deriving DecidableEq, Repr

/-- The engines of one core. `slotOld` is the slot width that applies until the instant `slotFrom`, in ns (R429). `raised`
gives the cycle in which a unit last raised an event (R414). `masksWas` gives the cycle of the last change of TFILT or JMASK
and what they held before it (R424), `marking` the time that a TMARK under way took and whether its MARK has been raised
(R434). `partWas` is PARTID as the guards see it in cycle `partAt`, the
one of its last write (R407). `activeRead` and `cultureRead` give, for an element whose plane ARM or in-band words have changed,
the plane as its stream gave it (R367). `cacheUe` holds the words that fail in the caches of the control processor
(R448), `cacheCe` those corrected there. `firing` is what still acts in the grid in this cycle, none before the grid has begun it (R173). -/
structure Eng where
  node : BitVec 14
  partid : BitVec 16
  partWas : BitVec 16
  partAt : Nat
  tenant : BitVec 8
  tfilt : Tbl Word
  jmask : Word
  masksWas : Option (Nat × Tbl Word × Word)
  marking : Option (Nat × Bool)
  tslot : Word
  slotOld : Nat
  slotFrom : Nat
  triggers : Tbl TimeTrigger
  wake : Bool
  storeBuf : List PendingStore
  commands : List Command
  pend : List Pending
  raised : Tbl Nat
  reports : List Report
  hmsg : Word
  mcpol : Word
  plock : Word
  fenced : Bool
  curds : Tbl Curd
  entering : List Entering
  tlb : List TlbEntry
  active : Tbl ElemCfg
  culture : Tbl ElemCfg
  activeRead : Tbl ElemCfg
  cultureRead : Tbl ElemCfg
  agActive : Tbl StreamCfg
  agCulture : Tbl StreamCfg
  mxActive : Tbl MxCfg
  mxCulture : Tbl MxCfg
  epActive : Tbl EpCfg
  epCulture : Tbl EpCfg
  elems : Tbl Elem
  pools : Tbl InQueue
  flights : List Flight
  firing : Option (List Planned)
  vats : Tbl Vat
  streams : Tbl Stream
  templates : Tbl CopyRec
  queues : Tbl CopyQueue
  copies : Tbl Copy
  copyReason : Tbl (BitVec 4)
  walks : List Walk
  hash : Hash
  mx : Tbl MxNode
  ports : Tbl EpState
  sched : Sched
  ingress : Ingress
  press : Option Press
  unit : Option Nat
  eccAt : Option Nat
  cacheUe : List Nat
  cacheCe : List Nat
deriving DecidableEq, Repr

/-- What a press image holds (R366): the core, the cycle, the slots that the press covered, its units, the lines of its memory
elements, the bytes of its records. -/
structure Image where
  core : Nat
  cycle : Nat
  covered : List Nat
  eng : Eng
  lines : List (Nat × List Byte)
  body : List Byte
deriving DecidableEq, Repr

/-- Everything of the package but the control processors' registers. `stall` names, within a step, the sink context whose
full queue holds up the step's action and the source of the event (R420), and `miss` the core and the walk that the step's
action waits for (R301); between steps both are none. `held` gives, for
a source that the trace fabric holds up, the context that does. `reachWas` holds the reach entries as the guards see them in
cycle `reachAt`, the one of their last write (R407). `tokensIn` and `reducesIn` are the frames that other packages send and
that have not been taken yet (log 11). `timeLocked` says that package time has been locked once (R427), `timeRaised` gives the
cycle in which its unit last raised an event, and `timeEvents` the states whose events it has still to raise (R414). -/
structure World where
  cycle : Nat
  time : Nat
  free : Nat
  mem : List Host.Cell
  engs : Tbl Eng
  eccUe : List Nat
  frames : List Frame
  timeState : BitVec 2
  timeLocked : Bool
  timeRaised : Option Nat
  timeEvents : List (BitVec 2)
  utcOff : BitVec 16
  offset : BitVec 32
  sinks : Tbl Sink
  stall : Option (Nat × Nat)
  miss : Option (Nat × Walk)
  held : Tbl Nat
  eccCe : List Nat
  nets : List NetToken
  credits : List Credit
  reduces : List Reduce
  tokensIn : List TokenFrame
  reducesIn : List ReduceFrame
  jobs : Tbl JobUnit
  reach : Tbl Word
  reachWas : Tbl Word
  reachAt : Nat
  host : HostBlock
  links : Tbl LinkPort
  images : Tbl Image
  aclk : Tbl Nat
  ppsOut : Nat
  ppsIn : Nat
  resp : BitVec 2
deriving DecidableEq, Repr

/-- What a turn does. -/
inductive Act where
  | cp
  | command (k : Nat)
  | drain
  | event (i : Instr)
deriving DecidableEq, Repr

/-- One turn of the schedule: cycles and sixteenths of a nanosecond that pass, the core, what it does. -/
structure Turn where
  dt : Nat
  ns16 : Nat
  core : BitVec 7
  act : Act
deriving DecidableEq, Repr

/-- The machine: the control processors' registers, everything else of the package, the core whose turn it is, and the turns
still to come. -/
structure State where
  cps : Tbl Cp
  w : World
  cur : Nat
  schedule : List Turn
deriving DecidableEq, Repr

/-- The reset state of core c's control processor (R134; the boot ROM runs on core 0, R446). -/
def Cp.reset (c : Nat) : Cp where
  gpr := Vector.replicate 32 0
  pc := 0
  mode := if c = 0 then .rom else .held
  mstat := 0x11
  nbv := 3
  curdctl := 0
  cycleOff := 0
  retired := 0
  unitid := 0
  joblpb := 0
  tvb := 0
  tcause := 0
  tepc := 0
  tinfo := TInfo.zero
  tscratch := 0
  asid := 0
  ptroot := 0
  wdogLimit := 0
  wdogStart := 0
  locked := false
  waitFrom := none
  fetched := 0
  asked := none
  winSrs := []
  winPrv := true
  winAt := 0

/-- A phase's operation state at ARM (R182, R224). -/
def PhaseState.reset : PhaseState where
  count := 0
  base := 0
  carry := none
  elems := []
  out := []
  idxA := 0
  idxB := 0
  posA := 0
  posB := 0
  lastA := none
  lastB := none
  skipA := false
  skipB := false
  stopped := false

/-- A stage that has never been armed. -/
def StageState.reset : StageState where
  phase := 0
  count := 0
  perPhase := Vector.replicate 4 PhaseState.reset
  inq := []
  scales := []
  hold := 0
  holdNext := []
  flags := 0
  sr := Vector.replicate 16 1
  counters := Vector.replicate 8 0
  alternate := []
  dead := false
  lastFire := none
  told := 0
  replica := 0
  branch := []
  detached := 0
  lastOut := none

/-- An element that holds nothing. -/
def Elem.reset : Elem where
  outs := []
  stages := Vector.replicate 6 StageState.reset
  fifo := []
  fifoAt := 0
  window := []
  next := 0
  lines := []
  cfgSeq := 0
  cfgDone := []
  blockedFrom := none
  pressed := false
  saved := false

/-- A slot at the start of a work unit (R244, R252, R260). -/
def Vat.reset : Vat where
  state := .free
  code := 0
  faddr := 0
  vseq := 0
  cw := 0
  window := 0
  nbv := 3
  active := none
  culture := none
  cst := .empty
  cstCode := 0
  loadAt := none
  reported := []
  firstFlag := Vector.replicate 6 0x3FF
  firstAt := Vector.replicate 6 0
  lastFire := 0
  stallReported := false
  asid := 0
  ptroot := 0
  priv := false
  xoff := false
  addrError := false
  quietFrom := none
  pressed := false
  saved := false

/-- A stream that nothing has armed or defined (R279, R285). -/
def Stream.reset : Stream where
  state := .idle
  reason := 0
  errcnt := 0
  base := 0
  count := 0
  pos := 0
  posted := 0
  asid := 0
  ptroot := 0
  defined := false
  entry := none
  lane := 0
  buf := []
  poison := false
  toks := []
  out := []
  last := false
  eos := false
  discard := false
  drain := false
  orders := []
  fired := 0
  table := 0
  wrote := false
  hoop := 0
  scale := none
  held := none
  dense := none
  refused := none
  pending := false
  pressed := false
  saved := false

/-- The hash state at reset and at the start of a work unit (R305). -/
def Hash.reset : Hash where
  seeds := []
  tables := []
  pool := 0
  slots := 0
  next := 0
  exh := false
  inserting := none
  allocAt := none

/-- An accumulator that nothing has written: zeros, and no flag recorded (R390; log 23). -/
def MxTile.reset : MxTile where
  vals := []
  flags := 0
  fcol := 0xFF
  frow := 0xFF
  ftile := 0
  dirty := false

def MxNode.reset : MxNode where
  state := .idle
  reason := 0
  left := 0
  weights := []
  masks := []
  lines := 0
  spoiled := false
  wPoison := false
  wFails := false
  wCorrects := false
  tag := 0
  a := []
  aBad := []
  aTaken := 0
  aScale := none
  aEnded := false
  aPoison := false
  tile := 0
  outs := []
  out := []
  finished := false
  entry := none
  refused := none
  tiles := Vector.replicate 2 MxTile.reset
  pressed := false
  saved := false

def EpState.reset : EpState where
  credits := 0
  shut := false
  dead := false
  ctrl := none
  from' := none
  inbox := []
  dcnt := 0
  total := 0
  firstSb := 0
  pressed := false
  saved := false

def Sched.reset : Sched where
  queues := []
  injecting := []
  stopped := []
  left := []
  forming := []
  threadsEnded := 0
  tables := none
  parked := []

def Ingress.reset : Ingress where
  sideband := 0
  toks := []
  drops := 0

/-- The job unit of a partition at reset (R248). -/
def JobUnit.reset : JobUnit where
  queues := []
  last := 15
  job := none
  reread := 0
  mles := []
  missed := 0
  childAt := none

/-- A scale-up port that is not trained (R444). -/
def LinkPort.reset : LinkPort where
  up := false
  peer := 0
  replays := 0
  tries := 0

/-- The host block at reset (R440, R441, R447; log 23). -/
def HostBlock.reset : HostBlock where
  hrbase := 0
  hrcfg := 0
  hrwidx := 0
  hrlost := 0
  hrridx := 0
  hrsp := 0
  boot := 0
  hcmdAt := none

def Eng.reset : Eng where
  node := 0
  partid := 0
  partWas := 0
  partAt := 0
  tenant := 0
  tfilt := []
  jmask := 0
  masksWas := none
  marking := none
  tslot := 64
  slotOld := 64
  slotFrom := 0
  triggers := []
  wake := false
  storeBuf := []
  commands := []
  pend := []
  raised := []
  reports := []
  hmsg := 0
  mcpol := 0
  plock := 0
  fenced := false
  curds := []
  entering := []
  tlb := []
  active := []
  culture := []
  activeRead := []
  cultureRead := []
  agActive := []
  agCulture := []
  mxActive := []
  mxCulture := []
  epActive := []
  epCulture := []
  elems := []
  pools := []
  flights := []
  firing := none
  vats := []
  streams := []
  templates := []
  queues := []
  copies := []
  copyReason := []
  walks := []
  hash := Hash.reset
  mx := []
  ports := []
  sched := Sched.reset
  ingress := Ingress.reset
  press := none
  unit := none
  eccAt := none
  cacheUe := []
  cacheCe := []

def World.reset : World where
  cycle := 0
  time := 0
  free := 0
  mem := []
  engs := []
  eccUe := []
  frames := []
  timeState := 0
  timeLocked := false
  timeRaised := none
  timeEvents := []
  utcOff := 0
  offset := 0
  sinks := []
  stall := none
  miss := none
  held := []
  eccCe := []
  nets := []
  credits := []
  reduces := []
  tokensIn := []
  reducesIn := []
  jobs := []
  reach := []
  reachWas := []
  reachAt := 0
  host := HostBlock.reset
  links := []
  images := []
  aclk := []
  ppsOut := 0
  ppsIn := 0
  resp := 0

/-- The package right after reset. -/
def State.reset : State where
  cps := []
  w := World.reset
  cur := 0
  schedule := []

end Sys2Proof.Machine
end

