-- ==== Sys2Proof/Machine/Memory.lean ====
section
/-! DEFINITION. Memory: the canonical list of bytes, the local address map (R276), little-endian values (R13). -/

namespace Sys2Proof.Machine

/-- What a byte that nothing has written reads as (log 1). -/
def unwrittenByte : Byte := 0

/-- The byte at an address. -/
def memRead : List Host.Cell → Nat → Byte
  | [], _ => unwrittenByte
  | (b, x) :: t, a => if a = b then x else if a < b then unwrittenByte else memRead t a

/-- Put a byte at an address; a byte that an unlisted address would read as is taken off the list. -/
def memWrite : List Host.Cell → Nat → Byte → List Host.Cell
  | [], a, v => if v = unwrittenByte then [] else [(a, v)]
  | (b, x) :: t, a, v =>
    if a < b then (if v = unwrittenByte then (b, x) :: t else (a, v) :: (b, x) :: t)
    else if a = b then (if v = unwrittenByte then t else (a, v) :: t)
    else (b, x) :: memWrite t a v

/-- Every address of the list is above `lo`, rising, and no byte is the unwritten one. -/
def memWfFrom : Option Nat → List Host.Cell → Bool
  | _, [] => true
  | lo, (a, v) :: t =>
    (match lo with | none => true | some l => decide (l < a)) && v != unwrittenByte && memWfFrom (some a) t

/-- The canonical form of memory. -/
def Memory.wf (m : List Host.Cell) : Bool := memWfFrom none m

/-- `n` bytes from an address up, lowest first. -/
def memBytes (m : List Host.Cell) (a n : Nat) : List Byte := (List.range n).map (fun i => memRead m (a + i))

/-- Write bytes from an address up. -/
def memPut : List Host.Cell → Nat → List Byte → List Host.Cell
  | m, _, [] => m
  | m, a, b :: t => memPut (memWrite m a b) (a + 1) t

/-- Bytes as a little-endian number (R13). -/
def leNat : List Byte → Nat
  | [] => 0
  | b :: t => b.toNat + 256 * leNat t

/-- The `n` little-endian bytes of a number. -/
def leBytes : Nat → Nat → List Byte
  | 0, _ => []
  | n + 1, x => BitVec.ofNat 8 x :: leBytes n (x / 256)

/-- A little-endian number of `n` bytes in memory. -/
def memNat (m : List Host.Cell) (a n : Nat) : Nat := leNat (memBytes m a n)

/-- A 64-bit word in memory. -/
def memWord (m : List Host.Cell) (a : Nat) : Word := BitVec.ofNat 64 (memNat m a 8)

/-! The units of a core. -/

/-- The units of core `c`. -/
def World.eng (w : World) (c : Nat) : Eng := Tbl.get w.engs Eng.reset c

/-- Replace the units of core `c`. -/
def World.setEng (w : World) (c : Nat) (e : Eng) : World := { w with engs := Tbl.put w.engs c e }

/-- Where a local address lies (R276, R277). -/
def regionOf (a : Nat) : Region :=
  if a < 96 * 0x100000000 then .dram (a / 0x100000000)
  else if 0x10000000000 ≤ a && a < 0x10000000000 + 96 * 0x400000 then
    let o := a - 0x10000000000
    let c := o / 0x400000
    let k := o % 0x400000 / 0x10000
    let y := k / 4
    let x := 2 * (k % 4) + (if y % 2 == 0 then 1 else 0)
    .pad c (8 * y + x) (o % 0x10000)
  else if 0x20000000000 ≤ a && a < 0x20000000000 + 96 * 0x100000 then
    .window ((a - 0x20000000000) / 0x100000) ((a - 0x20000000000) % 0x100000)
  else if 0x30000000000 ≤ a && a < 0x30000000000 + 96 * 0x1000 then
    .ingress ((a - 0x30000000000) / 0x1000) ((a - 0x30000000000) % 0x1000)
  else .absent

/-- The core an address belongs to. -/
def Region.core : Region → Option Nat
  | .dram c | .pad c _ _ | .window c _ | .ingress c _ => some c
  | .absent => none

/-- Address of byte 0 of the bank of the memory element at grid index `i` of core `c` (R277). -/
def bankBase (c i : Nat) : Nat := 0x10000000000 + c * 0x400000 + i / 2 * 0x10000

/-- Base address of core c's register window (R141). -/
def windowBase (c : Nat) : Nat := 0x20000000000 + c * 0x100000

/-! Stores, and words that fail their check (R448; log 22). -/

/-- The word of the error check that holds an address: its first byte and its length (R448). -/
def checkWord (a : Nat) : Nat × Nat :=
  match regionOf a with
  | .pad _ _ _ => (a / 4 * 4, 4)
  | _ => (a / 8 * 8, 8)

/-- The lines of a memory element's bank that `n` bytes from offset `o` touch, added to those written (R366). -/
def linesWith (lines : List Nat) (o n : Nat) : List Nat :=
  (List.range ((o + n + 63) / 64 - o / 64)).foldl (fun ls i =>
    if ls.contains (o / 64 + i) then ls else ls ++ [o / 64 + i]) lines

/-- Note the lines of a memory element that a store touches (R366). -/
def World.markLines (w : World) (a n : Nat) : World :=
  match regionOf a with
  | .pad c e o =>
    let g := w.eng c
    let x := Tbl.get g.elems Elem.reset e
    w.setEng c { g with elems := Tbl.put g.elems e { x with lines := linesWith x.lines o n } }
  | _ => w

/-- Store bytes: a failing word that is written whole is sound again. -/
def World.store (w : World) (a : Nat) (bs : List Byte) : World :=
  { w.markLines a bs.length with
    mem := memPut w.mem a bs
    eccUe := w.eccUe.filter (fun u => !(a ≤ (checkWord u).1 && (checkWord u).1 + (checkWord u).2 ≤ a + bs.length)) }

/-- The lowest failing word that `n` bytes from `a` touch. -/
def World.failing (w : World) (a n : Nat) : Option Nat :=
  (w.eccUe.filter (fun u => (checkWord u).1 < a + n && a < (checkWord u).1 + (checkWord u).2)).min?

end Sys2Proof.Machine
end

