-- ==== Sys2Proof/Machine/Trace.lean ====
section
/-! DEFINITION. The trace fabric: raising an event, its filter, its context, its place in the queues (R413 to R426). -/

namespace Sys2Proof.Machine

/-! Unit codes and event types (R414, R415). -/

def uCP : Nat := 0x100
def uCOPY : Nat := 0x101
def uKEY : Nat := 0x102
def uSCHED : Nat := 0x103
def uTIME : Nat := 0x104
def uPKGTIME : Nat := 0x000
def uSINK : Nat := 0x001

def tMARK : BitVec 8 := 0x20
def tSINKLOST : BitVec 8 := 0x21
def tVATARM : BitVec 8 := 0x28
def tVATRETIRE : BitVec 8 := 0x29
def tVATKILL : BitVec 8 := 0x2A
def tVATFAULT : BitVec 8 := 0x2B
def tVATRESIDUE : BitVec 8 := 0x2C
def tVATSTALL : BitVec 8 := 0x2D
def tSTREAMFAULT : BitVec 8 := 0x30
def tDENSEAUTO : BitVec 8 := 0x33
def tHOOP : BitVec 8 := 0x34
def tTRAP : BitVec 8 := 0x38
def tPRESS : BitVec 8 := 0x3A
def tMCAST : BitVec 8 := 0x3C
def tGUARD : BitVec 8 := 0x40
def tTATFIRE : BitVec 8 := 0x44
def tTATLATE : BitVec 8 := 0x45
def tSKEW : BitVec 8 := 0x46
def tTIMESTATE : BitVec 8 := 0x47
def tUNITSTART : BitVec 8 := 0x48
def tUNITDONE : BitVec 8 := 0x49
def tECCCE : BitVec 8 := 0x4C
def tECCUE : BitVec 8 := 0x4D

/-- A record (R413): time in sixteenths of a nanosecond, type, die, core in the die, unit, tenant, payload. -/
def traceRecord (time : Nat) (type : BitVec 8) (die : BitVec 2) (cid : BitVec 5) (unit : BitVec 9) (tenant : BitVec 8)
    (payload : BitVec 32) : BitVec 128 :=
  BitVec.ofNat 64 time ++ type ++ die ++ cid ++ unit ++ tenant ++ payload

/-- The 16-bit source of a record (R422). -/
def recSource (r : BitVec 128) : BitVec 16 := r.extractLsb' 40 16

/-- The order of records in a ring: by timestamp, then source (R422). -/
def recKey (r : BitVec 128) : Nat := (r.extractLsb' 64 64).toNat * 65536 + (recSource r).toNat

/-- Put a record after every record that is not above it. -/
def recInsert (r : BitVec 128) : List (BitVec 128) → List (BitVec 128)
  | [] => [r]
  | x :: t => if recKey r < recKey x then r :: x :: t else x :: recInsert r t

/-! Contexts (R416, R417). -/

def Sink.empty : Sink := ⟨0, 0, 0, 0, 0, 0, [], [], 0⟩

def Sink.part (s : Sink) : BitVec 16 := s.cfg.extractLsb' 48 16
def Sink.lossless (s : Sink) : Bool := s.cfg.getLsbD 10
def Sink.en (s : Sink) : Bool := s.cfg.getLsbD 9
def Sink.log2n (s : Sink) : Nat := (s.cfg.extractLsb' 0 5).toNat

/-- Key of context `x` of a die. -/
def sinkKey (die x : Nat) : Nat := 8 * die + x

def World.sink (w : World) (k : Nat) : Sink := Tbl.get w.sinks Sink.empty k
def World.setSink (w : World) (k : Nat) (s : Sink) : World := { w with sinks := Tbl.put w.sinks k s }

/-- Saturating 32-bit counters. -/
def satInc (x : BitVec 32) : BitVec 32 := if x == BitVec.allOnes 32 then x else x + 1

/-- One event discarded at a context (R419). -/
def Sink.drop (s : Sink) : Sink := { s with drops := satInc s.drops, lost := s.lost + 1 }

/-- The events of one source that wait for a context (R420). -/
def Sink.waitingOf (s : Sink) (r : BitVec 128) : Nat :=
  (s.waiting.filter (fun x => recSource x == recSource r)).length

/-- Is there no place for one more event of this record's source? -/
def Sink.holdsUp (s : Sink) (r : BitVec 128) : Bool :=
  s.lossless && (64 ≤ s.buf.length || !s.waiting.isEmpty) && 4 ≤ s.waitingOf r

/-- An event reaches a context that has a place for it, or discards it (R419 to R421). -/
def Sink.accept (s : Sink) (r : BitVec 128) : Sink :=
  if s.lossless then
    if s.buf.length < 64 && s.waiting.isEmpty then { s with buf := recInsert r s.buf }
    else if s.waitingOf r < 4 then { s with waiting := recInsert r s.waiting }
    else s.drop
  else if s.buf.length < 64 then { s with buf := recInsert r s.buf }
  else s.drop

/-- A record to one context; `stalls` says whether the source can be stalled (R420, R421). -/
def World.traceTo (w : World) (k : Nat) (stalls : Bool) (r : BitVec 128) : World :=
  let s := w.sink k
  let src := (recSource r).toNat
  if stalls && s.holdsUp r then { w with stall := some (w.stall.getD (k, src)) }
  else { w.setSink k (s.accept r) with held := w.held.filter (fun q => q.1 != src) }

/-- The context of a core's events: the lowest enabled one of its die that serves its partition (R417). -/
def World.contextOf (w : World) (c : Nat) : Option Nat :=
  ((List.range 8).map (fun x => sinkKey (c / 24) x)).find? (fun k =>
    (w.sink k).en && (w.sink k).part == (w.eng c).partid)

/-- TFILT and JMASK as they apply to the events of a cycle: those before a change in it (R424). -/
def Eng.masks (g : Eng) (now : Nat) : Tbl Word × Word :=
  match g.masksWas with
  | some (n, t, j) => if n = now then (t, j) else (g.tfilt, g.jmask)
  | none => (g.tfilt, g.jmask)

/-- A change of TFILT or JMASK: what applied before it applies to the end of the cycle (R424). -/
def Eng.setMasks (g : Eng) (now : Nat) (t : Tbl Word) (j : Word) : Eng :=
  { g with tfilt := t, jmask := j, masksWas := some (now, g.masks now) }

/-- Is an event type discarded at core `c` (R424)? -/
def World.filtered (w : World) (c : Nat) (type : BitVec 8) : Bool :=
  let g := w.eng c
  let cls := (type.extractLsb' 2 6).toNat
  (Tbl.get (g.masks w.cycle).1 0 g.tenant.toNat).getLsbD cls || (g.masks w.cycle).2.getLsbD cls

/-- The record of an event of a unit of a core (R413, R414). -/
def World.recordOf (w : World) (c unit : Nat) (type : BitVec 8) (payload : BitVec 32) : BitVec 128 :=
  traceRecord w.time type (BitVec.ofNat 2 (c / 24)) (BitVec.ofNat 5 (c % 24)) (BitVec.ofNat 9 unit) (w.eng c).tenant
    payload

/-- The source that a unit of a core is (R413). -/
def sourceOf (c unit : Nat) : Nat := 16384 * (c / 24) + 512 * (c % 24) + unit

/-- The core of a source: its die and its number there (R413). -/
def sourceCore (src : Nat) : Nat := 24 * (src / 16384) + src / 512 % 32

/-- Does the trace fabric hold a unit of a core up (R420)? It does nothing then. -/
def World.heldUnit (w : World) (c unit : Nat) : Bool := (Tbl.find w.held (sourceOf c unit)).isSome

/-- Has a unit raised an event in this cycle, or events still to raise (R414)? -/
def World.hasRaised (w : World) (c unit : Nat) : Bool :=
  let g := w.eng c
  Tbl.find g.raised unit == some w.cycle || g.reports.any (fun r => r.unit == unit)

/-- A unit raises its event of this cycle. -/
def World.raiseEvent (w : World) (c unit : Nat) (k : Nat) (type : BitVec 8) (payload : BitVec 32) : World :=
  let w' := w.traceTo k (type != tGUARD) (w.recordOf c unit type payload)
  let g := w'.eng c
  if w'.stall.isSome then w' else w'.setEng c { g with raised := Tbl.put g.raised unit w.cycle }

/-- A unit of a core raises an event (R413 to R420). It raises one a cycle; a further one of the same cycle follows in
the next ones. -/
def World.emit (w : World) (c unit : Nat) (type : BitVec 8) (payload : BitVec 32) : World :=
  if w.filtered c type then w
  else
    match w.contextOf c with
    | none => w
    | some k =>
      if w.hasRaised c unit && !((w.sink k).holdsUp (w.recordOf c unit type payload)) then
        let g := w.eng c
        w.setEng c { g with reports := g.reports ++ [⟨unit, type, payload, none⟩] }
      else w.raiseEvent c unit k type payload

/-- Would an event of a unit have to wait: for another of its cycle, or for a place in the unit's full queue? -/
def World.mustWait (w : World) (c unit : Nat) (type : BitVec 8) (payload : BitVec 32) : Bool :=
  if w.filtered c type then false
  else
    match w.contextOf c with
    | none => false
    | some k => w.hasRaised c unit || (type != tGUARD && (w.sink k).holdsUp (w.recordOf c unit type payload))

/-- Would an event go to a context, and has the unit raised one in this cycle: it can raise it in a later one (R414)? -/
def World.mustFollow (w : World) (c unit : Nat) (type : BitVec 8) : Bool :=
  !w.filtered c type && (w.contextOf c).isSome && w.hasRaised c unit

/-- A unit of the package raises an event: every enabled context gets it (R417, R421). -/
def World.emitPackage (w : World) (die unit : Nat) (type : BitVec 8) (payload : BitVec 32) : World :=
  let r := traceRecord w.time type (BitVec.ofNat 2 die) 31 (BitVec.ofNat 9 unit) 0 payload
  (List.range 32).foldl (fun w k => if (w.sink k).en then w.traceTo k false r else w) w

end Sys2Proof.Machine
end

