-- ==== Sys2Proof/Machine/Ops.lean ====
section
/-! DEFINITION. The named operations on the state: registers, the units of a core, finishing an instruction, taking a
trap and returning from one, raising an asynchronous cause. -/

namespace Sys2Proof.Machine

/-! Registers of a control processor (R129). -/

/-- A general register; g0 reads as zero. -/
def Cp.reg (c : Cp) (r : Reg) : Word := if r = 0 then 0 else c.gpr.get r.toFin

/-- Write a general register; a write to g0 is discarded. -/
def Cp.setReg (c : Cp) (r : Reg) (v : Word) : Cp :=
  if r = 0 then c else { c with gpr := c.gpr.set r.toNat v r.isLt }

/-- The control processor of core `c`. -/
def cpOf (cps : Tbl Cp) (c : Nat) : Cp := Tbl.get cps (Cp.reset c) c

/-- The control processor whose turn it is. -/
def State.cp (s : State) : Cp := cpOf s.cps s.cur

/-- Replace the control processor whose turn it is. -/
def State.withCp (s : State) (c : Cp) : State := { s with cps := Tbl.put s.cps s.cur c }

/-- Replace everything but the control processors. -/
def State.withWorld (s : State) (w : World) : State := { s with w := w }

/-- A step of the units alone. -/
def State.onWorld (s : State) (f : World → World) : Host.Outcome State Fault Refusal := .next (s.withWorld (f s.w))

/-- The units of the core whose turn it is. -/
def State.eng (s : State) : Eng := s.w.eng s.cur

/-- Is a press under way on the core (R363)? -/
def Eng.pressing (g : Eng) : Bool := match g.press with | some p => p.active | none => false

/-- Is a slot covered by a press under way? -/
def Eng.pressed (g : Eng) (v : Nat) : Bool :=
  match g.press with
  | some p => p.active && p.covered.contains v
  | none => false

def State.withEng (s : State) (e : Eng) : State := { s with w := s.w.setEng s.cur e }

/-- A general register of the core whose turn it is. -/
def State.reg (s : State) (r : Reg) : Word := s.cp.reg r

/-- Bits of MSTAT (R137). -/
def Cp.prv (c : Cp) : Bool := c.mstat.getLsbD 0
def Cp.ie (c : Cp) : Bool := c.mstat.getLsbD 1
def Cp.xoff (c : Cp) : Bool := c.mstat.getLsbD 4

/-- MSTAT of its five fields (R137). -/
def mstatOf (prv ie pprv pie xoff : Bool) : Word :=
  (BitVec.ofBool xoff ++ BitVec.ofBool pie ++ BitVec.ofBool pprv ++ BitVec.ofBool ie ++ BitVec.ofBool prv).setWidth 64

/-- Move past an instruction that completes, counting it as retired (R140). -/
def Cp.advance (c : Cp) : Cp := { c with pc := c.pc + 4, retired := c.retired + 1, asked := none }

/-- Complete at another address. -/
def Cp.goto (c : Cp) (pc : Word) : Cp := { c with pc := pc, retired := c.retired + 1, asked := none }

/-- Complete an instruction that writes nothing else. -/
def State.done (s : State) : State := s.withCp s.cp.advance

/-- Complete an instruction that writes one general register. -/
def State.finish (s : State) (d : Reg) (v : Word) : State := s.withCp (s.cp.setReg d v).advance

/-! Traps (R353, R359). -/

/-- Trap entry (R353): save the return address, the cause and its information, save the mode and the enable, enter the
privileged mode with asynchronous causes off, and go to the entry of the cause. An instruction that waited waits no
longer. -/
def Cp.enterTrap (c : Cp) (code : BitVec 8) (async : Bool) (epc : Word) (info : TInfo) : Cp :=
  { c with
    tepc := epc
    tcause := (BitVec.ofBool async ++ (0 : BitVec 55) ++ code)
    tinfo := info
    mstat := mstatOf true false c.prv c.ie c.xoff
    pc := c.tvb + 64 * code.setWidth 64
    waitFrom := none
    locked := false
    asked := none }

/-- The return from a trap (R359). -/
def Cp.leaveTrap (c : Cp) : Cp :=
  { c with
    pc := c.tepc
    mstat := mstatOf (c.mstat.getLsbD 2) (c.mstat.getLsbD 3) false false c.xoff
    retired := c.retired + 1
    asked := none }

/-- A synchronous trap (R353, R354), which raises the TRAP event (R415). -/
def State.trapAt (s : State) (t : Trap) (epc : Word) : State :=
  (s.withCp (s.cp.enterTrap t.code false epc t.info)).withWorld (s.w.emit s.cur uCP tTRAP (t.code.setWidth 32))

/-- A trap that returns to the instruction at the program counter. -/
def State.trap (s : State) (t : Trap) : State := s.trapAt t s.cp.pc

def trapIllegal (i : Instr) : Trap :=
  ⟨cILLEGAL, ⟨i.word.setWidth 64, 0, i.word.setWidth 64, 0⟩⟩

/-- ILLEGAL whose entry states TINFO0 and TINFO1 (R93, R321, R350). -/
def trapIllegalInfo (i : Instr) (t0 t1 : Word) : Trap := ⟨cILLEGAL, ⟨t0, t1, i.word.setWidth 64, 0⟩⟩

/-- ILLEGAL of a word that is no instruction. -/
def trapIllegalWord (w : BitVec 32) : Trap := ⟨cILLEGAL, ⟨w.setWidth 64, 0, w.setWidth 64, 0⟩⟩

def trapPriv (i : Instr) : Trap := ⟨cPRIV, ⟨i.word.setWidth 64, 0, 0, 0⟩⟩
def trapMisalign (a : Word) : Trap := ⟨cMISALIGN, ⟨a, 0, 0, 0⟩⟩

/-- TINFO1 of a refused access (R302, R354). -/
def refusedInfo (r : Refused) (write fetch : Bool) : Word :=
  (r.level ++ r.reason ++ BitVec.ofBool write ++ (0 : BitVec 1) ++ BitVec.ofBool fetch ++ (0 : BitVec 6)).setWidth 64

def trapXlate (va : Word) (r : Refused) (write fetch : Bool) (asid : BitVec 16) : Trap :=
  ⟨cXLATE, ⟨va, refusedInfo r write fetch, asid.setWidth 64, 0⟩⟩

/-! Asynchronous causes (R355, R356). -/

/-- Make a cause pending: a source whose report is pending keeps the first report. -/
def Eng.raise (e : Eng) (p : Pending) : Eng :=
  if e.pend.any (fun q => q.code == p.code && q.source == p.source) then e else { e with pend := e.pend ++ [p] }

def World.raise (w : World) (c : Nat) (p : Pending) : World := w.setEng c ((w.eng c).raise p)

/-- A unit reports what has happened in the grid: a cause and its event, both at once where the event can be raised, else
when it can (R414, R420). The grid itself does not wait. -/
def World.report (w : World) (c : Nat) (r : Report) : World :=
  if w.mustWait c r.unit r.type r.payload then
    let g := w.eng c
    w.setEng c { g with reports := g.reports ++ [r] }
  else
    let w := w.emit c r.unit r.type r.payload
    match r.cause with
    | some p => w.raise c p
    | none => w

/-- A context whose full queue holds an event of a unit up. -/
def World.heldUpBy (w : World) (c : Nat) (r : Report) : Option Nat :=
  if w.filtered c r.type || r.type == tGUARD then none
  else (w.contextOf c).filter (fun k => (w.sink k).holdsUp (w.recordOf c r.unit r.type r.payload))

/-- The first report of a unit that waits is made, if it can be; a unit that a full queue holds up is noted (R420). -/
def World.flushUnit (c : Nat) (w : World) (u : Nat) : World :=
  let g := w.eng c
  match g.reports.find? (fun r => r.unit == u) with
  | none => w
  | some r =>
    match w.heldUpBy c r with
    | some k => { w with held := Tbl.put w.held (recSource (w.recordOf c u r.type r.payload)).toNat k }
    | none =>
      if Tbl.find g.raised u == some w.cycle then w
      else
        let w := (w.setEng c { g with reports := g.reports.filter (fun q => q.unit != u) }).emit c u r.type r.payload
        let w := w.setEng c { w.eng c with reports := g.reports.erase r }
        match r.cause with
        | some p => w.raise c p
        | none => w

/-- The units whose reports wait make one each. -/
def World.flushReports (w : World) (c : Nat) : World :=
  (((w.eng c).reports.map (·.unit)).eraseDups).foldl (World.flushUnit c) w

/-- Which of two pending causes is taken first: ECC_UE, then ascending code, then the lowest source (R356). -/
def Pending.before (p q : Pending) : Bool :=
  let k (x : Pending) : Nat := if x.code == cECCUE then 0 else x.code.toNat
  k p < k q || (k p == k q && p.source < q.source)

/-- The pending cause taken next. -/
def nextPending : List Pending → Option Pending
  | [] => none
  | p :: t =>
    match nextPending t with
    | none => some p
    | some q => if q.before p then some q else some p

/-- Is some cause pending? -/
def Eng.anyPending (e : Eng) : Bool := !e.pend.isEmpty

/-- The memory of an address (R354). -/
def memAt (addr : Nat) : BitVec 4 := match regionOf addr with | .pad _ _ _ => 1 | _ => 0

/-- The weight buffers and the caches of the control processors (R354). -/
def memWeights : BitVec 4 := 2
def memCache : BitVec 4 := 3

/-- TINFO1 of ECC_UE (R354): which unit met it, and in which memory. -/
def eccInfo (mem : BitVec 4) (cp copy : Bool) (who : Nat) : Word :=
  (BitVec.ofBool cp ++ mem ++ BitVec.ofBool copy ++ (0 : BitVec 1) ++ BitVec.ofNat 6 who).setWidth 64

/-- An uncorrectable error that a unit met becomes pending (R354 ECC_UE, R442), from a source of its own. -/
def World.eccPend (w : World) (c source : Nat) (mem : BitVec 4) (addr : Nat) (copy : Bool) (who : Nat) : World :=
  let w := w.raise c ⟨cECCUE, source, ⟨BitVec.ofNat 64 addr, eccInfo mem false copy who, 0, 0⟩⟩
  let g := w.eng c
  w.setEng c { g with eccAt := some (g.eccAt.getD w.cycle) }

/-- Report an uncorrectable error that a unit met, with its event (R415); a grid element raises none (R414). -/
def World.eccFrom (w : World) (c unit source : Nat) (mem : BitVec 4) (addr : Nat) (copy : Bool) (who : Nat) : World :=
  (w.eccPend c source mem addr copy who).emit c unit tECCUE ((eccInfo mem false copy who).setWidth 32)

/-- Report an uncorrectable error that a unit named by WHO met: a stream or node by number, a copy by its place. -/
def World.eccReport (w : World) (c unit : Nat) (addr : Nat) (copy : Bool) (who : Nat) : World :=
  w.eccFrom c unit (if copy then 64 + who else who) (memAt addr) addr copy who

/-! The tables of the guards (R407). -/

/-- A write of PARTID. -/
def Eng.setPart (g : Eng) (now : Nat) (p : BitVec 16) : Eng :=
  { g with partid := p, partWas := if g.partAt = now then g.partWas else g.partid, partAt := now }

/-- PARTID as the guards see it: a write takes effect from the next cycle on. -/
def Eng.guardPart (g : Eng) (now : Nat) : BitVec 16 := if g.partAt = now then g.partWas else g.partid

/-- A write of a reach entry. -/
def World.setReach (w : World) (i : Nat) (v : Word) : World :=
  { w with
    reach := Tbl.put w.reach i v, reachWas := if w.reachAt = w.cycle then w.reachWas else w.reach, reachAt := w.cycle }

/-- The reach entries as the guards see them. -/
def World.guardReach (w : World) : Tbl Word := if w.reachAt = w.cycle then w.reachWas else w.reach

/-! Free values (log 10). -/

/-- The next free value, and the counter past it. -/
def World.fresh (w : World) : Word × World := (Config.freeWord w.free, { w with free := w.free + 1 })

/-! Core numbers and identities (R2, R135). -/

def dieOf (c : Nat) : Nat := c / 24

/-- CPID (R135). -/
def cpid (node : BitVec 14) (c : Nat) : Word :=
  node ++ (0 : BitVec 36) ++ BitVec.ofNat 2 (c / 24) ++ BitVec.ofNat 5 (c % 24) ++ BitVec.ofNat 7 c

/-- REVID (R136). -/
def revid : Word := 0x03010001

/-- CYCLE as core c reads it (R134). -/
def Cp.cycleAt (c : Cp) (now : Nat) : Word := BitVec.ofNat 64 now + c.cycleOff

/-- Units of 1,024 cycles until the watchdog expires, counted from the cycle of the write of WDOG: the model's choice (R139,
log 26). -/
def Cp.wdogCount (c : Cp) (now : Nat) : Nat := c.wdogLimit.toNat - (now - c.wdogStart) / 1024

/-- Has the watchdog reached zero? A LIMIT of zero disables it. -/
def Cp.wdogExpired (c : Cp) (now : Nat) : Bool := c.wdogLimit != 0 && c.wdogCount now == 0

/-- Does the watchdog stop the processor now, in the boot ROM and held too? -/
def Cp.expires (c : Cp) (now : Nat) : Bool :=
  c.wdogExpired now && c.mode != .stopped

/-- WDOG as it reads (R139). -/
def Cp.wdogWord (c : Cp) (now : Nat) : Word := BitVec.ofNat 32 (c.wdogCount now) ++ c.wdogLimit

/-! What a command is for (R145). -/

/-- The unit a command is for: a slot's controller 0 to 7, address generator N as 16 + N, the copy engine 64, the key
unit 65, the trace and time unit 66. -/
def cmdUnit : Instr → Nat
  | .cfg _ v | .cfgw _ v | .arm _ v | .swap v | .drain v | .vkill v => v.toNat
  | .sdef _ k | .sgo _ _ k | .tok _ k => 16 + k.toNat / 2
  | .cpy _ => 64
  | .hseed _ _ | .htab _ _ | .hpool _ _ => 65
  | .tev _ _ | .tctl _ | .tat _ => 66
  | _ => 255

/-- Does a command wait for a unit? -/
def Eng.unitBusy (g : Eng) (key : Nat) : Bool := g.commands.any (fun k => cmdUnit k.instr == key)

end Sys2Proof.Machine
end

