-- ==== Sys2Proof/Machine/GridCfg.lean ====
section
/-! DEFINITION. The configuration of one grid element: what each word writes and which values make the element BLOCKED
(R51 to R60, R168, R169, R176, R183, R185, and the rules of 09_stage_operations on MOD and ARG). -/

namespace Sys2Proof.Machine

def PhaseCfg.empty : PhaseCfg := ⟨0, 0, 0, 0, 0, false⟩

/-- A stage as BEGIN leaves it: every field zero (R185). -/
def StageCfg.empty : StageCfg := ⟨0, Vector.replicate 4 PhaseCfg.empty, 0⟩

/-- An element as BEGIN leaves it (R185). -/
def ElemCfg.empty : ElemCfg where
  stages := Vector.replicate 6 StageCfg.empty
  kregs := Vector.replicate 4 0
  kReg := 0
  kIdx := 0
  xb := Vector.replicate 4 0
  lsel := 0
  inPorts := Vector.replicate 8 ⟨0, Vector.replicate 8 0⟩
  osel := 0
  outPorts := Vector.replicate 8 0
  rset := 0
  repl := 0
  replSet := false
  blocked := none

def ElemCfg.block (c : ElemCfg) (field : BitVec 6) : ElemCfg :=
  { c with blocked := some (c.blocked.getD field) }

/-! Reading the configuration. -/

def StageCfg.last (s : StageCfg) : BitVec 2 := s.psel.extractLsb' 2 2
def StageCfg.sel (s : StageCfg) : BitVec 2 := s.psel.extractLsb' 0 2
def StageCfg.phase (s : StageCfg) (p : BitVec 2) : PhaseCfg := s.phases.get p.toFin
def StageCfg.configured (s : StageCfg) : Bool := s.phases.toList.any (·.written)

/-- Stage `k` of an element; a number above 5 names no stage. -/
def ElemCfg.stage (c : ElemCfg) (k : Nat) : StageCfg := c.stages.toList.getD k StageCfg.empty

def ElemCfg.setStage (c : ElemCfg) (k : Nat) (s : StageCfg) : ElemCfg :=
  if h : k < 6 then { c with stages := c.stages.set k s h } else c

/-- Does the element have any stage configured (R175)? -/
def ElemCfg.anyStage (c : ElemCfg) : Bool := c.stages.toList.any (·.configured)

def ltagEn (w : BitVec 16) : Bool := w.getLsbD 15
def ltagRsv (w : BitVec 16) : Nat := (w.extractLsb' 11 4).toNat
def ltagFmt (w : BitVec 16) : BitVec 4 := w.extractLsb' 7 4
def ltagTrk (w : BitVec 16) : Nat := (w.extractLsb' 5 2).toNat
def ltagHen (w : BitVec 16) : Bool := w.getLsbD 4
def ltagHph (w : BitVec 16) : BitVec 2 := w.extractLsb' 2 2

/-- Input port `p` (0 to 7 for pn0 to pw1) of an element. -/
def ElemCfg.inPort (c : ElemCfg) (p : Nat) : PortCfg := c.inPorts.toList.getD p ⟨0, Vector.replicate 8 0⟩

/-- The LTAG word of a tag. -/
def PortCfg.tag (p : PortCfg) (t : Nat) : BitVec 16 := p.tags.toList.getD t 0

/-- The OPORT word of output port `p` (0 to 7). -/
def ElemCfg.outPort (c : ElemCfg) (p : Nat) : BitVec 16 := c.outPorts.toList.getD p 0

def oportScope (w : BitVec 16) : BitVec 2 := w.extractLsb' 14 2
def oportRel (w : BitVec 16) : BitVec 2 := w.extractLsb' 12 2
def oportFmt (w : BitVec 16) : BitVec 4 := w.extractLsb' 8 4

/-! The rules of single words. -/

def isTokenSel (s : BitVec 4) : Bool := s.toNat ≤ 8

/-- May an OP word be written to stage `k` of element `e` (R53, R60, R189, R219)? -/
def opWordOk (e : BitVec 7) (k : Nat) (v : BitVec 16) : Bool :=
  let a := v.extractLsb' 4 4
  let b := v.extractLsb' 0 4
  match opOfCode (v.extractLsb' 8 8) with
  | none => false
  | some o =>
    let place :=
      match o with
      | .mrd | .mpop => !isCe e && k == 0
      | .mwr | .macc | .mpush | .mreord => !isCe e && k == 1
      | _ => isCe e
    let noReg (s : BitVec 4) : Bool := isCe e || !(9 ≤ s.toNat && s.toNat ≤ 13)
    let arity :=
      match o.row.arity with
      | .reg => 9 ≤ a.toNat && b == 15
      | .a => b == 15
      | .aOrNone => b == 15 && (isTokenSel a || a == 15)
      | .none => a == 15 && b == 15
      | .ab | .abc => o != .merge || (isTokenSel a && isTokenSel b)
    place && arity && noReg a && noReg b

/-- Does a destination bitmap respect R58 for stage `k`? -/
def dstOk (k : Nat) (v : BitVec 16) : Bool :=
  !v.getLsbD 7 && (List.range 6).all (fun j => !v.getLsbD j || k < j)

def modWordOk (v : BitVec 16) : Bool :=
  okFmt (v.extractLsb' 12 4) && (v.extractLsb' 9 3).toNat ≤ 4 && (v.extractLsb' 6 3).toNat ≤ 4

/-- Rewrite the phase that a stage's PSEL selects. -/
def StageCfg.upd (s : StageCfg) (f : PhaseCfg → PhaseCfg) : StageCfg :=
  { s with phases := s.phases.set s.sel.toNat (f (s.phase s.sel)) s.sel.isLt }

/-- A word to field `off` of stage `k` (R52). -/
def ElemCfg.stageWord (c : ElemCfg) (e : BitVec 7) (k off : Nat) (f : BitVec 6) (v : BitVec 16) : ElemCfg :=
  let s := c.stage k
  match off with
  | 0 => if v.extractLsb' 4 12 == 0 then c.setStage k { s with psel := v } else c.block f
  | 1 => if opWordOk e k v then c.setStage k (s.upd (fun p => { p with op := v, written := true })) else c.block f
  | 2 => if modWordOk v then c.setStage k (s.upd (fun p => { p with mod := v })) else c.block f
  | 3 => if dstOk k v then c.setStage k (s.upd (fun p => { p with dst := v })) else c.block f
  | 4 => c.setStage k (s.upd (fun p => { p with rep := v }))
  | 5 => c.setStage k (s.upd (fun p => { p with arg := v }))
  | 6 => c.setStage k { s with seed := s.seed.extractLsb' 16 16 ++ v }
  | _ => c.setStage k { s with seed := v ++ s.seed.extractLsb' 0 16 }

/-- Write halfword `h` of a 512-bit register (R52). -/
def setHalf (d : Payload) (h : Nat) (v : BitVec 16) : Payload :=
  (d &&& ~~~((0xFFFF : Payload) <<< (16 * h))) ||| (v.setWidth 512 <<< (16 * h))

/-- KDATA (R52): the halfword, and the pointer moved on. -/
def ElemCfg.kdata (c : ElemCfg) (v : BitVec 16) : ElemCfg :=
  { c with
    kregs := c.kregs.set c.kReg.toNat (setHalf (c.kregs.get c.kReg.toFin) c.kIdx.toNat v) c.kReg.isLt
    kIdx := c.kIdx + 1
    kReg := if c.kIdx == 31 then c.kReg + 1 else c.kReg }

/-- Rewrite the input port that LSEL selects. -/
def ElemCfg.updIn (c : ElemCfg) (f : PortCfg → PortCfg) : ElemCfg :=
  let p := (c.lsel.extractLsb' 0 4).toNat - 1
  if h : p < 8 then { c with inPorts := c.inPorts.set p (f (c.inPort p)) h } else c

/-- One configuration word on a grid element (R185). -/
def ElemCfg.apply (c : ElemCfg) (e : BitVec 7) (f : BitVec 6) (v : BitVec 16) : ElemCfg :=
  let n := f.toNat
  let inSel := c.lsel.extractLsb' 0 4
  let outSel := c.osel.extractLsb' 0 4
  if n < 0x10 || (n < 0x30 && isCe e) then c.stageWord e (n / 8) (n % 8) f v
  else if n == 0x30 && isCe e then
    if v.extractLsb' 8 8 == 0 && !v.getLsbD 5 then
      { c with kReg := v.extractLsb' 6 2, kIdx := v.extractLsb' 0 5 }
    else c.block f
  else if n == 0x31 && isCe e then c.kdata v
  else if h : 0x32 ≤ n ∧ n < 0x36 then
    if (List.range 4).all (fun i => v.extractLsb' (4 * i) 4 != 15) then
      { c with xb := c.xb.set (n - 0x32) v (by omega) }
    else c.block f
  else if n == 0x36 then
    let p := v.extractLsb' 0 4
    if v.extractLsb' 7 9 == 0 && 1 ≤ p.toNat && p.toNat ≤ 8 then { c with lsel := v } else c.block f
  else if n == 0x37 then
    if v.extractLsb' 0 12 == 0 && inSel != 0 then c.updIn (fun p => { p with slots := v.extractLsb' 12 4 })
    else c.block f
  else if n == 0x38 then
    if v.extractLsb' 0 2 == 0 && okFmt (ltagFmt v) && inSel != 0 then
      let t := (c.lsel.extractLsb' 4 3)
      c.updIn (fun p => { p with tags := p.tags.set t.toNat v t.isLt })
    else c.block f
  else if n == 0x39 then
    let p := v.extractLsb' 0 4
    if v.extractLsb' 4 12 == 0 && 1 ≤ p.toNat && p.toNat ≤ 8 then { c with osel := v } else c.block f
  else if n == 0x3A then
    let p := outSel.toNat - 1
    if hp : p < 8 then
      if v.extractLsb' 0 8 == 0 && oportRel v != 3 && okFmt (oportFmt v) && outSel != 0 then
        { c with outPorts := c.outPorts.set p v hp }
      else c.block f
    else c.block f
  else if n == 0x3B then { c with rset := c.rset.extractLsb' 16 16 ++ v }
  else if n == 0x3C then { c with rset := v ++ c.rset.extractLsb' 0 16 }
  else if n == 0x3D && isCe e then
    if v.extractLsb' 0 6 == 0 && (v.extractLsb' 13 3).toNat ≤ 5 then { c with repl := v, replSet := true }
    else c.block f
  else c.block f

/-! The rules that relate several words of one phase; they hold of the finished configuration whatever the order of
its words. -/

/-- Is the code a comparison that a format has no meaning for (R194)? -/
def cmpBad (fmt : BitVec 4) (code : BitVec 3) : Bool := isFloatCode fmt && 6 ≤ code.toNat

/-- Fields of MERGE's ARG (R209). -/
def mergeAny (arg : BitVec 16) : Bool := arg.getLsbD 15
def mergeCmp (arg : BitVec 16) : BitVec 3 := arg.extractLsb' 12 3
def mergePort (arg : BitVec 16) : BitVec 4 := arg.extractLsb' 8 4
def mergeK (arg : BitVec 16) : BitVec 4 := arg.extractLsb' 4 4

def mergeArgOk (fmt : BitVec 4) (arg : BitVec 16) : Bool :=
  arg.extractLsb' 0 4 == 0 &&
    (if mergeAny arg then arg.extractLsb' 4 11 == 0
     else 1 ≤ (mergePort arg).toNat && (mergePort arg).toNat ≤ 8 && 9 ≤ (mergeK arg).toNat &&
       !cmpBad fmt (mergeCmp arg))

/-- Fields of PRUNE's ARG (R218). -/
def pruneN (arg : BitVec 16) : Nat := (arg.extractLsb' 12 4).toNat
def pruneM (arg : BitVec 16) : Nat := (arg.extractLsb' 8 4).toNat
def prunePort (arg : BitVec 16) : Nat := (arg.extractLsb' 0 4).toNat

def pruneArgOk (arg dst : BitVec 16) : Bool :=
  let m := pruneM arg
  (m == 2 || m == 4 || m == 8) && 1 ≤ pruneN arg && pruneN arg < m && arg.extractLsb' 4 4 == 0 &&
    1 ≤ prunePort arg && prunePort arg ≤ 8 && !dst.getLsbD (7 + prunePort arg)

/-- Does a phase's MOD agree with its operation (R55 to R57, R190, R193, R196)? -/
def modOk (o : StageOp) (p : PhaseCfg) : Bool :=
  let r := o.row
  r.fmts.holds p.fmt && (p.rnd == 0 || r.round) &&
    (p.guard == 0 || (r.guard && p.selB != 15)) && p.low &&& ~~~r.modMask == 0 &&
    (match o with
     | .steer | .fcmp => !cmpBad p.fmt (p.mod.extractLsb' 0 3)
     | .cvt => okFmt (p.mod.extractLsb' 0 4)
     | .ftoi => FmtSet.int.holds (p.mod.extractLsb' 0 4)
     | .itof => FmtSet.float.holds (p.mod.extractLsb' 0 4)
     | .lrec => p.mod.extractLsb' 1 2 != 3
     | _ => true)

/-- Does a phase's ARG agree with its operation (R189, R196, R198, R209, R213, R218, R222, R223)? -/
def argOk (e : BitVec 7) (k : Nat) (o : StageOp) (p : PhaseCfg) : Bool :=
  match o.row.arg with
  | .zero => p.arg == 0
  | .any => o != .count || p.selA != 15 || p.arg != 0
  | .delay => 1 ≤ p.arg.toNat && p.arg.toNat ≤ 64
  | .opC => p.arg.extractLsb' 4 12 == 0 && isCe e
  | .lane => p.arg.extractLsb' 4 12 == 0
  | .elseList => dstOk k p.arg
  | .merge => mergeArgOk p.fmt p.arg
  | .prune => pruneArgOk p.arg p.dst
  | .contrib => p.arg.extractLsb' 8 8 == 0
  | .cap => 1 ≤ p.arg.toNat && p.arg.toNat ≤ 1024

/-- The first rule of R196 that stage `k` breaks: the FIELD it is charged to. -/
def stageFault (e : BitVec 7) (k : Nat) (s : StageCfg) : Option (BitVec 6) :=
  s.phases.toList.findSome? (fun p =>
    match p.stageOp with
    | none => none
    | some o =>
      if !modOk o p then some (BitVec.ofNat 6 (8 * k + 2))
      else if !argOk e k o p then some (BitVec.ofNat 6 (8 * k + 5))
      else none)

/-- The operations the phases of a stage hold. -/
def StageCfg.ops (s : StageCfg) : List StageOp := s.phases.toList.filterMap (·.stageOp)

/-- The combinations of R219 and R222 on a memory element. DESIGN CHOICE: phases that mix MPUSH or MREORD with another
write operation, or MPOP with MRD, are BLOCKED too (log 17): the rules give each stage one mode of the bank. -/
def memModesOk (c : ElemCfg) : Bool :=
  let r := (c.stage 0).ops
  let w := (c.stage 1).ops
  (!w.contains .mpush || (r.all (· == .mpop) && w.all (· == .mpush))) &&
    (!r.contains .mpop || (w.all (· == .mpush) && r.all (· == .mpop))) &&
    (!w.contains .mreord || (r.isEmpty && w.all (· == .mreord))) &&
    (!(w.contains .mpush && r.contains .mpop) ||
      (((c.stage 0).phases.toList ++ (c.stage 1).phases.toList).filter (·.written)).all
        (fun p => p.arg == ((c.stage 1).phase 0).arg))

/-- The operations a replicated stage may hold (R225). -/
def replicable (o : StageOp) : Bool :=
  let c := o.row.code.toNat
  (0x10 ≤ c && c ≤ 0x26) || (0x30 ≤ c && c ≤ 0x43) || c == 0x49

def ElemCfg.replStage (c : ElemCfg) : Nat := (c.repl.extractLsb' 13 3).toNat
def ElemCfg.replW (c : ElemCfg) : Nat := (c.repl.extractLsb' 10 3).toNat
def ElemCfg.replH (c : ElemCfg) : Nat := (c.repl.extractLsb' 6 4).toNat

/-- Block an element whose finished configuration breaks a rule. -/
def ElemCfg.checked (c : ElemCfg) (e : BitVec 7) : ElemCfg :=
  if c.blocked.isSome then c
  else
    match (List.range 6).findSome? (fun k => stageFault e k (c.stage k)) with
    | some f => c.block f
    | none =>
      if !isCe e && !memModesOk c then c.block 0x09
      else if c.replSet && !(c.stage c.replStage).ops.all replicable then c.block 0x3D
      else c

/-- How a memory element is used (R219, R277). -/
inductive BankMode where
  | ram | fifo | reorder | unused
deriving DecidableEq, Repr

def ElemCfg.bankMode (c : ElemCfg) : BankMode :=
  let o := (c.stage 0).ops ++ (c.stage 1).ops
  if o.isEmpty then .unused
  else if o.contains .mreord then .reorder
  else if o.contains .mpush || o.contains .mpop then .fifo
  else .ram

/-- The capacity of the FIFO (R222) or the window (R223). -/
def ElemCfg.capacity (c : ElemCfg) : Nat :=
  let ps := ((c.stage 1).phases.toList ++ (c.stage 0).phases.toList).filter (·.written)
  ((ps.head?).map (·.arg.toNat)).getD 0

end Sys2Proof.Machine
end

