-- ==== Sys2Proof/Machine/EdgeCfg.lean ====
section
/-! DEFINITION. The configuration of the edge units: streams, matrix nodes and edge ports, what each word writes and
which values make the unit BLOCKED (R51, R279, R311, R318, R378, R380, R394). -/

namespace Sys2Proof.Machine

/-! Streams. -/

def StreamCfg.empty : StreamCfg where
  mode := 0
  mark := 0
  lsel := 0
  levels := Vector.replicate 8 ⟨0, 0, 0⟩
  dsel := 0
  dims := Vector.replicate 4 ⟨0, 0, 0⟩
  pad := 0
  isel := 0
  slots := 0
  tags := Vector.replicate 8 0
  oport := 0
  cq := 0
  key := Vector.replicate 12 0
  blocked := none

def mCPIO : BitVec 3 := 0
def mREAD : BitVec 3 := 1
def mWRITE : BitVec 3 := 2
def mGATHER : BitVec 3 := 3
def mSCATTER : BitVec 3 := 4
def mCOPY : BitVec 3 := 5
def mKEYST : BitVec 3 := 6
def mBGATH : BitVec 3 := 7

def StreamCfg.modeOf (c : StreamCfg) : BitVec 3 := c.mode.extractLsb' 13 3
def StreamCfg.per (c : StreamCfg) : Nat := (c.mode.extractLsb' 8 5).toNat
def StreamCfg.b64 (c : StreamCfg) : Bool := c.mode.getLsbD 7
/-- Element size in bytes (R279). -/
def StreamCfg.size (c : StreamCfg) : Nat := if c.b64 then 64 else 4
def StreamCfg.keyScope (c : StreamCfg) : BitVec 2 := c.mode.extractLsb' 5 2
def StreamCfg.nlvl (c : StreamCfg) : Nat := (c.mark.extractLsb' 8 3).toNat + 1
def StreamCfg.marked (c : StreamCfg) (level : Nat) : Bool := c.mark.getLsbD (level - 1)
def StreamCfg.level (c : StreamCfg) (j : Nat) : LevelCfg := c.levels.toList.getD (j - 1) ⟨0, 0, 0⟩
def StreamCfg.dim (c : StreamCfg) (n : Nat) : DimCfg := c.dims.toList.getD n ⟨0, 0, 0⟩
def StreamCfg.tag (c : StreamCfg) (t : Nat) : BitVec 16 := c.tags.toList.getD t 0
def StreamCfg.keyField (c : StreamCfg) (off : Nat) : BitVec 16 := c.key.toList.getD (off - 0x14) 0

def StreamCfg.block (c : StreamCfg) (f : BitVec 6) : StreamCfg := { c with blocked := some (c.blocked.getD f) }

def StreamCfg.updLevel (c : StreamCfg) (g : LevelCfg → LevelCfg) : StreamCfg :=
  let j := c.lsel.toNat - 1
  if h : j < 8 then { c with levels := c.levels.set j (g (c.level (j + 1))) h } else c

def StreamCfg.updDim (c : StreamCfg) (g : DimCfg → DimCfg) : StreamCfg :=
  { c with dims := c.dims.set c.dsel.toNat (g (c.dim c.dsel.toNat)) c.dsel.isLt }

/-- Put a halfword into the low or the high half of a 32-bit field. -/
def half32 (x : BitVec 32) (hi : Bool) (v : BitVec 16) : BitVec 32 :=
  if hi then v ++ x.extractLsb' 0 16 else x.extractLsb' 16 16 ++ v

/-- Is an OPORT value legal (R176)? -/
def oportOk (v : BitVec 16) : Bool := v.extractLsb' 0 8 == 0 && oportRel v != 3 && okFmt (oportFmt v)

/-- Is an SMODE value legal (R279)? -/
def smodeOk (v : BitVec 16) : Bool :=
  let m := v.extractLsb' 13 3
  let per := (v.extractLsb' 8 5).toNat
  let moves := m == mREAD || m == mWRITE
  let rows := m == mGATHER || m == mSCATTER
  v.extractLsb' 0 5 == 0 && (if moves then 1 ≤ per && per ≤ 16 else per == 0) && (rows || !v.getLsbD 7) &&
    (m == mKEYST || v.extractLsb' 5 2 == 0)

/-- One configuration word at offset `k` of a stream; `f` is its FIELD. -/
def StreamCfg.apply (c : StreamCfg) (k : Nat) (f : BitVec 6) (v : BitVec 16) : StreamCfg :=
  match k with
  | 0x00 => if smodeOk v then { c with mode := v } else c.block f
  | 0x01 => if v.extractLsb' 11 5 == 0 then { c with mark := v } else c.block f
  | 0x02 => if v.toNat ≤ 8 then { c with lsel := v.setWidth 4 } else c.block f
  | 0x03 => if c.lsel == 0 then c.block f else c.updLevel (fun l => { l with cnt := v })
  | 0x04 =>
    if c.lsel == 0 || v.extractLsb' 0 14 != 0 then c.block f
    else c.updLevel (fun l => { l with dim := v.extractLsb' 14 2 })
  | 0x05 => if c.lsel == 0 then c.block f else c.updLevel (fun l => { l with step := v })
  | 0x06 => if v.toNat ≤ 3 then { c with dsel := v.setWidth 2 } else c.block f
  | 0x07 => c.updDim (fun d => { d with org := half32 d.org false v })
  | 0x08 => c.updDim (fun d => { d with org := half32 d.org true v })
  | 0x09 => c.updDim (fun d => { d with ext := half32 d.ext false v })
  | 0x0A => c.updDim (fun d => { d with ext := half32 d.ext true v })
  | 0x0B => c.updDim (fun d => { d with pit := half32 d.pit false v })
  | 0x0C => c.updDim (fun d => { d with pit := half32 d.pit true v })
  | 0x0D => { c with pad := half32 c.pad false v }
  | 0x0E => { c with pad := half32 c.pad true v }
  | 0x0F =>
    if v.extractLsb' 7 9 == 0 && v.extractLsb' 0 4 == 0 then { c with isel := v.extractLsb' 4 3 } else c.block f
  | 0x10 => if v.extractLsb' 0 12 == 0 then { c with slots := v.extractLsb' 12 4 } else c.block f
  | 0x11 =>
    let trk := if c.isel == 1 then 1 else 0
    if v.extractLsb' 0 5 == 0 && okFmt (ltagFmt v) && ltagTrk v == trk && (c.isel.toNat ≤ 1 || !ltagEn v) then
      { c with tags := c.tags.set c.isel.toNat v c.isel.isLt }
    else c.block f
  | 0x12 => if oportOk v then { c with oport := v } else c.block f
  | 0x13 => if v.toNat ≤ 7 then { c with cq := v.setWidth 3 } else c.block f
  | _ => if h : k - 0x14 < 12 then { c with key := c.key.set (k - 0x14) v h } else c

/-- Does the stream carry any configuration (an SMODE, an input tag or an output link)? -/
def StreamCfg.used (c : StreamCfg) : Bool := c != StreamCfg.empty

/-- The rules that relate the words of a stream, whatever their order (R279, R311, R318). -/
def StreamCfg.fault (c : StreamCfg) (base : Nat) : Option (BitVec 6) :=
  let m := c.modeOf
  if m == mKEYST then
    if (c.keyField 0x14).extractLsb' 8 8 != 0 then some (BitVec.ofNat 6 (base + 0x14))
    else ((List.range 9).find? (fun i => c.keyField (0x17 + i) != 0)).map (fun i => BitVec.ofNat 6 (base + 0x17 + i))
  else if m == mBGATH then
    if (c.keyField 0x14).extractLsb' 8 7 != 0 then some (BitVec.ofNat 6 (base + 0x14))
    else if c.keyField 0x15 == 0 then some (BitVec.ofNat 6 (base + 0x15))
    else if c.keyField 0x16 == 0 then some (BitVec.ofNat 6 (base + 0x16))
    else if 12 ≤ (c.keyField 0x17).toNat then some (BitVec.ofNat 6 (base + 0x17))
    else ((List.range 8).find? (fun i => c.keyField (0x18 + i) != 0)).map (fun i => BitVec.ofNat 6 (base + 0x18 + i))
  else ((List.range 12).find? (fun i => c.keyField (0x14 + i) != 0)).map (fun i => BitVec.ofNat 6 (base + 0x14 + i))

def StreamCfg.checked (c : StreamCfg) (base : Nat) : StreamCfg :=
  match c.fault base with
  | some f => c.block f
  | none => c

/-! Matrix nodes. -/

def MxCfg.empty : MxCfg := ⟨Vector.replicate 15 0, none⟩
def MxCfg.word (c : MxCfg) (i : Nat) : BitVec 16 := c.words.toList.getD i 0
def MxCfg.block (c : MxCfg) (f : BitVec 6) : MxCfg := { c with blocked := some (c.blocked.getD f) }

def MxCfg.sparse (c : MxCfg) : Bool := (c.word 0).getLsbD 15
def MxCfg.fmt (c : MxCfg) : BitVec 4 := (c.word 0).extractLsb' 11 4
def MxCfg.epi (c : MxCfg) : BitVec 3 := (c.word 0).extractLsb' 8 3
def MxCfg.close (c : MxCfg) : Bool := (c.word 0).getLsbD 7
def MxCfg.accin (c : MxCfg) : Bool := (c.word 0).getLsbD 6
def MxCfg.tsel (c : MxCfg) : Bool := (c.word 0).getLsbD 5
def MxCfg.scaled (c : MxCfg) : Bool := (c.word 0).getLsbD 4
def MxCfg.ornd (c : MxCfg) : BitVec 3 := (c.word 0).extractLsb' 1 3
def MxCfg.klen (c : MxCfg) : Nat := (c.word 1).toNat
def MxCfg.cols (c : MxCfg) : Nat := ((c.word 2).extractLsb' 0 7).toNat + 1
def MxCfg.rows (c : MxCfg) : Nat := ((c.word 3).extractLsb' 0 7).toNat + 1
def MxCfg.tiles (c : MxCfg) : Nat := (c.word 4).toNat
def MxCfg.load (c : MxCfg) : Nat := (c.word 5).toNat
def MxCfg.keep (c : MxCfg) : Nat := ((c.word 6).extractLsb' 12 4).toNat
def MxCfg.grp (c : MxCfg) : Nat := ((c.word 6).extractLsb' 8 4).toNat
def MxCfg.rop (c : MxCfg) : BitVec 2 := (c.word 7).extractLsb' 6 2
def MxCfg.creg (c : MxCfg) : BitVec 6 := (c.word 7).extractLsb' 0 6
def MxCfg.base (c : MxCfg) : Word := c.word 11 ++ c.word 10 ++ c.word 9 ++ c.word 8
def MxCfg.stride (c : MxCfg) : BitVec 32 := c.word 13 ++ c.word 12
def MxCfg.oport (c : MxCfg) : BitVec 16 := c.word 14
def MxCfg.outFmt (c : MxCfg) : BitVec 4 := oportFmt c.oport

def eST : BitVec 3 := 0
def eFWD : BitVec 3 := 1
def eCTB : BitVec 3 := 2
def eRED : BitVec 3 := 3

/-- Is a word legal by itself (R378)? -/
def mxWordOk (f : Nat) (v : BitVec 16) : Bool :=
  match f with
  | 0 =>
    let m := (v.extractLsb' 11 4).toNat
    1 ≤ m && m ≤ 10 && (v.extractLsb' 8 3).toNat ≤ 3 && (v.extractLsb' 1 3).toNat ≤ 3 && !v.getLsbD 0
  | 1 => 1 ≤ v.toNat && v.toNat ≤ 16384
  | 2 | 3 => v.extractLsb' 7 9 == 0
  | 6 => v.extractLsb' 0 8 == 0
  | 7 => v.extractLsb' 8 8 == 0 && (v.extractLsb' 6 2).toNat ≤ 1
  | 14 => oportOk v
  | n => n < 15

def MxCfg.apply (c : MxCfg) (f : BitVec 6) (v : BitVec 16) : MxCfg :=
  if h : f.toNat < 15 then
    if mxWordOk f.toNat v then { c with words := c.words.set f.toNat v h } else c.block f
  else c.block f

/-- The number of B tokens that fill the weight buffer (R380). -/
def MxCfg.loadCount (c : MxCfg) : Option Nat :=
  let e := fullToken' c.fmt
  if c.sparse then
    if c.grp * e = 0 || c.klen * c.cols * c.keep % (c.grp * e) != 0 then none
    else some (c.klen * c.cols * c.keep / (c.grp * e))
  else if e = 0 then none
  else some ((c.klen * c.cols + e - 1) / e)
where
  fullToken' (f : BitVec 4) : Nat := 16 * perLane f

/-- The rules that span fields (R380), and the MODE and KLEN that no word has written. -/
def MxCfg.spanOk (c : MxCfg) : Bool :=
  let e := 16 * perLane c.fmt
  let out := c.outFmt.toNat
  let isInt := c.fmt == 9 || c.fmt == 10
  let outBytes := max 1 (elemBits c.outFmt / 8)
  mxWordOk 0 (c.word 0) && mxWordOk 1 (c.word 1) &&
    (!c.scaled || (4 ≤ c.fmt.toNat && c.fmt.toNat ≤ 9)) &&
    (!c.sparse || ((c.grp == 2 || c.grp == 4 || c.grp == 8) && 1 ≤ c.keep && c.keep < c.grp &&
      c.klen % c.grp == 0 && c.klen * c.cols % e == 0)) &&
    (c.load == 0 || c.loadCount == some c.load) &&
    (if isInt && !c.scaled then out == 0 || out == 9 || out == 11 else 1 ≤ out && out ≤ 8) &&
    (c.epi != eCTB || out ≤ 1) &&
    (c.epi != eRED || ((if c.rop == 1 then out == 1 else out == 0) && c.base.toNat % 64 == 0 &&
      c.stride.toNat % 64 == 0)) &&
    (c.epi != eST || (c.base.toNat % outBytes == 0 && c.stride.toNat % outBytes == 0))

/-! Edge ports. -/

def EpCfg.empty : EpCfg := ⟨Vector.replicate 5 0, none⟩
def EpCfg.word (c : EpCfg) (i : Nat) : BitVec 16 := c.words.toList.getD i 0
def EpCfg.block (c : EpCfg) (f : BitVec 6) : EpCfg := { c with blocked := some (c.blocked.getD f) }
def EpCfg.dir (c : EpCfg) : BitVec 2 := (c.word 0).extractLsb' 14 2
def EpCfg.scope (c : EpCfg) : BitVec 2 := (c.word 0).extractLsb' 12 2
def EpCfg.ctb (c : EpCfg) : Bool := (c.word 0).getLsbD 11
def EpCfg.red (c : EpCfg) : Bool := (c.word 0).getLsbD 10
def EpCfg.win (c : EpCfg) : Nat := ((c.word 1).extractLsb' 0 7).toNat
def EpCfg.dstPort (c : EpCfg) : BitVec 3 := (c.word 2).extractLsb' 13 3
def EpCfg.dstCore (c : EpCfg) : BitVec 7 := (c.word 2).extractLsb' 0 7
def EpCfg.dstNode (c : EpCfg) : BitVec 14 := (c.word 3).extractLsb' 0 14
def EpCfg.creg (c : EpCfg) : BitVec 6 := (c.word 4).extractLsb' 0 6
def EpCfg.isEgress (c : EpCfg) : Bool := c.dir == 1
def EpCfg.isIngress (c : EpCfg) : Bool := c.dir == 2

def epWordOk (f : Nat) (v : BitVec 16) : Bool :=
  match f with
  | 0 => v.extractLsb' 14 2 != 3 && v.extractLsb' 0 10 == 0 && (v.extractLsb' 14 2 == 0 || v.extractLsb' 12 2 != 0)
  | 1 => v.extractLsb' 7 9 == 0
  | 2 => v.extractLsb' 7 6 == 0
  | 3 => v.extractLsb' 14 2 == 0
  | 4 => v.extractLsb' 6 10 == 0
  | _ => false

def EpCfg.apply (c : EpCfg) (f : BitVec 6) (v : BitVec 16) : EpCfg :=
  if h : f.toNat < 5 then
    if epWordOk f.toNat v then { c with words := c.words.set f.toNat v h } else c.block f
  else c.block f

def EpCfg.checked (c : EpCfg) : EpCfg :=
  if !(!c.isIngress || (1 ≤ c.win && c.win ≤ 64)) then c.block 1
  else if !c.isEgress || c.scope == 3 || c.word 3 == 0 then c
  else c.block 3

end Sys2Proof.Machine
end

