-- ==== Sys2Proof/Machine/Links.lean ====
section
/-! DEFINITION. Links: where an output port's track leads through the routers (R164 to R168, R175). -/

namespace Sys2Proof.Machine

/-- The four sides, in the order N, E, S, W. -/
def opposite (side : Nat) : Nat := (side + 2) % 4

/-- The neighbour of element `e` across a side; none past the edge (R164). -/
def neighbour (e side : Nat) : Option Nat :=
  let x := e % 8
  let y := e / 8
  match side with
  | 0 => if y = 0 then none else some (e - 8)
  | 1 => if x = 7 then none else some (e + 1)
  | 2 => if y = 15 then none else some (e + 8)
  | _ => if x = 0 then none else some (e - 1)

/-- The sides other than `side`, in the order N, E, S, W. -/
def otherSides (side : Nat) : List Nat := (List.range 4).filter (· != side)

/-- The source code of an outgoing track (R168). -/
def xbCode (c : ElemCfg) (side trk : Nat) : Nat :=
  ((c.xb.toList.getD side 0).extractLsb' (4 * trk) 4).toNat

/-- The code by which the tracks of side `side` name the incoming track `trk` of side `from'`. -/
def codeOfTrack (side from' trk : Nat) : Nat := 1 + 4 * (otherSides side).findIdx (· == from') + trk

/-- The side of port `p` (0 to 7: pn0, pn1, pe0, …) and its number there. -/
def portSide (p : Nat) : Nat := p / 2
def portNum (p : Nat) : Nat := p % 2

/-- The outgoing tracks of a router that take the incoming track `trk` of side `from'`: pairs of side and track. -/
def forwards (c : ElemCfg) (from' trk : Nat) : List (Nat × Nat) :=
  ((otherSides from').map (fun s =>
    ((List.range 4).filter (fun t => xbCode c s t == codeOfTrack s from' trk)).map (fun t => (s, t)))).flatten

/-- The tracks that own output port `p` feeds. -/
def portTracks (c : ElemCfg) (p : Nat) : List Nat :=
  (List.range 4).filter (fun t => xbCode c (portSide p) t == 13 + portNum p)

/-- The input ports and tags of an element enabled on an incoming track: a port lies on the side the track comes
across, and its tag names the track (R169). -/
def deliveries (c : ElemCfg) (from' trk : Nat) : List (Nat × Nat) :=
  ([2 * from', 2 * from' + 1].map (fun p =>
    ((List.range 8).filter (fun t =>
      let w := (c.inPort p).tag t
      ltagEn w && ltagTrk w == trk)).map (fun t => (p, t)))).flatten

/-- The edge unit that a track leaving the grid enters (R164, R377, R394). -/
def edgeUnit (e side trk : Nat) : Option Endpoint :=
  let x := e % 8
  let y := e / 8
  match side with
  | 3 => if x = 0 && trk ≤ 1 then some (.stream y trk) else none
  | 1 => if x = 7 && trk ≤ 1 then some (.stream (16 + y) trk) else none
  | 0 =>
    if y = 0 then
      if x % 2 = 0 then (if trk = 0 then some (.matrix (x / 2) 0) else if trk = 1 then some (.matrix (x / 2) 1)
        else if trk = 2 then some (.matrix (x / 2) 3) else none)
      else if trk = 0 then some (.matrix (x / 2) 2) else none
    else none
  | _ => if y = 15 && trk = 0 then some (.edge x) else none

/-- Follow a track that leaves element `e` across `side`: the endpoint and the routers passed; none when it ends
nowhere (R167, R175). A BLOCKED element holds tokens up but ends no link (R188). -/
def follow (cfg : Nat → ElemCfg) : Nat → Nat → Nat → Nat → Nat → Option (Endpoint × Nat)
  | 0, _, _, _, _ => none
  | fuel + 1, e, side, trk, hops =>
    match neighbour e side with
    | none => (edgeUnit e side trk).map (fun u => (u, hops))
    | some n =>
      let c := cfg n
      let f := opposite side
      match deliveries c f trk with
      | (p, t) :: _ => some (.grid n p t, hops)
      | [] =>
        match forwards c f trk with
        | (s, t) :: _ => follow cfg fuel n s t (hops + 1)
        | [] => none

/-- The most routers a track can pass without a loop. -/
def followFuel : Nat := 512

/-- The link of output port `p` of element `e`: its endpoint and the routers passed. -/
def linkOf (cfg : Nat → ElemCfg) (e p : Nat) : Option (Endpoint × Nat) :=
  match portTracks (cfg e) p with
  | t :: _ => follow cfg followFuel e (portSide p) t 0
  | [] => none

/-- The element an edge unit's output enters and the side and track it enters on (R164, R377, R394). -/
def streamHome (s : Nat) : Nat := if s < 16 then 8 * s else 8 * (s - 16) + 7
def streamSide (s : Nat) : Nat := if s < 16 then 3 else 1

/-- Enter the grid at element `e` across `side`: the attachment router counts as passed (R166). DESIGN CHOICE: where the
attachment element is itself the consumer, or the sender of a link out of the grid, it does not count: it is no router
between the two ends (log 24). -/
def enterGrid (cfg : Nat → ElemCfg) (e side trk : Nat) : Option (Endpoint × Nat) :=
  let c := cfg e
  match deliveries c side trk with
  | (p, t) :: _ => some (.grid e p t, 0)
  | [] =>
    match forwards c side trk with
    | (s, t) :: _ => follow cfg followFuel e s t 1
    | [] => none

/-- The routers that a track coming into element `e` across `side` passes up to its consumer, in order. -/
def passedAt (cfg : Nat → ElemCfg) : Nat → Nat → Nat → Nat → List Nat
  | 0, _, _, _ => []
  | fuel + 1, e, side, trk =>
    let c := cfg e
    match deliveries c side trk, forwards c side trk with
    | [], (s, t) :: _ =>
      e :: (match neighbour e s with
        | some n => passedAt cfg fuel n (opposite s) t
        | none => [])
    | _, _ => []

/-- The routers passed by a track that leaves element `e` across `side`. -/
def passedFrom (cfg : Nat → ElemCfg) (fuel e side trk : Nat) : List Nat :=
  match neighbour e side with
  | some n => passedAt cfg fuel n (opposite side) trk
  | none => []

def streamLink (cfg : Nat → ElemCfg) (s : Nat) : Option (Endpoint × Nat) :=
  enterGrid cfg (streamHome s) (streamSide s) 0

def matrixLink (cfg : Nat → ElemCfg) (n : Nat) : Option (Endpoint × Nat) := enterGrid cfg (2 * n + 1) 0 1

def edgeLink (cfg : Nat → ElemCfg) (p : Nat) : Option (Endpoint × Nat) := enterGrid cfg (120 + p) 2 0

/-- The hops of a link that ends at an edge unit count the attachment element (R166). -/
def Endpoint.isEdge : Endpoint → Bool
  | .grid _ _ _ => false
  | _ => true

end Sys2Proof.Machine
end

