-- ==== Sys2Proof/Machine/Convert.lean ====
section
/-! DEFINITION. Elements of tokens, block scales, and the conversions routers make (R63, R74 to R81, R455). -/

namespace Sys2Proof.Machine

/-- Element `j` of a lane (R63). -/
def laneElem (fmt : BitVec 4) (l : BitVec 32) (j : Nat) : Nat :=
  l.toNat / 2 ^ (elemBits fmt * j) % 2 ^ elemBits fmt

/-- The elements of the lanes below `valid`, in element order (R63). -/
def tokElems (fmt : BitVec 4) (d : Payload) (valid : Nat) : List Nat :=
  ((List.range valid).map (fun l => (List.range (perLane fmt)).map (fun j => laneElem fmt (lane d l) j))).flatten

/-- One lane of elements, lowest first. -/
def packLane (fmt : BitVec 4) : List Nat → Nat
  | [] => 0
  | p :: t => p % 2 ^ elemBits fmt + 2 ^ elemBits fmt * packLane fmt t

/-- Lanes of a list of elements. -/
def packLanes (fmt : BitVec 4) (ps : List Nat) : List (BitVec 32) :=
  let k := perLane fmt
  (List.range ((ps.length + k - 1) / k)).map (fun i => BitVec.ofNat 32 (packLane fmt ((ps.drop (k * i)).take k)))

/-- A DATA token that holds a list of elements, its VALID the lanes that hold some (R80). -/
def packToken (fmt : BitVec 4) (ps : List Nat) (r p : Bool) : Token :=
  let ls := packLanes fmt ps
  { plainToken kDATA with valid := BitVec.ofNat 5 ls.length, r := r, p := p, data := payloadOf ls }

/-- Elements in one full token of a format. -/
def fullToken (fmt : BitVec 4) : Nat := 16 * perLane fmt

/-- Is a lane of a 6-bit format at fault: bits [31:30] are not zero (R63)? -/
def sixBitBad (fmt : BitVec 4) (d : Payload) (l : Nat) : Bool := isSixBit fmt && (lane d l).extractLsb' 30 2 != 0

/-- A producer leaves bits [31:30] of every lane of a 6-bit format zero (R63). -/
def sixBitClean (fmt : BitVec 4) (d : Payload) : Payload :=
  if isSixBit fmt then payloadOf ((List.range 16).map (fun l => lane d l &&& 0x3FFFFFFF)) else d

/-- INV of a 6-bit format lane with bits [31:30] set (R63). -/
def sixBitFlag (fmt : BitVec 4) (d : Payload) (valid : Nat) : FlagSet :=
  flagIf ((List.range valid).any (sixBitBad fmt d)) flagInv

/-! Block scales (R75). -/

/-- The group a SCALE token begins. -/
def ScaleGroup.of (t : Token) : ScaleGroup := ⟨t.data, t.level.toNat + 1, 0⟩

/-- The scale of the element `i` places ahead in the group. -/
def scaleAt (g : Option ScaleGroup) (i : Nat) : Option Byte :=
  match g with
  | none => none
  | some g => some (g.bytes.extractLsb' (8 * ((g.elems + i) / 32)) 8)

/-- The group after a data token of `n` elements has been read to its end. -/
def groupAfter (g : Option ScaleGroup) (n : Nat) : Option ScaleGroup :=
  match g with
  | none => none
  | some g => if g.left ≤ 1 then none else some { g with left := g.left - 1, elems := g.elems + n }

/-- The group in force after a token has been read whole (R75): a SCALE token begins one, a data token advances it, an
EOT, EOD or EOS ends it. -/
def groupPast (fmt : BitVec 4) (g : Option ScaleGroup) (t : Token) : Option ScaleGroup :=
  if t.kind == kDATA then groupAfter g (tokElems fmt t.data t.valid.toNat).length
  else if t.kind == kSCALE then some (ScaleGroup.of t)
  else if t.isMarker then none
  else g

/-- The elements of a data token with the scales in force (R76, R79). -/
def srcElems (fmt : BitVec 4) (g : Option ScaleGroup) (t : Token) : List SrcElem :=
  (tokElems fmt t.data t.valid.toNat).zipIdx.map (fun q =>
    { pat := q.1, fmt := fmt, scale := scaleAt g q.2, p := t.p, r := t.r, shift := 0
      inv := sixBitBad fmt t.data (q.2 / perLane fmt) })

/-- Convert one element with a rounding mode and a draw (R79, R202, R203). -/
def convElem (target : BitVec 4) (mode : RMode) (nbv draw : Nat) (s : SrcElem) : Nat × FlagSet :=
  let f := fmtOfCode s.fmt
  let pat :=
    match f with
    | .float g => flushIn nbv g s.pat
    | .int _ => s.pat
  let (v, f1) := exact f s.scale pat
  let (y, f2) := round (fmtOfCode target) mode draw (v.scale s.shift)
  let (z, f3) :=
    match fmtOfCode target with
    | .float g => flushOut nbv g (y, f2)
    | .int _ => (y, f2)
  (z, f1 ||| f3)

/-- A router's conversion of one element: RNE, subnormals kept (R79, R86). An element that stands in the target format
already passes as it is (R78). -/
def routeElem (target : BitVec 4) (s : SrcElem) : Nat × FlagSet :=
  if s.fmt == target && s.scale.isNone then (s.pat, 0) else convElem target .rne 3 0 s

/-- A router's conversion of a list of elements into one token. -/
def convToken (target : BitVec 4) (es : List SrcElem) : Token × FlagSet :=
  let rs := es.map (routeElem target)
  (packToken target (rs.map (·.1)) (es.any (·.r)) (es.any (·.p)), rs.foldl (fun f r => f ||| r.2) 0)

/-! Receiving (R455). -/

/-- What a reader takes from the tokens of one tag: the token, the tokens left, the elements of the head already
taken, the scales in force behind it, those the token's own elements stand under, flags. -/
structure Taken where
  tok : Token
  left : List Token
  taken : Nat
  scale : Option ScaleGroup
  under : Option ScaleGroup
  flags : FlagSet
deriving DecidableEq, Repr

/-- Collect elements for one token of `need` elements; `acc` has been collected. A marker or another token that is no
data flushes what there is; too few tokens make the taker wait. -/
def gather (linkFmt target : BitVec 4) (need : Nat) : List Token → Nat → Option ScaleGroup → List SrcElem → FlagSet →
    Option Taken
  | [], _, _, _, _ => none
  | t :: rest, taken, g, acc, fl =>
    if t.kind == kDATA then
      let all := srcElems linkFmt g t
      let avail := all.drop taken
      let want := need - acc.length
      let fl := fl ||| sixBitFlag linkFmt t.data t.valid.toNat
      if avail.length ≤ want then
        let acc := acc ++ avail
        let g' := groupAfter g all.length
        if acc.length = need then
          let (k, f) := convToken target acc
          some ⟨k, rest, 0, g', none, fl ||| f⟩
        else gather linkFmt target need rest 0 g' acc fl
      else
        let (k, f) := convToken target (acc ++ avail.take want)
        some ⟨k, t :: rest, taken + want, g, none, fl ||| f⟩
    else if t.kind == kSCALE then gather linkFmt target need rest 0 (some (ScaleGroup.of t)) acc fl
    else if acc.isEmpty then some ⟨t, rest, 0, if t.isMarker then none else g, none, fl⟩
    else
      let (k, f) := convToken target acc
      some ⟨k, t :: rest, 0, g, none, fl ||| f⟩

/-- The group in force `n` elements further on. -/
def ScaleGroup.ahead (n : Nat) (g : ScaleGroup) : ScaleGroup := { g with elems := g.elems + n }

/-- A reader that does not convert takes the next token whole, or the rest of one that a converting reader has begun
(R455). The scales in force belong to the stream of tokens, whichever reader or phase takes each (R75); `begins` says that
a SCALE token begins a group for this reader, and is no ERR (R195). -/
def takeWhole (linkFmt : BitVec 4) (begins : Bool) (toks : List Token) (taken : Nat) (g : Option ScaleGroup) :
    Option Taken :=
  match toks with
  | [] => none
  | t :: rest =>
    let past := if t.kind == kSCALE && !begins then g else groupPast linkFmt g t
    if taken = 0 then some ⟨t, rest, 0, past, g, 0⟩
    else
      let ps := (tokElems linkFmt t.data t.valid.toNat).drop taken
      some ⟨packToken linkFmt ps t.r t.p, rest, 0, past, g.map (·.ahead taken), 0⟩

/-- Take one token from a queue for a reader of format `fmt`; `conv` says whether the reader interprets (R78), `begins`
whether SCALE tokens are scales to it. -/
def InQueue.take (q : InQueue) (linkFmt fmt : BitVec 4) (conv begins : Bool) : Option Taken :=
  if conv && linkFmt != fmt then gather linkFmt fmt (fullToken fmt) q.toks q.taken q.scale [] 0
  else takeWhole linkFmt begins q.toks q.taken q.scale

/-! Sending (R78 to R81). -/

def OutConv.empty : OutConv := ⟨[], [], none, 0⟩
def InQueue.empty : InQueue := ⟨[], 0, none, none, 0⟩

/-- Full tokens of a list of elements: those emitted and the elements left. -/
def emitFull (target : BitVec 4) : Nat → List SrcElem → List Token × List SrcElem × FlagSet
  | 0, es => ([], es, 0)
  | n + 1, es =>
    let need := fullToken target
    if es.length < need then ([], es, 0)
    else
      let (k, f) := convToken target (es.take need)
      let (ks, rest, f') := emitFull target n (es.drop need)
      (k :: ks, rest, f ||| f')

/-- Give a token of stage `k` to a converting router: from `src` into `target`. A token that stands in the link's format
already fills a partly filled one as it is (R455). -/
def OutConv.put (o : OutConv) (k : Nat) (src target : BitVec 4) (t : Token) : OutConv × FlagSet :=
  let raw := src == target
  let o := { o with stage := k }
  if t.kind == kDATA then
    let es := o.elems ++ srcElems src (if raw then none else o.scale) t
    let (ks, rest, f) := emitFull target 128 es
    ({ o with elems := rest, waiting := o.waiting ++ ks, scale := groupPast src o.scale t },
      f ||| (if raw then 0 else sixBitFlag src t.data t.valid.toNat))
  else if t.kind == kSCALE && !raw then ({ o with scale := some (ScaleGroup.of t) }, 0)
  else
    let sc := if raw then o.scale else groupPast src o.scale t
    if o.elems.isEmpty then ({ o with waiting := o.waiting ++ [t], scale := sc }, 0)
    else
      let (k, f) := convToken target o.elems
      ({ o with elems := [], waiting := o.waiting ++ [k, t], scale := sc }, f)

end Sys2Proof.Machine
end

