-- ==== Sys2Proof/Machine/NumFn.lean ====
section
/-! DEFINITION. The special functions RCP, RSQ, SQRT, EXP2, LOG2, EXP, LOG, TANH and SIGM: the rounding of the exact
value of the function (R82, R83). Square roots and reciprocals are computed exactly up to a sticky bit. The
transcendental functions are enclosed between two fixed-point numbers; the precision doubles until both ends round to
the same pattern (log 19). -/

namespace Sys2Proof.Machine

/-- Floor of the square root, one bit at a time from bit `k` down. -/
def isqrtFrom (n : Nat) : Nat → Nat → Nat
  | 0, r => r
  | k + 1, r =>
    let r' := r + 2 ^ k
    isqrtFrom n k (if r' * r' ≤ n then r' else r)

def isqrt (n : Nat) : Nat := isqrtFrom n (Nat.log2 n / 2 + 1) 0

/-- A value q · 2^e not itself exact when `sticky`: one more bit says so, which every rounding then sees. -/
def stickyVal (neg : Bool) (q : Nat) (sticky : Bool) (e : Int) : Val :=
  .fin neg (2 * q + (if sticky then 1 else 0)) (e - 1)

/-- 1 / x of a nonzero finite value. -/
def rcpVal (neg : Bool) (m : Nat) (e : Int) : Val :=
  let k : Nat := 2 * Nat.log2 m + 80
  stickyVal neg (2 ^ k / m) (2 ^ k % m != 0) (-e - k)

/-- √x of a positive finite value. -/
def sqrtVal (m : Nat) (e : Int) : Val :=
  let k : Nat := if e % 2 == 0 then 160 else 161
  let n := m * 2 ^ k
  let r := isqrt n
  stickyVal false r (r * r != n) ((e - k) / 2)

/-- 1 / √x of a positive finite value. -/
def rsqVal (m : Nat) (e : Int) : Val :=
  let k0 : Nat := 2 * Nat.log2 m + 200
  let k : Nat := if (e + k0) % 2 == 0 then k0 else k0 + 1
  let r := isqrt (2 ^ k / m)
  stickyVal false r (r * r * m != 2 ^ k) ((-e - k) / 2)

/-! Enclosures. An enclosure at precision P is a pair of integers lo ≤ hi standing for lo · 2^−P and hi · 2^−P. -/

/-- An enclosure of a real number. -/
structure Encl where
  lo : Int
  hi : Int
deriving DecidableEq, Repr

/-- Floor and ceiling of a quotient by a positive integer. -/
def fdiv (a : Int) (b : Nat) : Int := a / (b : Int)
def cdiv (a : Int) (b : Nat) : Int := -((-a) / (b : Int))

/-- A product of nonnegative enclosures. -/
def Encl.mulPos (P : Nat) (a b : Encl) : Encl := ⟨fdiv (a.lo * b.lo) (2 ^ P), cdiv (a.hi * b.hi) (2 ^ P)⟩

/-- The series z + z^3/3 + z^5/5 + …, for 0 ≤ z ≤ 1/3: `n` terms, with the tail bounded by the last power. -/
def atanhSeries (P : Nat) (z2 : Encl) : Nat → Nat → Encl → Encl → Encl
  | 0, _, pw, acc => ⟨acc.lo, acc.hi + pw.hi⟩
  | n + 1, d, pw, acc =>
    atanhSeries P z2 n (d + 2) (pw.mulPos P z2) ⟨acc.lo + fdiv pw.lo d, acc.hi + cdiv pw.hi d⟩

/-- 2 · atanh of num / den ≤ 1/3. -/
def twoAtanh (P num den : Nat) : Encl :=
  let z : Encl := ⟨fdiv (num * 2 ^ P : Nat) den, cdiv (num * 2 ^ P : Nat) den⟩
  let s := atanhSeries P (z.mulPos P z) (P / 3 + 4) 1 z ⟨0, 0⟩
  ⟨2 * s.lo, 2 * s.hi⟩

/-- ln 2. -/
def ln2Encl (P : Nat) : Encl := twoAtanh P 1 3

/-- ln m for m = num / 2^k in [1, 2). -/
def lnMantissa (P num k : Nat) : Encl := twoAtanh P (num - 2 ^ k) (num + 2 ^ k)

/-- The exponential series from the term already reached, for 0 ≤ r < 1. -/
def expSeries (P : Nat) (r : Encl) : Nat → Nat → Encl → Encl → Encl
  | 0, _, t, acc => ⟨acc.lo, acc.hi + 2 * t.hi⟩
  | n + 1, k, t, acc =>
    let t' := t.mulPos P r
    let t'' : Encl := ⟨fdiv t'.lo k, cdiv t'.hi k⟩
    expSeries P r n (k + 1) t'' ⟨acc.lo + t''.lo, acc.hi + t''.hi⟩

/-- Number of terms after which r^n / n! is below 2^−P for every P used. -/
def expTerms (P : Nat) : Nat := P / 3 + 16

/-- e^r for an enclosure of a number in [0, 1). -/
def expFrac (P : Nat) (r : Encl) : Encl :=
  let one : Int := (2 ^ P : Nat)
  expSeries P r (expTerms P) 1 ⟨one, one⟩ ⟨one, one⟩

/-- The value x = ±m · 2^e at precision P. -/
def fixAt (P : Nat) (neg : Bool) (m : Nat) (e : Int) : Encl :=
  let k := e + P
  let a : Encl :=
    if 0 ≤ k then ⟨(m * 2 ^ k.toNat : Nat), (m * 2 ^ k.toNat : Nat)⟩
    else ⟨fdiv m (2 ^ (-k).toNat), cdiv m (2 ^ (-k).toNat)⟩
  if neg then ⟨-a.hi, -a.lo⟩ else a

/-- Is the magnitude m · 2^e at least 2^k? -/
def magGe (m : Nat) (e : Int) (k : Int) : Bool := (Nat.log2 m : Int) + e ≥ k

/-- e^x as 2^n times an enclosure of its mantissa, for |x| below 2^12. -/
def expParts (P : Nat) (neg : Bool) (m : Nat) (e : Int) : Int × Encl :=
  let x := fixAt P neg m e
  let l := ln2Encl P
  let n := if neg then x.lo / l.lo else x.lo / l.hi
  let r : Encl := if 0 ≤ n then ⟨x.lo - n * l.hi, x.hi - n * l.lo⟩ else ⟨x.lo - n * l.lo, x.hi - n * l.hi⟩
  (n, expFrac P ⟨max r.lo 0, max r.hi 0⟩)

/-- 2^x as 2^n times an enclosure of its mantissa, for |x| below 2^12. -/
def exp2Parts (P : Nat) (neg : Bool) (m : Nat) (e : Int) : Int × Encl :=
  let x := fixAt P neg m e
  let n := x.lo / (2 ^ P : Nat)
  let f : Encl := ⟨x.lo - n * (2 ^ P : Nat), x.hi - n * (2 ^ P : Nat)⟩
  (n, expFrac P (f.mulPos P (ln2Encl P)))

/-- An enclosure with the power of two it is scaled by: the value lies strictly between lo · 2^e and hi · 2^e. -/
structure Approx where
  lo : Int
  hi : Int
  e : Int
deriving DecidableEq, Repr

/-- log of m · 2^e: k · ln 2 + ln of its mantissa. -/
def lnEncl (P : Nat) (m : Nat) (e : Int) : Encl :=
  let b : Nat := Nat.log2 m
  let k : Int := (b : Int) + e
  let l := ln2Encl P
  let f := lnMantissa P m b
  if 0 ≤ k then ⟨k * l.lo + f.lo, k * l.hi + f.hi⟩ else ⟨k * l.hi + f.lo, k * l.lo + f.hi⟩

/-- The functions computed by enclosure. -/
inductive TransFn where
  | exp2 | log2 | exp | log | tanh | sigm
deriving DecidableEq, Repr

/-- The enclosure of a function at a finite nonzero operand whose value is not representable exactly. -/
def TransFn.approx (fn : TransFn) (P : Nat) (neg : Bool) (m : Nat) (e : Int) : Approx :=
  let one : Int := (2 ^ P : Nat)
  match fn with
  | .exp =>
    if magGe m e 12 then (if neg then ⟨0, 1, -8000⟩ else ⟨1, 2, 8000⟩)
    else
      let (n, a) := expParts P neg m e
      ⟨a.lo, a.hi, n - P⟩
  | .exp2 =>
    if magGe m e 12 then (if neg then ⟨0, 1, -8000⟩ else ⟨1, 2, 8000⟩)
    else
      let (n, a) := exp2Parts P neg m e
      ⟨a.lo, a.hi, n - P⟩
  | .log =>
    let a := lnEncl P m e
    ⟨a.lo, a.hi, -(P : Int)⟩
  | .log2 =>
    let b : Nat := Nat.log2 m
    let k : Int := (b : Int) + e
    let l := ln2Encl P
    let f := lnMantissa P m b
    ⟨k * one + fdiv (f.lo * one) l.hi.toNat, k * one + cdiv (f.hi * one) l.lo.toNat, -(P : Int)⟩
  | .tanh =>
    let a : Approx :=
      if magGe m e 6 then ⟨2 ^ 120 - 1, 2 ^ 120, -120⟩
      else
        let (n, x) := expParts P false m (e + 1)
        let lo := x.lo * (2 ^ n.toNat : Nat)
        let hi := x.hi * (2 ^ n.toNat : Nat)
        ⟨fdiv ((lo - one) * one) (hi + one).toNat, cdiv ((hi - one) * one) (lo + one).toNat, -(P : Int)⟩
    if neg then ⟨-a.hi, -a.lo, a.e⟩ else a
  | .sigm =>
    if magGe m e 12 then (if neg then ⟨0, 1, -8000⟩ else ⟨2 ^ 120 - 1, 2 ^ 120, -120⟩)
    else if !neg && magGe m e 7 then ⟨2 ^ 120 - 1, 2 ^ 120, -120⟩
    else
      let (n, x) := expParts P false m e
      let lo := x.lo * (2 ^ n.toNat : Nat)
      let hi := x.hi * (2 ^ n.toNat : Nat)
      if neg then
        let s : Int := (2 ^ (P + n.toNat) : Nat)
        ⟨fdiv (one * s) (one + hi).toNat, cdiv (one * s) (one + lo).toNat, -(P : Int) - n⟩
      else ⟨fdiv (lo * one) (one + hi).toNat, cdiv (hi * one) (one + lo).toNat, -(P : Int)⟩

/-- A value strictly inside an enclosure, next to one end. -/
def Approx.near (a : Approx) (low : Bool) : Val :=
  let z := if low then 4 * a.lo + 1 else 4 * a.hi - 1
  .fin (z < 0) z.natAbs (a.e - 2)

/-- Round the function's value, doubling the precision until both ends of the enclosure agree. -/
def roundApprox (fn : TransFn) (f : FloatFmt) (mode : RMode) (neg : Bool) (m : Nat) (e : Int) :
    Nat → Nat → Nat × FlagSet
  | 0, P => round (.float f) mode 0 ((fn.approx P neg m e).near true)
  | k + 1, P =>
    let a := fn.approx P neg m e
    let x := round (.float f) mode 0 (a.near true)
    let y := round (.float f) mode 0 (a.near false)
    if x = y then x else roundApprox fn f mode neg m e k (2 * P)

/-- Precision doublings allowed, from 64 bits upward. -/
def approxFuel : Nat := 6

/-- SR counts as RNE in the transcendental functions (R82). -/
def RMode.noDraw : RMode → RMode
  | .sr => .rne
  | m => m

/-- The integer a finite value is, if it is one. -/
def asInteger (neg : Bool) (m : Nat) (e : Int) : Option Int :=
  if 0 ≤ e then
    if e ≤ 20 then some (if neg then -((m * 2 ^ e.toNat : Nat) : Int) else (m * 2 ^ e.toNat : Nat)) else none
  else
    let k := (-e).toNat
    if m % 2 ^ k == 0 then some (if neg then -((m / 2 ^ k : Nat) : Int) else (m / 2 ^ k : Nat)) else none

/-- The exponent of a value that is a power of two. -/
def asPower (m : Nat) (e : Int) : Option Int :=
  if m == 2 ^ Nat.log2 m then some ((Nat.log2 m : Int) + e) else none

/-- A special function of an operand already decoded; `inv` is the flag of an operand outside the domain. -/
inductive SpecialFn where
  | rcp | rsq | sqrt
  | trans (f : TransFn)
deriving DecidableEq, Repr

/-- The value of a special function, rounded (R82, R83). -/
def SpecialFn.eval (fn : SpecialFn) (f : FloatFmt) (mode : RMode) (draw : Nat) (x : Val) : Nat × FlagSet :=
  let nan : Nat × FlagSet := (f.nanPat, 0)
  let inv : Nat × FlagSet := (f.nanPat, flagInv)
  let inf (neg : Bool) : Nat × FlagSet := (f.signPat neg + f.infPat, 0)
  let zero (neg : Bool) : Nat × FlagSet := (f.signPat neg, 0)
  let rnd (v : Val) : Nat × FlagSet := round (.float f) mode draw v
  match fn, x with
  | _, .nan _ => nan
  | .rcp, .inf neg => zero neg
  | .rcp, .fin neg m e => if m = 0 then inf neg else rnd (rcpVal neg m e)
  | .sqrt, .inf neg => if neg then inv else inf false
  | .sqrt, .fin neg m e => if m = 0 then zero neg else if neg then inv else rnd (sqrtVal m e)
  | .rsq, .inf neg => if neg then inv else zero false
  | .rsq, .fin neg m e => if m = 0 then inf neg else if neg then inv else rnd (rsqVal m e)
  | .trans g, x =>
    let md := mode.noDraw
    let rn (v : Val) : Nat × FlagSet := round (.float f) md 0 v
    match g, x with
    | _, .nan _ => nan
    | .exp, .inf neg => if neg then zero false else inf false
    | .exp2, .inf neg => if neg then zero false else inf false
    | .log, .inf neg => if neg then inv else inf false
    | .log2, .inf neg => if neg then inv else inf false
    | .tanh, .inf neg => rn (.fin neg 1 0)
    | .sigm, .inf neg => if neg then zero false else rn (.fin false 1 0)
    | .exp, .fin neg m e => if m = 0 then rn (.fin false 1 0) else roundApprox .exp f md neg m e approxFuel 64
    | .exp2, .fin neg m e =>
      if m = 0 then rn (.fin false 1 0)
      else
        match asInteger neg m e with
        | some n => rn (.fin false 1 (if n < -8000 then -8000 else if n > 8000 then 8000 else n))
        | none => roundApprox .exp2 f md neg m e approxFuel 64
    | .log, .fin neg m e =>
      if m = 0 then inf true
      else if neg then inv
      else if asPower m e = some 0 then zero false
      else roundApprox .log f md neg m e approxFuel 64
    | .log2, .fin neg m e =>
      if m = 0 then inf true
      else if neg then inv
      else
        match asPower m e with
        | some n => rn (if n = 0 then .fin false 0 0 else .ofInt n)
        | none => roundApprox .log2 f md neg m e approxFuel 64
    | .tanh, .fin neg m e => if m = 0 then zero neg else roundApprox .tanh f md neg m e approxFuel 64
    | .sigm, .fin neg m e => if m = 0 then rn (.fin false 1 (-1)) else roundApprox .sigm f md neg m e approxFuel 64

end Sys2Proof.Machine
end

