-- ==== Sys2Proof/Machine/StageArith.lean ====
section
/-! DEFINITION. What a firing computes from DATA operands: the element-wise integer and floating operations, the lane
operations and the comparisons (R189 to R194, R198 to R207). -/

namespace Sys2Proof.Machine

/-- An operand as a firing sees it: 16 lanes, of which `valid` hold values, and its P bit. -/
structure Opnd where
  data : Payload
  valid : Nat
  p : Bool
deriving DecidableEq, Repr

/-- An operand's payload with the lanes at or above its VALID zero (R191). -/
def Opnd.masked (o : Opnd) : Payload :=
  if o.valid ≥ 16 then o.data else o.data &&& BitVec.ofNat 512 (2 ^ (32 * o.valid) - 1)

def Opnd.ofToken (t : Token) : Opnd := ⟨t.data, min t.valid.toNat 16, t.p⟩

def Opnd.zero : Opnd := ⟨0, 16, false⟩

/-- What a computation needs beside its operands. -/
structure Ctx where
  fmt : BitVec 4
  mode : RMode
  nbv : Nat
  low : BitVec 6
  arg : BitVec 16
  guard : BitVec 3
  sr : Vector (BitVec 32) 16
deriving DecidableEq, Repr

/-- The draw of element `j` of lane `l` (R69): the state of the lane stepped j + 1 times. -/
def stepTimes : Nat → BitVec 32 → BitVec 32
  | 0, x => x
  | n + 1, x => stepTimes n (xorshift x)

def Ctx.draw (c : Ctx) (l j : Nat) : Nat := (stepTimes (j + 1) (c.sr.toList.getD l 1)).toNat

/-- The generator states after a firing with `k` element slots a lane (R69). -/
def srAfter (sr : Vector (BitVec 32) 16) (k : Nat) : Vector (BitVec 32) 16 := sr.map (stepTimes k)

/-- A computed token and the flags raised. -/
structure Result where
  data : Payload
  valid : Nat
  flags : FlagSet
deriving DecidableEq, Repr

/-- Does a lane take the result, by its guard on B (R57)? -/
def guardHolds (g : BitVec 3) (b : BitVec 32) : Bool :=
  match g.toNat with
  | 1 => b != 0
  | 2 => b == 0
  | 3 => b.getLsbD 31
  | 4 => !b.getLsbD 31
  | _ => true

/-- An element-wise operation: `f l j a b c` gives the element's pattern in `w` bits and its flags. -/
def elementwise (k w : Nat) (guard : BitVec 3) (f : Nat → Nat → Nat → Nat → Nat → Nat × FlagSet) (a b c : Opnd) :
    Result :=
  let bd := b.masked
  let cd := c.masked
  let rs := (List.range a.valid).map (fun l =>
    let la := lane a.data l
    let lb := lane bd l
    let lc := lane cd l
    if guardHolds guard lb then
      let es := (List.range k).map (fun j =>
        f l j (la.toNat / 2 ^ (w * j) % 2 ^ w) (lb.toNat / 2 ^ (w * j) % 2 ^ w) (lc.toNat / 2 ^ (w * j) % 2 ^ w))
      (es.zipIdx.foldl (fun x q => x ||| BitVec.ofNat 32 ((q.1.1 % 2 ^ w) * 2 ^ (w * q.2))) (0 : BitVec 32),
        es.foldl (fun x q => x ||| q.2) (0 : FlagSet))
    else (la, 0))
  ⟨payloadOf (rs.map (·.1)), a.valid, rs.foldl (fun x q => x ||| q.2) 0⟩

/-- A lane-wise operation on bit patterns. -/
def lanewise (guard : BitVec 3) (f : BitVec 32 → BitVec 32 → BitVec 32 → BitVec 32) (a b c : Opnd) : Result :=
  let bd := b.masked
  let cd := c.masked
  ⟨payloadOf ((List.range a.valid).map (fun l =>
      let lb := lane bd l
      if guardHolds guard lb then f (lane a.data l) lb (lane cd l) else lane a.data l)), a.valid, 0⟩

/-! Integer operations (R199, R200). -/

/-- An integer operation on elements of width `w` of the stage's format. -/
def intOp (ctx : Ctx) (f : Nat → Int → Int → Int → Nat × FlagSet) (a b c : Opnd) : Result :=
  let w := elemBits ctx.fmt
  elementwise (perLane ctx.fmt) w ctx.guard (fun _ _ x y z => f w (patInt w x) (patInt w y) (patInt w z)) a b c

def satPat (w : Nat) (z : Int) : Nat × FlagSet :=
  let (y, fl) := satInt w z
  (intPat w y, fl)

/-- Wrap or saturate by MOD[5] (R56). -/
def extPat (ctx : Ctx) (w : Nat) (z : Int) : Nat × FlagSet := if ctx.low.getLsbD 5 then satPat w z else wrapInt w z

def opIadd (ctx : Ctx) := intOp ctx (fun w a b _ => wrapInt w (a + b))
def opIsub (ctx : Ctx) := intOp ctx (fun w a b _ => wrapInt w (a - b))
def opImul (ctx : Ctx) := intOp ctx (fun w a b _ => extPat ctx w (a * b))
def opImulh (ctx : Ctx) := intOp ctx (fun w a b _ => (intPat w (a * b / (2 ^ w : Nat)), 0))
def opImac (ctx : Ctx) := intOp ctx (fun w a b c => extPat ctx w (a * b + c))
def opIneg (ctx : Ctx) := intOp ctx (fun w a _ _ => extPat ctx w (-a))
def opIabs (ctx : Ctx) := intOp ctx (fun w a _ _ => extPat ctx w a.natAbs)
def opImin (ctx : Ctx) := intOp ctx (fun w a b _ => (intPat w (min a b), 0))
def opImax (ctx : Ctx) := intOp ctx (fun w a b _ => (intPat w (max a b), 0))
def opIsadd (ctx : Ctx) := intOp ctx (fun w a b _ => satPat w (a + b))
def opIssub (ctx : Ctx) := intOp ctx (fun w a b _ => satPat w (a - b))
def opIclamp (ctx : Ctx) := intOp ctx (fun w a b c => (intPat w (max b (min a c)), 0))
def opStageAnd (ctx : Ctx) := lanewise ctx.guard (fun a b _ => a &&& b)
def opStageOr (ctx : Ctx) := lanewise ctx.guard (fun a b _ => a ||| b)
def opStageXor (ctx : Ctx) := lanewise ctx.guard (fun a b _ => a ^^^ b)
def opStageNot (ctx : Ctx) := lanewise ctx.guard (fun a _ _ => ~~~a)

/-- A shift by b mod w (R199). -/
def shiftOp (ctx : Ctx) (f : Nat → Int → Nat → Nat × FlagSet) :=
  intOp ctx (fun w a b _ => f w a (b % (w : Int)).toNat)

def opStageShl (ctx : Ctx) := shiftOp ctx (fun w a n => extPat ctx w (a * (2 ^ n : Nat)))
def opStageShr (ctx : Ctx) := shiftOp ctx (fun w a n => (intPat w a / 2 ^ n, 0))
def opStageSar (ctx : Ctx) := shiftOp ctx (fun w a n => (intPat w (a / (2 ^ n : Nat)), 0))

/-- A comparison of integer elements (R194). -/
def cmpInt (code : BitVec 3) (w : Nat) (a b : Int) : Bool :=
  match code.toNat with
  | 0 => a == b
  | 1 => a != b
  | 2 => a < b
  | 3 => a ≥ b
  | 4 => a ≤ b
  | 5 => a > b
  | 6 => intPat w a < intPat w b
  | _ => intPat w a ≥ intPat w b

/-- A comparison of floating elements: a NaN makes every code false but ne (R194). -/
def cmpVal (code : BitVec 3) (a b : Val) : Bool :=
  if a.isNan || b.isNan then code == 1
  else
    let o := a.cmp b
    match code.toNat with
    | 0 => o == 0
    | 1 => o != 0
    | 2 => o == -1
    | 3 => o != -1
    | 4 => o != 1
    | 5 => o == 1
    | _ => false

/-- Cmp on two elements of a format, with the INV of a signalling NaN (R194). DESIGN CHOICE: no operand is flushed under
NBV 1, here and in PRUNE's ranking: R86 names neither (log 34). -/
def cmpPat (fmt : BitVec 4) (code : BitVec 3) (x y : Nat) : Bool × FlagSet :=
  match fmtOfCode fmt with
  | .int w => (cmpInt code w (patInt w x) (patInt w y), 0)
  | .float f =>
    let a := decodeFloat f x
    let b := decodeFloat f y
    (cmpVal code a b, flagIf (a.isSignalling || b.isSignalling) flagInv)

def opIcmp (ctx : Ctx) :=
  intOp ctx (fun w a b _ => (if cmpInt (ctx.low.extractLsb' 0 3) w a b then 2 ^ w - 1 else 0, 0))

/-- SEL: element by element, C tested as a bit pattern (R199). -/
def opSel (ctx : Ctx) :=
  elementwise (perLane ctx.fmt) (elemBits ctx.fmt) 0 (fun _ _ a b c => (if c != 0 then a else b, 0))

/-- A dot product of the sub-elements of each lane plus C (R200). -/
def dotOp (w n : Nat) (a b c : Opnd) : Result :=
  elementwise 1 32 0 (fun _ _ x y z =>
    let s := (List.range n).foldl (fun acc j =>
      acc + patInt w (x / 2 ^ (w * j) % 2 ^ w) * patInt w (y / 2 ^ (w * j) % 2 ^ w)) (patInt 32 z)
    satPat 32 s) a b c

def opIdot4 (_ : Ctx) := dotOp 8 4
def opIdot2 (_ : Ctx) := dotOp 16 2

/-! Floating operations (R201). -/

/-- The floating format of the stage; f32 where the code names none. -/
def Ctx.ffmt (ctx : Ctx) : FloatFmt :=
  match fmtOfCode ctx.fmt with
  | .float f => f
  | .int _ => f32Fmt

/-- A floating operation: operands decoded under the NBV, INV for those it consumes that signal. -/
def floatOp (ctx : Ctx) (f : FloatFmt → Nat → Val → Val → Val → Nat × FlagSet) (n : Nat) (a b c : Opnd) : Result :=
  let ff := ctx.ffmt
  elementwise (perLane ctx.fmt) (elemBits ctx.fmt) ctx.guard (fun l j x y z =>
    let (u, f1) := floatOperand ctx.nbv ff x
    let (v, f2) := floatOperand ctx.nbv ff y
    let (w, f3) := floatOperand ctx.nbv ff z
    let (r, fl) := f ff (ctx.draw l j) u v w
    (r, fl ||| f1 ||| (if n ≥ 2 then f2 else 0) ||| (if n ≥ 3 then f3 else 0))) a b c

/-- Round an exact result under the NBV. -/
def Ctx.rnd (ctx : Ctx) (ff : FloatFmt) (draw : Nat) (v : Val × FlagSet) : Nat × FlagSet :=
  let (r, fl) := roundNbv ctx.nbv ff ctx.mode draw v.1
  (r, fl ||| v.2)

/-- Fma (R71). -/
def fmaVal (mode : RMode) (x y z : Val) : Val × FlagSet :=
  let (p, f1) := x.mul y
  if p.isNan then (.nan false, f1)
  else
    let (s, f2) := exactSum [p, z] mode
    (s, f1 ||| f2)

def opFadd (ctx : Ctx) := floatOp ctx (fun ff d x y _ => ctx.rnd ff d (exactSum [x, y] ctx.mode)) 2
def opFsub (ctx : Ctx) := floatOp ctx (fun ff d x y _ => ctx.rnd ff d (exactSum [x, y.neg] ctx.mode)) 2
def opFmul (ctx : Ctx) := floatOp ctx (fun ff d x y _ => ctx.rnd ff d (x.mul y)) 2
def opFma (ctx : Ctx) := floatOp ctx (fun ff d x y z => ctx.rnd ff d (fmaVal ctx.mode x y z)) 3
def opFnma (ctx : Ctx) := floatOp ctx (fun ff d x y z => ctx.rnd ff d (fmaVal ctx.mode x.neg y z)) 3

/-- The larger and the smaller of two values; a NaN propagates. -/
def maxVal (x y : Val) : Val := if x.isNan || y.isNan then .nan false else if valAfter y x then y else x
def minVal (x y : Val) : Val := if x.isNan || y.isNan then .nan false else if valAfter x y then y else x

/-- An exact value back into the format it came from. -/
def Ctx.pack (ctx : Ctx) (ff : FloatFmt) (v : Val) : Nat × FlagSet := roundNbv ctx.nbv ff .rne 0 v

def opFmin (ctx : Ctx) := floatOp ctx (fun ff _ x y _ => ctx.pack ff (minVal x y)) 2
def opFmax (ctx : Ctx) := floatOp ctx (fun ff _ x y _ => ctx.pack ff (maxVal x y)) 2
def opFabs (ctx : Ctx) := floatOp ctx (fun ff _ x _ _ => ctx.pack ff x.abs) 1
def opFneg (ctx : Ctx) := floatOp ctx (fun ff _ x _ _ => ctx.pack ff x.neg) 1
def opFclamp (ctx : Ctx) := floatOp ctx (fun ff _ x y z => ctx.pack ff (maxVal y (minVal x z))) 3

def opFcmp (ctx : Ctx) :=
  floatOp ctx (fun _ _ x y _ =>
    (if cmpVal (ctx.low.extractLsb' 0 3) x y then 2 ^ elemBits ctx.fmt - 1 else 0, 0)) 2

/-- A special function (R82, R83), flushed under NBV 1 (R86). -/
def opSpecial (fn : SpecialFn) (ctx : Ctx) :=
  floatOp ctx (fun ff d x _ _ => flushOut ctx.nbv ff (fn.eval ff ctx.mode d x)) 1

/-- RINT (R203). -/
def opRint (ctx : Ctx) :=
  floatOp ctx (fun ff d x _ _ =>
    match x with
    | .nan _ => (ff.nanPat, 0)
    | .inf _ => ctx.pack ff x
    | .fin neg m e =>
      if m = 0 then ctx.pack ff x
      else
        let (y, ex) := roundTo ctx.mode neg m e 0 d
        let (p, fl) := roundNbv ctx.nbv ff .rtz 0 (.fin neg y 0)
        (p, fl ||| flagIf (!ex) flagInx)) 1

/-! Lane operations (R204 to R207). -/

/-- The elements of an operand's valid lanes. -/
def Opnd.elems (o : Opnd) (fmt : BitVec 4) : List Nat := tokElems fmt o.data o.valid

/-- LSUM (R204). -/
def opLsum (ctx : Ctx) (a : Opnd) : Result :=
  let es := a.elems ctx.fmt
  match fmtOfCode ctx.fmt with
  | .int w =>
    let (p, fl) := wrapInt w ((es.map (patInt w)).sum)
    ⟨payloadOf [BitVec.ofNat 32 p], 1, fl⟩
  | .float ff =>
    let vs := es.map (floatOperand ctx.nbv ff)
    let (r, fl) := if es.isEmpty then (0, 0) else ctx.rnd ff (ctx.draw 0 0) (exactSum (vs.map (·.1)) ctx.mode)
    ⟨payloadOf [BitVec.ofNat 32 r], 1, vs.foldl (fun f v => f ||| v.2) fl⟩

/-- LMAX and LMIN (R204). -/
def opLext (isMax : Bool) (ctx : Ctx) (a : Opnd) : Result :=
  let es := a.elems ctx.fmt
  match fmtOfCode ctx.fmt with
  | .int w =>
    let vs := es.map (patInt w)
    let z := if isMax then vs.foldl max (intMin w) else vs.foldl min (intMax w)
    ⟨payloadOf [BitVec.ofNat 32 (intPat w z)], 1, 0⟩
  | .float ff =>
    let vs := es.map (floatOperand ctx.nbv ff)
    let z := (vs.map (·.1)).foldl (fun m v => if isMax then maxVal m v else minVal m v) (.inf isMax)
    let (r, fl) := ctx.pack ff z
    ⟨payloadOf [BitVec.ofNat 32 r], 1, vs.foldl (fun f v => f ||| v.2) fl⟩

/-- The prefixes of LSCAN under NBV 3: `sum` is the addends so far (R205). -/
def scanExact (ctx : Ctx) (ff : FloatFmt) (k : Nat) : List Val → List Val → Nat → List (Nat × FlagSet)
  | _, [], _ => []
  | seen, v :: t, i =>
    let seen := seen ++ [v]
    ctx.rnd ff (ctx.draw (i / k) (i % k)) (exactSum seen ctx.mode) :: scanExact ctx ff k seen t (i + 1)

/-- The prefixes of LSCAN under NBV 1 and 2: each rounded before the next (R205). -/
def scanRounded (ctx : Ctx) (ff : FloatFmt) (k : Nat) : Nat → List Val → Nat → List (Nat × FlagSet)
  | _, [], _ => []
  | t0, v :: t, i =>
    let r := ctx.rnd ff (ctx.draw (i / k) (i % k)) (exactSum [decodeFloat ff t0, v] ctx.mode)
    r :: scanRounded ctx ff k r.1 t (i + 1)

/-- The prefixes of an i32 LSCAN (R205). -/
def scanInt (w : Nat) : Int → List Int → List (Nat × FlagSet)
  | _, [] => []
  | s, v :: t => wrapInt w (s + v) :: scanInt w (s + v) t

/-- LSCAN from a carry pattern: the result and the new carry (R205). -/
def opLscan (ctx : Ctx) (carry : Nat) (a : Opnd) : Result × Nat :=
  let es := a.elems ctx.fmt
  let k := perLane ctx.fmt
  let rs : List (Nat × FlagSet) :=
    match fmtOfCode ctx.fmt with
    | .int w => scanInt w (patInt w carry) (es.map (patInt w))
    | .float ff =>
      let vs : List (Val × FlagSet) := es.map (floatOperand ctx.nbv ff)
      let ys : List (Nat × FlagSet) :=
        if ctx.nbv == 3 then scanExact ctx ff k [decodeFloat ff carry] (vs.map (·.1)) 0
        else scanRounded ctx ff k carry (vs.map (·.1)) 0
      (ys.zip vs).map (fun q => (q.1.1, q.1.2 ||| q.2.2))
  (⟨payloadOf (packLanes ctx.fmt (rs.map (·.1))), a.valid, rs.foldl (fun f r => f ||| r.2) 0⟩,
    ((rs.getLast?).map (·.1)).getD carry)

/-- LREC from an initial h: lane after lane (R206). -/
def lrecFrom (ctx : Ctx) (a b : Payload) : Nat → Nat → Nat → List (Nat × FlagSet)
  | 0, _, _ => []
  | n + 1, l, h =>
    let x := decodeFloat f32Fmt (lane a l).toNat
    let y := decodeFloat f32Fmt (lane b l).toNat
    let z := decodeFloat f32Fmt h
    let (s, f1) := fmaVal ctx.mode x z y
    let (r, f2) := round (.float f32Fmt) ctx.mode (ctx.draw l 0) s
    (r, f1 ||| f2 ||| signallingFlag (.float f32Fmt) [(lane a l).toNat, h, (lane b l).toNat]) ::
      lrecFrom ctx a b n (l + 1) r

def opLrec (ctx : Ctx) (h : Nat) (a b : Opnd) : Result × Nat :=
  let rs := lrecFrom ctx a.data b.masked a.valid 0 h
  (⟨payloadOf (rs.map (fun r => BitVec.ofNat 32 r.1)), a.valid, rs.foldl (fun f r => f ||| r.2) 0⟩,
    ((rs.getLast?).map (·.1)).getD h)

/-- SHUF, BCAST and LROT (R207). -/
def opShuf (a b : Opnd) : Result :=
  let bd := b.masked
  ⟨payloadOf ((List.range a.valid).map (fun l =>
      let i := (lane bd l).toNat % 16
      if i ≥ a.valid then 0 else lane a.data i)), a.valid, 0⟩

def opBcast (n : Nat) (a : Opnd) : Result :=
  ⟨payloadOf (List.replicate 16 (if n ≥ a.valid then 0 else lane a.data n)), 16, 0⟩

def opLrot (n : Nat) (a : Opnd) : Result :=
  ⟨payloadOf ((List.range a.valid).map (fun l => lane a.data (((l + a.valid * 16 - n) % a.valid)))), a.valid, 0⟩

end Sys2Proof.Machine
end

