-- ==== Sys2Proof/Machine/Operands.lean ====
section
/-! DEFINITION. The operands of a stage firing: where they stand, whether they are there, what they read as (R53, R172,
R174, R183, R189, R191). -/

namespace Sys2Proof.Machine

/-! The units of a core. -/

def Eng.cfg (g : Eng) (e : Nat) : ElemCfg := Tbl.get g.active ElemCfg.empty e
def Eng.elem (g : Eng) (e : Nat) : Elem := Tbl.get g.elems Elem.reset e
def Eng.setElem (g : Eng) (e : Nat) (x : Elem) : Eng := { g with elems := Tbl.put g.elems e x }
def Eng.vat (g : Eng) (v : Nat) : Vat := Tbl.get g.vats Vat.reset v
def Eng.setVat (g : Eng) (v : Nat) (x : Vat) : Eng := { g with vats := Tbl.put g.vats v x }
def Eng.streamCfg (g : Eng) (s : Nat) : StreamCfg := Tbl.get g.agActive StreamCfg.empty s
def Eng.mxCfg (g : Eng) (n : Nat) : MxCfg := Tbl.get g.mxActive MxCfg.empty n
def Eng.epCfg (g : Eng) (p : Nat) : EpCfg := Tbl.get g.epActive EpCfg.empty p

def Elem.stage (x : Elem) (k : Nat) : StageState := x.stages.toList.getD k StageState.reset
def Elem.setStage (x : Elem) (k : Nat) (st : StageState) : Elem :=
  if h : k < 6 then { x with stages := x.stages.set k st h } else x

def StageState.opState (st : StageState) (ph : BitVec 2) : PhaseState := st.perPhase.get ph.toFin
def StageState.setOpState (st : StageState) (ph : BitVec 2) (p : PhaseState) : StageState :=
  { st with perPhase := st.perPhase.set ph.toNat p ph.isLt }

/-- The key of an endpoint's pool in the table of pools. -/
def Endpoint.key : Endpoint → Nat
  | .grid e p t => 64 * e + 8 * p + t
  | .stream s t => 8192 + 2 * s + t
  | .matrix n p => 8256 + 4 * n + p
  | .edge p => 8272 + p

def Eng.pool (g : Eng) (d : Endpoint) : InQueue := Tbl.get g.pools InQueue.empty d.key
def Eng.setPool (g : Eng) (d : Endpoint) (q : InQueue) : Eng := { g with pools := Tbl.put g.pools d.key q }

/-! Vats and their regions (R251, R253). -/

/-- The rectangle of a BEGIN word: x0, y0, x1, y1 (R61). -/
def rectOf (v : BitVec 16) : Nat × Nat × Nat × Nat :=
  ((v.extractLsb' 9 3).toNat, (v.extractLsb' 12 4).toNat, (v.extractLsb' 2 3).toNat, (v.extractLsb' 5 4).toNat)

/-- Is the element at a grid index inside a rectangle? -/
def inRect (r : BitVec 16) (e : Nat) : Bool :=
  let (x0, y0, x1, y1) := rectOf r
  x0 ≤ e % 8 && e % 8 ≤ x1 && y0 ≤ e / 8 && e / 8 ≤ y1

/-- ADDR of a grid element, of an address generator, a node, an edge port and a vat controller (R50, R231). -/
def addrStream (s : Nat) : Nat := 0x080 + s / 2
def addrMatrix (n : Nat) : Nat := 0x090 + n
def addrEdge (p : Nat) : Nat := 0x098 + p
def addrVat (v : Nat) : Nat := 0x0A0 + v

/-- Does a plane configure a unit: a grid element of its rectangle, or an edge unit that it addresses (R226)? -/
def Plane.has (p : Plane) (addr : Nat) : Bool := if addr < 128 then inRect p.rect addr else p.units.contains addr

/-- Does a vat's active plane hold a unit? -/
def Vat.has (v : Vat) (addr : Nat) : Bool :=
  match v.active with
  | some p => p.has addr
  | none => false

/-- The states in which a vat's stages may fire: from ARM to retirement (R253). -/
def VatState.live : VatState → Bool
  | .armed | .running | .draining | .drained => true
  | _ => false

/-- The slot whose live vat holds a unit. -/
def Eng.vatOf (g : Eng) (addr : Nat) : Option Nat :=
  (List.range 8).find? (fun v => (g.vat v).state.live && (g.vat v).has addr)

/-! A firing in view. -/

/-- A replica of a replicated stage: its index and its element (R183). -/
structure Replica where
  index : Nat
  elem : Nat

/-- What a stage that may fire sees: the world, its core, element, stage and phase, its configuration, its state, the
replica the firing goes to, and the links on which its claim takes a shared slot. -/
structure Fire where
  w : World
  c : Nat
  e : Nat
  k : Nat
  cfg : ElemCfg
  ph : BitVec 2
  pc : PhaseCfg
  op : StageOp
  el : Elem
  vat : Nat
  nbv : Nat
  handler : Option (Nat × Nat)
  owed : Bool
  rep : Replica
  shared : List Endpoint

def Fire.eng (x : Fire) : Eng := x.w.eng x.c
def Fire.now (x : Fire) : Nat := x.w.cycle
def Fire.st (x : Fire) : StageState := x.el.stage x.k
def Fire.ops (x : Fire) : PhaseState := x.st.opState x.ph

/-- The state of the stage that computes: the replica's. -/
def Fire.repSt (x : Fire) : StageState := if x.rep.elem = x.e then x.st else (x.eng.elem x.rep.elem).stage x.k

/-- The draws of the firing come from the replica's generators (R69). -/
def Fire.ctx (x : Fire) : Ctx where
  fmt := x.pc.fmt
  mode := x.pc.mode
  nbv := x.nbv
  low := x.pc.low
  arg := x.pc.arg
  guard := x.pc.guard
  sr := x.repSt.sr

/-! Operands. -/

/-- Where a token operand stands. -/
inductive Src where
  | stage (sender : Nat)
  | port (p t : Nat)
deriving DecidableEq, Repr

/-- A token a firing consumes. -/
structure Got where
  src : Src
  taken : Taken
deriving DecidableEq, Repr

def Got.tok (g : Got) : Token := g.taken.tok

/-- An operand as it is found: a register's lanes, a token, or nothing yet. -/
inductive Read where
  | reg (o : Opnd)
  | tok (g : Got)
  | wait
deriving DecidableEq, Repr

/-- The hold register as it stands at a cycle: the last write that has come due (R174, R198). -/
def StageState.holdAt (st : StageState) (now : Nat) : Payload :=
  st.holdNext.foldl (fun h w => if w.1 ≤ now then w.2 else h) st.hold

/-- Payload of the lane index at replica i (R183, R189). -/
def laneIndex (i : Nat) : Payload := payloadOf ((List.range 16).map (fun l => BitVec.ofNat 32 (16 * i + l)))

/-- The operand codes of 1 to 8 that a phase names: A, B, C, and MERGE's control port. -/
def PhaseCfg.portsNamed (p : PhaseCfg) : List Nat :=
  match p.stageOp with
  | none => []
  | some o =>
    let abc := if o.row.arity == .abc then [p.selA, p.selB, p.selC] else [p.selA, p.selB]
    let all := if o == .merge && !mergeAny p.arg then abc ++ [mergePort p.arg] else abc
    (all.map (·.toNat)).filter (fun s => 1 ≤ s && s ≤ 8)

/-- The ports that some operand of the element names (R174). -/
def ElemCfg.portsNamed (c : ElemCfg) : List Nat :=
  ((c.stages.toList.map (fun s => (s.phases.toList.map (·.portsNamed)).flatten)).flatten)

/-- Is a SCALE token the beginning of a group to the operation (R75, R195, R202)? -/
def Fire.beginsGroup (x : Fire) : Bool := !x.op.interprets || (x.op == .cvt && isScaledCode x.pc.fmt)

/-- Take from an input port (0 to 7) at a tag. -/
def Fire.readPort (x : Fire) (p t : Nat) : Read :=
  let w := (x.cfg.inPort p).tag t
  match (x.eng.pool (.grid x.e p t)).take (ltagFmt w) x.pc.fmt x.op.interprets x.beginsGroup with
  | some k => .tok ⟨.port p t, k⟩
  | none => .wait

/-- The first token a lower stage has sent that is there by now. -/
def headOf (now : Nat) (l : List (Nat × Token)) : Option Token :=
  match l with
  | (due, t) :: _ => if due ≤ now then some t else none
  | [] => none

/-- Operand p: the lowest sending stage that has a token here; at s0 the input multiplexer (R174). -/
def Fire.readPrev (x : Fire) : Read :=
  if x.k = 0 then
    let named := x.cfg.portsNamed
    match (List.range 8).find? (fun p =>
        !named.contains (p + 1) && !(x.eng.pool (.grid x.e p 0)).toks.isEmpty) with
    | some p => x.readPort p 0
    | none => .wait
  else
    match (List.range x.k).findSome? (fun j =>
        (headOf x.now ((Tbl.find x.st.inq j).getD [])).bind (fun t =>
          (takeWhole x.pc.fmt x.beginsGroup [t] 0 (Tbl.get x.st.scales none j)).map (fun q => (j, q)))) with
    | some (j, q) => .tok ⟨.stage j, q⟩
    | none => .wait

/-- Read the operand that a code selects, at a tag where it is a port (R53, R172, R189). -/
def Fire.read (x : Fire) (sel : BitVec 4) (tag : Nat) : Read :=
  match sel.toNat with
  | 0 => x.readPrev
  | 9 => .reg ⟨x.repSt.holdAt x.now, 16, false⟩
  | 10 => .reg ⟨(x.eng.cfg x.rep.elem).kregs[0], 16, false⟩
  | 11 => .reg ⟨(x.eng.cfg x.rep.elem).kregs[1], 16, false⟩
  | 12 => .reg ⟨(x.eng.cfg x.rep.elem).kregs[2], 16, false⟩
  | 13 => .reg ⟨(x.eng.cfg x.rep.elem).kregs[3], 16, false⟩
  | 14 => .reg ⟨laneIndex x.rep.index, 16, false⟩
  | 15 => .reg Opnd.zero
  | s => x.readPort (s - 1) tag

/-- Operand A: a handler's token where there is one (R172). -/
def Fire.readA (x : Fire) : Read :=
  match x.handler with
  | some (p, t) => x.readPort p t
  | none => x.read x.pc.selA 0

def Fire.readB (x : Fire) : Read := x.read x.pc.selB 0
def Fire.readC (x : Fire) : Read := x.read x.pc.selC 0

/-- The element after a token held between its stages has been taken. -/
def Elem.consume (x : Elem) (k : Nat) (g : Got) : Elem :=
  match g.src with
  | .stage j =>
    let st := x.stage k
    x.setStage k { st with
      inq := Tbl.put st.inq j (((Tbl.find st.inq j).getD []).tail), scales := Tbl.put st.scales j g.taken.scale }
  | .port _ _ => x

/-- The units of the core after a token has been taken from an input port of element `e`: its slot is free, unless the
token is only begun (R81, R170). Of two tokens that one firing takes from a tag, the second read leaves what stays, in
whatever order they are named. -/
def Eng.consume (u : Eng) (e : Nat) (g : Got) : Eng :=
  match g.src with
  | .stage _ => u
  | .port p t =>
    let q := u.pool (.grid e p t)
    if q.toks.length < g.taken.left.length then u
    else u.setPool (.grid e p t) { q with toks := g.taken.left, taken := g.taken.taken, scale := g.taken.scale }

/-- The view after an operand has been read: the next operand of the same place finds the token behind it. -/
def Fire.after (x : Fire) (r : Read) : Fire :=
  match r with
  | .tok g => { x with el := x.el.consume x.k g, w := x.w.setEng x.c ((x.w.eng x.c).consume x.e g) }
  | _ => x

/-- The operands of the operation in order A, B, C (R196). -/
def Fire.reads (x : Fire) : List Read :=
  match x.op.row.arity with
  | .reg | .a | .aOrNone => [x.readA]
  | .ab =>
    let a := x.readA
    [a, (x.after a).readB]
  | .abc =>
    let a := x.readA
    let y := x.after a
    let b := y.readB
    [a, b, (y.after b).readC]
  | .none => []

def Read.got : Read → Option Got
  | .tok g => some g
  | _ => none

def Read.missing : Read → Bool
  | .wait => true
  | _ => false

/-- The lanes of an operand. -/
def Read.opnd : Read → Opnd
  | .reg o => o
  | .tok g => Opnd.ofToken g.tok
  | .wait => Opnd.zero

/-- The memory of the bank of a memory element. -/
def bankWordAddr (c e w : Nat) : Nat := bankBase c e + 4 * w

def World.bankWord (w : World) (c e i : Nat) : BitVec 32 := BitVec.ofNat 32 (memNat w.mem (bankWordAddr c e i) 4)

/-- The tokens a list of operands consumes. -/
def gotsOf (rs : List Read) : List Got := rs.filterMap (·.got)

/-! What a firing does. -/

/-- A firing: the element with the operation's own state changed, the tokens consumed, the tokens sent with the bit of
DST each goes to, the flags raised, whether it is counted, the CFG tokens whose words apply, the bank words stored, a
curd contribution, an out-of-range address that stops the stage, a memory word that failed its check, the first token
found, the marker that passed, the draws of each lane where the operation is a conversion (R69), and whether poisoned
tokens raise POISON of the stage. -/
structure Firing where
  el : Elem
  gots : List Got
  sends : List (Nat × Token)
  flags : FlagSet
  counted : Bool
  cfgToks : List Token
  bank : List (Nat × BitVec 32)
  contrib : Option (CurdReg × Contribution)
  range : Option (BitVec 32)
  ecc : Option Nat
  aTok : Option Token
  passed : Option Token
  draws : Nat
  poisons : Bool

/-- A firing that consumes some tokens and does nothing else. -/
def Fire.base (x : Fire) (gots : List Got) : Firing where
  el := x.el
  gots := gots
  sends := []
  flags := 0
  counted := false
  cfgToks := []
  bank := []
  contrib := none
  range := none
  ecc := none
  aTok := none
  passed := none
  draws := 0
  poisons := true

/-- The destinations of a bitmap (R58). -/
def destsOf (bits : BitVec 16) : List Nat := (List.range 16).filter (fun i => bits.getLsbD i)

/-- Send a token to every destination of a bitmap. -/
def Firing.send (f : Firing) (bits : BitVec 16) (t : Token) : Firing :=
  { f with sends := f.sends ++ (destsOf bits).map (fun d => (d, t)) }

/-- Change the operation state of the phase that fires. -/
def Firing.withOps (f : Firing) (x : Fire) (p : PhaseState) : Firing :=
  { f with el := f.el.setStage x.k ((f.el.stage x.k).setOpState x.ph p) }

/-- Is a token data for this operation (R195)? -/
def Fire.isData (x : Fire) (t : Token) : Bool := t.kind == kDATA || (t.kind == kSCALE && !x.op.interprets)

/-- An ERR token of this element: lane 0 its address, lane 1 a sideband (R180, R195). -/
def Fire.err (x : Fire) (cls : BitVec 4) (sb : BitVec 24) : Token :=
  errToken cls (BitVec.ofNat 32 x.e) (sb.setWidth 32)

def clsFORMAT : BitVec 4 := 1
def clsINDEX : BitVec 4 := 2
def clsSIDEBAND : BitVec 4 := 3
def clsMEMORY : BitVec 4 := 4
def clsCONFIG : BitVec 4 := 5

/-- Is the sideband of a token malformed: the class of the ERR that takes its place (R180). -/
def malformed (t : Token) : Option (BitVec 4) :=
  let k := t.kind.toNat
  let l := t.level.toNat
  if 10 ≤ k then some 0
  else if 16 < t.valid.toNat || t.low != 0 || (t.kind == kEOD && (l == 0 || 9 ≤ l)) ||
      (l != 0 && (t.kind == kDATA || t.kind == kEOT || t.kind == kEOS || t.kind == kCFG || t.kind == kPRESS)) ||
      (t.kind == kTHR && 3 < l) then some clsSIDEBAND
  else none

/-- A SCALE token at an interpreting stage other than CVT stands as an ERR of class FORMAT (R195). -/
def Fire.seen (x : Fire) (t : Token) : Token :=
  if t.kind == kSCALE && x.op.interprets && x.op != .cvt then x.err clsFORMAT t.sideband else t

/-- The lowest-coded ERR among tokens in operand order. -/
def firstErr (ts : List Token) : Option Token := ts.find? (·.kind == kERR)

/-- Markers and messages that pass when every operand offers the same (R195). -/
def passes (t : Token) : Bool := t.isMarker || t.kind == kTHR || t.kind == kCTRL

def allSame (ts : List Token) : Bool :=
  match ts with
  | [] => true
  | a :: rest => rest.all (fun b => b.kind == a.kind && b.level == a.level)

/-- CFG tokens that a stage takes: those that come from an input port get a number in the element, which their copies
keep (R186). -/
def Elem.numbered (x : Elem) (ts : List Token) : List Token :=
  ts.zipIdx.map (fun q => if q.1.cfgId = 0 then { q.1 with cfgId := x.cfgSeq + 1 + q.2 } else q.1)

/-- Take CFG tokens: their words apply, and the first is sent to `bits`. -/
def Firing.takeCfg (f : Firing) (ts : List Token) (bits : BitVec 16) : Firing :=
  let ns := f.el.numbered ts
  let f := { f with el := { f.el with cfgSeq := f.el.cfgSeq + ts.length }, cfgToks := ns }
  match ns with
  | [] => f
  | a :: _ => f.send bits a

/-- The rows of R195 and R234 for tokens that are not all DATA, sent to `bits`. A CFG token that faces another kind is
the last row. -/
def Fire.nonData (x : Fire) (gots : List Got) (bits : BitVec 16) : Firing :=
  let ts := gots.map (fun g => x.seen g.tok)
  let f := { x.base gots with aTok := ts.head? }
  match ts with
  | [] => f
  | a :: _ =>
    let side : Firing := { f.send bits (x.err clsSIDEBAND a.sideband) with flags := flagPoison }
    if ts.all (·.kind == kCFG) then f.takeCfg ts bits
    else if ts.any (·.kind == kCFG) then side
    else
      match firstErr ts with
      | some e => { f.send bits { e with p := true } with flags := flagPoison }
      | none =>
        if ts.all passes && allSame ts then
          let m : Token := { a with p := ts.any (·.p) }
          { f.send bits m with passed := some m }
        else side

/-- The standard firing (R195): wait for every token operand, compute when all are DATA. -/
def Fire.standard (x : Fire) (compute : List Read → Firing → Firing) : Option Firing :=
  let rs := x.reads
  if rs.any (·.missing) then none
  else
    let gots := gotsOf rs
    if gots.all (fun g => x.isData g.tok) then
      let f := { x.base gots with
        aTok := (gots.head?).map (·.tok)
        counted := gots.isEmpty || gots.any (fun g => g.tok.kind == kDATA) }
      some (compute rs f)
    else some (x.nonData gots x.pc.dst)

/-- A DATA token of a computed result, P the OR of the tokens consumed (R191). -/
def Fire.result (_ : Fire) (gots : List Got) (r : Result) : Token :=
  { plainToken kDATA with
    valid := BitVec.ofNat 5 r.valid, p := gots.any (·.tok.p), data := r.data }

/-- INV where an operand's lane of a 6-bit format has bits [31:30] set, of the lanes that operand A holds (R63). -/
def sixBitRead (fmt : BitVec 4) (a o : Opnd) : FlagSet := sixBitFlag fmt o.data (min a.valid o.valid)

/-- The result of an element-wise or lane operation on A, B and C. -/
def Fire.compute (x : Fire) (f : Opnd → Opnd → Opnd → Result) : Option Firing :=
  x.standard (fun rs fr =>
    let o (i : Nat) : Opnd := (rs.getD i (.reg Opnd.zero)).opnd
    let r := f (o 0) (o 1) (o 2)
    let fmt := x.pc.fmt
    { fr.send x.pc.dst (x.result fr.gots { r with data := sixBitClean fmt r.data }) with
      flags := r.flags ||| sixBitRead fmt (o 0) (o 0) ||| sixBitRead fmt (o 0) (o 1) ||| sixBitRead fmt (o 0) (o 2) })

end Sys2Proof.Machine
end

