-- ==== Sys2Proof/Machine/Flags.lean ====
section
/-! DEFINITION. Sticky flags: a stage's own (R192), the first element that raised each in a vat, and the words of VSTAT
that show them (R260). The flags of the arithmetic itself are computed beside it, in Num; those of a curd register in
Curd. -/

namespace Sys2Proof.Machine

/-- Sticky flags of a stage. -/
def StageState.raise (st : StageState) (fl : FlagSet) : StageState := { st with flags := st.flags ||| fl }

/-- The address recorded for one flag: the first that raised it, the lowest of one cycle (R260). -/
def firstAddr (old : BitVec 10) (oldAt : Nat) (addr now : Nat) : BitVec 10 :=
  if old == 0x3FF || (oldAt == now && addr < old.toNat) then BitVec.ofNat 10 addr else old

/-- Record flags of the element at `addr` in its vat. -/
def Vat.record (v : Vat) (fl : FlagSet) (addr now : Nat) : Vat :=
  { v with
    firstFlag := Vector.ofFn (fun (i : Fin 6) =>
      if fl.getLsbD i.val then firstAddr (v.firstFlag.get i) (v.firstAt.get i) addr now else v.firstFlag.get i)
    firstAt := Vector.ofFn (fun (i : Fin 6) =>
      if fl.getLsbD i.val && v.firstFlag.get i == 0x3FF then now else v.firstAt.get i) }

/-- Raise flags of stage `k` of element `e`, a stage of vat `v`. -/
def Eng.raiseStage (g : Eng) (v e k : Nat) (fl : FlagSet) (now : Nat) : Eng :=
  if fl = 0 then g
  else
    let x := g.elem e
    (g.setElem e (x.setStage k ((x.stage k).raise fl))).setVat v ((g.vat v).record fl e now)

/-- The OR of the flags of the stages of a vat's rectangle. -/
def Eng.flagsOf (g : Eng) (v : Vat) : FlagSet :=
  g.elems.foldl (fun fl p => if v.has p.1 then p.2.stages.toList.foldl (fun f st => f ||| st.flags) fl else fl) 0

/-- VSTAT word 1 (R260). -/
def Vat.flagWord (v : Vat) : Word :=
  (v.firstFlag.get 5 ++ v.firstFlag.get 4 ++ v.firstFlag.get 3 ++ v.firstFlag.get 2 ++ v.firstFlag.get 1 ++
    v.firstFlag.get 0).setWidth 64

end Sys2Proof.Machine
end

