-- ==== Sys2Proof/Machine/StageFloat.lean ====
section
/-! DEFINITION. What one firing of each floating operation and each conversion does (R201 to R203, R224). -/

namespace Sys2Proof.Machine

def planFadd (x : Fire) : Option Firing := x.compute (opFadd x.ctx)
def planFsub (x : Fire) : Option Firing := x.compute (opFsub x.ctx)
def planFmul (x : Fire) : Option Firing := x.compute (opFmul x.ctx)
def planFma (x : Fire) : Option Firing := x.compute (opFma x.ctx)
def planFnma (x : Fire) : Option Firing := x.compute (opFnma x.ctx)
def planFmin (x : Fire) : Option Firing := x.compute (opFmin x.ctx)
def planFmax (x : Fire) : Option Firing := x.compute (opFmax x.ctx)
def planFabs (x : Fire) : Option Firing := x.compute (opFabs x.ctx)
def planFneg (x : Fire) : Option Firing := x.compute (opFneg x.ctx)
def planFcmp (x : Fire) : Option Firing := x.compute (opFcmp x.ctx)
def planFclamp (x : Fire) : Option Firing := x.compute (opFclamp x.ctx)
def planRcp (x : Fire) : Option Firing := x.compute (opSpecial .rcp x.ctx)
def planRsq (x : Fire) : Option Firing := x.compute (opSpecial .rsq x.ctx)
def planSqrt (x : Fire) : Option Firing := x.compute (opSpecial .sqrt x.ctx)
def planExp2 (x : Fire) : Option Firing := x.compute (opSpecial (.trans .exp2) x.ctx)
def planLog2 (x : Fire) : Option Firing := x.compute (opSpecial (.trans .log2) x.ctx)
def planExp (x : Fire) : Option Firing := x.compute (opSpecial (.trans .exp) x.ctx)
def planLog (x : Fire) : Option Firing := x.compute (opSpecial (.trans .log) x.ctx)
def planTanh (x : Fire) : Option Firing := x.compute (opSpecial (.trans .tanh) x.ctx)
def planSigm (x : Fire) : Option Firing := x.compute (opSpecial (.trans .sigm) x.ctx)
def planRint (x : Fire) : Option Firing := x.compute (opRint x.ctx)

/-! Conversions (R202, R203). -/

/-- Convert the elements of one result token; element i takes the draw of its slot (R69). -/
def convResult (ctx : Ctx) (target : BitVec 4) (es : List SrcElem) : Token × FlagSet :=
  let k := perLane target
  let rs := es.zipIdx.map (fun q => convElem target ctx.mode ctx.nbv (ctx.draw (q.2 / k) (q.2 % k)) q.1)
  (packToken target (rs.map (·.1)) false (es.any (·.p)), rs.foldl (fun f r => f ||| r.2) 0)

/-- The elements of a token of operand A, with the power of two each is multiplied by: 2^(sign × s), s the signed low
byte of B's lane (R203). -/
def shiftedElems (fmt : BitVec 4) (sign : Int) (b : Payload) (es : List SrcElem) : List SrcElem :=
  let k := perLane fmt
  es.zipIdx.map (fun q => { q.1 with shift := sign * ((lane b (q.2 / k)).extractLsb' 0 8).toInt })

/-- Send one result token of the buffered elements. -/
def Fire.sendConv (x : Fire) (f : Firing) (p : PhaseState) (es rest : List SrcElem) (more : List Token) : Firing :=
  let (t, fl) := convResult x.ctx x.pc.resFmt es
  { (f.send x.pc.dst t).withOps x { p with elems := rest, out := p.out ++ more } with
    flags := f.flags ||| fl, draws := perLane x.pc.resFmt, counted := !x.owed }

/-- Do result tokens hold as many elements as operand tokens? Then there is nothing to repack: each operand token's
elements make one result token (R202, R269; log 34). -/
def PhaseCfg.sameWidth (p : PhaseCfg) : Bool := perLane p.fmt == perLane p.resFmt

/-- Take an input token into the buffer, sending at most one result token. Its elements stand under the scales of the place
it comes from. `scales` says that the stage starts block scale groups (CVT); `sign` is the sign of the shift. -/
def Fire.takeConv (x : Fire) (scales : Bool) (sign : Int) : Option Firing :=
  let p := x.ops
  let need := fullToken x.pc.resFmt
  let rs := x.reads
  if rs.any (·.missing) then none
  else
    let gots := gotsOf rs
    let f := { x.base gots with aTok := (gots.head?).map (fun (g : Got) => g.tok) }
    let a := (rs.getD 0 (.reg Opnd.zero)).opnd
    let b := (rs.getD 1 (.reg Opnd.zero)).opnd
    if gots.all (fun g => g.tok.kind == kDATA) then
      let t : Token := { plainToken kDATA with
        valid := BitVec.ofNat 5 a.valid, p := gots.any (fun g => g.tok.p), data := a.data }
      let under := ((rs.getD 0 .wait).got).bind (fun g => g.taken.under)
      let es := p.elems ++ shiftedElems x.pc.fmt sign b.masked (srcElems x.pc.fmt under t)
      let p := { p with elems := es }
      let f := { f with flags := sixBitFlag x.pc.fmt t.data t.valid.toNat }
      if es.length ≥ need || (x.pc.sameWidth && !es.isEmpty) then
        some (x.sendConv f p (es.take need) (es.drop need) [])
      else some (f.withOps x p)
    else if scales && gots.all (fun g => g.tok.kind == kSCALE) && isScaledCode x.pc.fmt then some f
    else
      let gots' : List Got := gots.map (fun (g : Got) =>
        if g.tok.kind == kSCALE then
          { g with taken := { g.taken with tok := x.err clsFORMAT g.tok.sideband } } else g)
      let n := x.nonData gots' 1
      let out := n.sends.map (·.2)
      if p.elems.isEmpty then
        some { (out.foldl (fun (f : Firing) t => f.send x.pc.dst t) { n with sends := [], gots := gots }).withOps x p with
          flags := n.flags }
      else
        some { x.sendConv { n with sends := [], gots := gots } p p.elems [] out with flags := n.flags |||
          (convResult x.ctx x.pc.resFmt p.elems).2 }

/-- A conversion stage (R202, R203, R224): first what is owed, then a full token of the buffer, then new input. -/
def Fire.convert (x : Fire) (scales : Bool) (sign : Int) : Option Firing :=
  let p := x.ops
  let need := fullToken x.pc.resFmt
  match p.out with
  | t :: rest => some ((x.base []).send x.pc.dst t |>.withOps x { p with out := rest })
  | [] =>
    if p.elems.length ≥ need then some (x.sendConv (x.base []) p (p.elems.take need) (p.elems.drop need) [])
    else if x.owed then
      if p.elems.isEmpty then none else some (x.sendConv (x.base []) p p.elems [] [])
    else x.takeConv scales sign

def planCvt (x : Fire) : Option Firing := x.convert true 0
def planFtoi (x : Fire) : Option Firing := x.convert false 1
def planItof (x : Fire) : Option Firing := x.convert false (-1)

end Sys2Proof.Machine
end

