-- ==== Sys2Proof/Machine/StageInt.lean ====
section
/-! DEFINITION. What one firing of each integer operation does (R199, R200). -/

namespace Sys2Proof.Machine

def planIadd (x : Fire) : Option Firing := x.compute (opIadd x.ctx)
def planIsub (x : Fire) : Option Firing := x.compute (opIsub x.ctx)
def planImul (x : Fire) : Option Firing := x.compute (opImul x.ctx)
def planImulh (x : Fire) : Option Firing := x.compute (opImulh x.ctx)
def planImac (x : Fire) : Option Firing := x.compute (opImac x.ctx)
def planIneg (x : Fire) : Option Firing := x.compute (opIneg x.ctx)
def planIabs (x : Fire) : Option Firing := x.compute (opIabs x.ctx)
def planImin (x : Fire) : Option Firing := x.compute (opImin x.ctx)
def planImax (x : Fire) : Option Firing := x.compute (opImax x.ctx)
def planIsadd (x : Fire) : Option Firing := x.compute (opIsadd x.ctx)
def planIssub (x : Fire) : Option Firing := x.compute (opIssub x.ctx)
def planIclamp (x : Fire) : Option Firing := x.compute (opIclamp x.ctx)
def planStageAnd (x : Fire) : Option Firing := x.compute (opStageAnd x.ctx)
def planStageOr (x : Fire) : Option Firing := x.compute (opStageOr x.ctx)
def planStageXor (x : Fire) : Option Firing := x.compute (opStageXor x.ctx)
def planStageNot (x : Fire) : Option Firing := x.compute (opStageNot x.ctx)
def planStageShl (x : Fire) : Option Firing := x.compute (opStageShl x.ctx)
def planStageShr (x : Fire) : Option Firing := x.compute (opStageShr x.ctx)
def planStageSar (x : Fire) : Option Firing := x.compute (opStageSar x.ctx)
def planIcmp (x : Fire) : Option Firing := x.compute (opIcmp x.ctx)
def planSel (x : Fire) : Option Firing := x.compute (opSel x.ctx)
def planIdot4 (x : Fire) : Option Firing := x.compute (opIdot4 x.ctx)
def planIdot2 (x : Fire) : Option Firing := x.compute (opIdot2 x.ctx)

end Sys2Proof.Machine
end

