-- ==== Sys2Proof/Machine/StageLane.lean ====
section
/-! DEFINITION. What one firing of each lane operation and of PRUNE does (R204 to R207, R218). -/

namespace Sys2Proof.Machine

def planLsum (x : Fire) : Option Firing := x.compute (fun a _ _ => opLsum x.ctx a)
def planLmax (x : Fire) : Option Firing := x.compute (fun a _ _ => opLext true x.ctx a)
def planLmin (x : Fire) : Option Firing := x.compute (fun a _ _ => opLext false x.ctx a)
def planShuf (x : Fire) : Option Firing := x.compute (fun a b _ => opShuf a b)
def planBcast (x : Fire) : Option Firing := x.compute (fun a _ _ => opBcast (x.pc.arg.extractLsb' 0 4).toNat a)
def planLrot (x : Fire) : Option Firing := x.compute (fun a _ _ => opLrot (x.pc.arg.extractLsb' 0 4).toNat a)

/-- Forget the carry where an EOT, EOD or EOS passes (R205, R206). -/
def Fire.clearCarry (x : Fire) (f : Firing) : Firing :=
  if f.passed.any (·.isMarker) then f.withOps x { x.ops with carry := none } else f

/-- An operation that carries a value from token to token where MOD[0] is set. -/
def Fire.carried (x : Fire) (init : Nat) (op : Nat → Opnd → Opnd → Result × Nat) : Option Firing :=
  let keep := x.pc.low.getLsbD 0
  (x.standard (fun rs f =>
    let o (i : Nat) : Opnd := (rs.getD i (.reg Opnd.zero)).opnd
    let (r, c) := op (if keep then x.ops.carry.getD init else init) (o 0) (o 1)
    let f := { f.send x.pc.dst (x.result f.gots r) with flags := r.flags }
    if keep then f.withOps x { x.ops with carry := some c } else f)).map x.clearCarry

/-- LSCAN (R205). -/
def planLscan (x : Fire) : Option Firing := x.carried 0 (fun c a _ => opLscan x.ctx c a)

/-- The initial value of LREC (R206): +0, 1.0, or lane 15 of the hold register. -/
def lrecInit (x : Fire) : Nat :=
  match (x.pc.low.extractLsb' 1 2).toNat with
  | 0 => 0
  | 1 => 0x3F800000
  | _ => (lane (x.repSt.holdAt x.now) 15).toNat

/-- LREC (R206). -/
def planLrec (x : Fire) : Option Firing := x.carried (lrecInit x) (fun c a b => opLrec x.ctx c a b)

/-! PRUNE (R218). -/

/-- Does element `p` rank above element `q` of one format, by magnitude; a NaN above all? -/
def ranksAbove (fmt : BitVec 4) (p q : Nat) : Bool :=
  match fmtOfCode fmt with
  | .int w => (patInt w q).natAbs < (patInt w p).natAbs
  | .float f =>
    let a := decodeFloat f p
    let b := decodeFloat f q
    if a.isNan then !b.isNan else if b.isNan then false else b.abs.cmp a.abs == -1

/-- The indices of a group that are kept: those that fewer than `n` others beat; a tie goes to the lower index. -/
def keptIn (fmt : BitVec 4) (n : Nat) (g : List Nat) : List Bool :=
  g.zipIdx.map (fun q =>
    (g.zipIdx.filter (fun r => ranksAbove fmt r.1 q.1 || (!ranksAbove fmt q.1 r.1 && r.2 < q.2))).length < n)

/-- Groups of `m` elements; the last may be short. -/
def groupsOf (m : Nat) : Nat → List Nat → List (List Nat)
  | 0, _ => []
  | _, [] => []
  | fuel + 1, es => es.take m :: groupsOf m fuel (es.drop m)

/-- The keep bits of a list of elements. -/
def keepBits (fmt : BitVec 4) (n m : Nat) (es : List Nat) : List Bool :=
  ((groupsOf m es.length es).map (keptIn fmt n)).flatten

/-- Bits as lanes, lane 0 bit 0 first. -/
def bitLanes (bs : List Bool) : List (BitVec 32) :=
  (List.range ((bs.length + 31) / 32)).map (fun i =>
    BitVec.ofNat 32 ((((bs.drop (32 * i)).take 32).zipIdx.map (fun b => if b.1 then 2 ^ b.2 else 0)).sum))

/-- The destinations of PRUNE's markers: DST and the metadata port. -/
def pruneAll (x : Fire) : BitVec 16 := x.pc.dst ||| (1 <<< (7 + prunePort x.pc.arg))

def prunePack (fmt : BitVec 4) (es : List SrcElem) : Token := packToken fmt (es.map (·.pat)) false (es.any (·.p))

/-- PRUNE (R218): a DATA token gives its metadata, and a token of kept elements once one is full; whatever else comes is
sent after the elements kept so far. -/
def planPrune (x : Fire) : Option Firing :=
  let p := x.ops
  let fmt := x.pc.fmt
  match p.out with
  | t :: rest => some ((x.base []).send (pruneAll x) t |>.withOps x { p with out := rest })
  | [] =>
    if x.owed then none
    else
      match x.readA with
      | .wait => none
      | r =>
        let gots := gotsOf [r]
        let o := r.opnd
        if gots.all (fun g => x.isData g.tok) then
          let es := o.elems fmt
          let bits := keepBits fmt (pruneN x.pc.arg) (pruneM x.pc.arg) es
          let ls := bitLanes bits
          let info : Token := { plainToken kDATA with
            valid := BitVec.ofNat 5 ls.length, p := o.p, data := payloadOf ls }
          let kept := p.elems ++ ((es.zip bits).filter (·.2)).map (fun q => ⟨q.1, fmt, none, o.p, false, 0, false⟩)
          let need := fullToken fmt
          let f := { x.base gots with counted := true, aTok := (gots.head?).map (fun (g : Got) => g.tok) }
          let f := f.send (1 <<< (7 + prunePort x.pc.arg)) info
          if kept.length ≥ need then
            some ((f.send x.pc.dst (prunePack fmt (kept.take need))).withOps x { p with elems := kept.drop need })
          else some (f.withOps x { p with elems := kept })
        else
          let n := x.nonData gots (pruneAll x)
          if p.elems.isEmpty then some n
          else
            let t := (n.sends.head?).map (·.2)
            some (({ n with sends := [] }.send x.pc.dst (prunePack fmt p.elems)).withOps x
              { p with elems := [], out := t.toList })

end Sys2Proof.Machine
end

