-- ==== Sys2Proof/Machine/Curd.lean ====
section
/-! DEFINITION. Curd registers: declaration records, contributions, folds (R87 to R121). The instructions are in
CurdOps. -/

namespace Sys2Proof.Machine

/-! Partial values. -/

def PVal.zero : PVal := ⟨0, 0⟩
def PVal.ofPat (p : Nat) : PVal := ⟨0, BitVec.ofNat 320 p⟩
def PVal.pat (v : PVal) : Nat := v.bits.toNat
def PVal.ofXP (x : XP) : PVal := ⟨x.tag, x.int⟩
def PVal.xp (v : PVal) : XP := ⟨v.tag, v.bits⟩
/-- An AFF pair: a in the low 32 bits, b above it. -/
def PVal.ofPair (a b : Nat) : PVal := ⟨0, BitVec.ofNat 320 (a + b * 2 ^ 32)⟩
def PVal.fst (v : PVal) : Nat := v.pat % 2 ^ 32
def PVal.snd (v : PVal) : Nat := v.pat / 2 ^ 32 % 2 ^ 32

def Partial.empty : Partial where
  vals := Vector.replicate 16 PVal.zero
  present := 0
  closed := false
  pending := none
  flags := 0
  entries := 0

/-- An undeclared register (R88). -/
def Curd.undeclared : Curd where
  decl := 0
  binds := Vector.replicate 8 0
  gen := 0
  parts := Vector.replicate 8 Partial.empty
  arose := 0
  first := Vector.replicate 6 0
  src := 0
  cputs := 0

def Curd.declared (c : Curd) : Bool := c.gen != 0

/-! Declaration fields (R90). -/

def Curd.op (c : Curd) : Nat := (c.decl.extractLsb' 0 8).toNat
def Curd.fmtCode (c : Curd) : BitVec 4 := c.decl.extractLsb' 8 4
def Curd.acc (c : Curd) : Bool := c.decl.getLsbD 12
def Curd.rnd (c : Curd) : RMode := rmodeOf (c.decl.extractLsb' 13 3)
def Curd.mask (c : Curd) : BitVec 8 := c.decl.extractLsb' 16 8
def Curd.fmt (c : Curd) : NumFmt := fmtOfCode c.fmtCode

def opADDO : Nat := 0
def opADDX : Nat := 1
def opIADD : Nat := 2
def opSADD : Nat := 3
def opMAX : Nat := 4
def opMIN : Nat := 5
def opAND : Nat := 6
def opOR : Nat := 7
def opXOR : Nat := 8
def opFIRST : Nat := 9
def opAFF : Nat := 10

/-- The accumulator format of ADDO (R90 ACC, R96). -/
def Curd.accFmt (c : Curd) : FloatFmt := if c.acc then f32Fmt else fa48Fmt

/-- Does the register keep XP320 partials (R96)? -/
def Curd.isXP (c : Curd) : Bool := c.op == opADDX || c.op == opSADD

def Curd.isAff (c : Curd) : Bool := c.op == opAFF

/-- Operators that move bit patterns (R96). -/
def Curd.isBits (c : Curd) : Bool := c.op == opAND || c.op == opOR || c.op == opXOR || c.op == opFIRST

/-- Element size in an image, in bytes (R91). -/
def Curd.elemSize (c : Curd) : Nat := if c.isAff then 4 else c.fmt.width / 8

/-- Number of elements: sixteen, or eight pairs under AFF. -/
def Curd.numElems (c : Curd) : Nat := if c.isAff then 8 else 16

/-! The record checks of CDECL (R93): the byte offset of the first field found wrong. -/

/-- Is FMT allowed for OP (R91)? -/
def fmtAllowed (op fmt : Nat) : Bool :=
  let floats := [1, 2, 3]
  let ints := [0, 11, 9]
  if op ≤ 1 then floats.contains fmt
  else if op ≤ 3 then ints.contains fmt
  else if op ≤ 9 then floats.contains fmt || ints.contains fmt
  else op == 10 && fmt == 1

/-- Is a binding word legal by itself (R92, R93)? -/
def bindOk (b : BitVec 16) : Bool :=
  let u := b.extractLsb' 0 12
  match (b.extractLsb' 12 4).toNat with
  | 0 => u == 0
  | 1 => u.extractLsb' 7 5 == 0 && isCe (u.extractLsb' 0 7)
  | 2 => u.extractLsb' 5 7 == 0
  | 3 => u.extractLsb' 2 10 == 0
  | 4 => u.extractLsb' 3 9 == 0
  | 5 => u == 0
  | _ => false

def bindKind (b : BitVec 16) : BitVec 4 := b.extractLsb' 12 4

/-- The set of bound positions. -/
def boundSet (bs : List (BitVec 16)) : BitVec 8 :=
  BitVec.ofNat 8 ((bs.zipIdx.map (fun p => if bindKind p.1 != 0 then 2 ^ p.2 else 0)).sum)

/-- The first binding word found wrong: illegal by itself, or naming a unit a lower position names. -/
def badBind : List (BitVec 16) → List (BitVec 16) → Nat → Option Nat
  | _, [], _ => none
  | seen, b :: t, j =>
    if !bindOk b || (bindKind b != 0 && seen.contains b) then some (8 + 2 * j) else badBind (seen ++ [b]) t (j + 1)

/-- R93: the offset of the first field found wrong in a record of its four doublewords. -/
def recordError (w0 : Word) (bs : List (BitVec 16)) (w3 : Word) : Option Nat :=
  let op := bitsNat8 w0 0
  let fmt := (w0.extractLsb' 8 4).toNat
  let acc := w0.getLsbD 12
  let rnd := (w0.extractLsb' 13 3).toNat
  let mask := w0.extractLsb' 16 8
  if op > 10 then some 0
  else if !fmtAllowed op fmt || (acc && op != 0) || rnd > 4 then some 1
  else if mask == 0 || mask != boundSet bs then some 2
  else if w0.extractLsb' 24 40 != 0 then some 3
  else
    match badBind [] bs 0 with
    | some o => some o
    | none => if w3 != 0 then some 24 else none
where
  bitsNat8 (w : Word) (lo : Nat) : Nat := (w.extractLsb' lo 8).toNat

/-- The register a record declares (R110, CDECL). -/
def Curd.declare (w0 : Word) (bs : Vector (BitVec 16) 8) : Curd :=
  { Curd.undeclared with decl := w0.setWidth 24, binds := bs, gen := 1 }

/-! Combining (R96). -/

/-- Combine(acc, x), with the draws of the two components (R99). -/
def Curd.combine (c : Curd) (d0 d1 : Nat) (a x : PVal) : PVal × FlagSet :=
  let op := c.op
  if op = opADDO then
    let f := c.accFmt
    let u := decodeFloat f a.pat
    let v := decodeFloat f x.pat
    let (s, fl) := exactSum [u, v] c.rnd
    let (p, fl') := round (.float f) c.rnd d0 s
    (.ofPat p, fl ||| fl' ||| flagIf (u.isSignalling || v.isSignalling) flagInv)
  else if c.isXP then
    let (s, fl) := xpAdd a.xp x.xp
    (.ofXP s, fl)
  else if op = opIADD then
    let w := c.fmt.width
    let (p, fl) := wrapInt w (patInt w a.pat + patInt w x.pat)
    (.ofPat p, fl)
  else if op = opMAX then (.ofPat (maxPatN c.fmt a.pat x.pat), signallingFlag c.fmt [a.pat, x.pat])
  else if op = opMIN then (.ofPat (minPatN c.fmt a.pat x.pat), signallingFlag c.fmt [a.pat, x.pat])
  else if op = opAND then (⟨0, a.bits &&& x.bits⟩, 0)
  else if op = opOR then (⟨0, a.bits ||| x.bits⟩, 0)
  else if op = opXOR then (⟨0, a.bits ^^^ x.bits⟩, 0)
  else if op = opAFF then
    let a1 := decodeFloat f32Fmt a.fst
    let b1 := decodeFloat f32Fmt a.snd
    let a2 := decodeFloat f32Fmt x.fst
    let b2 := decodeFloat f32Fmt x.snd
    let (pa, f1) := a2.mul a1
    let (ra, f2) := round (.float f32Fmt) c.rnd d0 pa
    let (pb, f3) := a2.mul b1
    let (sb, f4) := exactSum [pb, b2] c.rnd
    let (rb, f5) := round (.float f32Fmt) c.rnd d1 sb
    (.ofPair ra rb, f1 ||| f2 ||| f3 ||| f4 ||| f5 |||
      signallingFlag (.float f32Fmt) [a.fst, a.snd, x.fst, x.snd])
  else (a, 0)

/-- Final(acc) (R96): the bits read. -/
def Curd.final (c : Curd) (d0 : Nat) (a : PVal) : Nat × FlagSet :=
  if c.op = opADDO then
    let v := decodeFloat c.accFmt a.pat
    let (p, fl) := round c.fmt c.rnd d0 v
    (p, fl ||| flagIf v.isSignalling flagInv)
  else if c.isXP then xpRead c.fmt c.rnd d0 a.xp
  else if c.isAff then (a.fst + a.snd * 2 ^ 32, 0)
  else (a.pat, 0)

/-- The empty fold (R96). -/
def Curd.emptyFold (c : Curd) : Nat :=
  let op := c.op
  if op = opMAX then
    match c.fmt with
    | .int w => intPat w (intMin w)
    | .float f => f.signPat true + f.infPat
  else if op = opMIN then
    match c.fmt with
    | .int w => intPat w (intMax w)
    | .float f => f.infPat
  else if op = opAND then 2 ^ c.fmt.width - 1
  else if op = opAFF then 0x3F800000
  else 0

/-! Entry (R96, R97). -/

/-- Widen an element of FMT into the partial representation (R96). -/
def Curd.widen (c : Curd) (p : Nat) : PVal × FlagSet :=
  if c.op = opADDO then
    let v := exactOf c.fmt p
    let (q, fl) := round (.float c.accFmt) .rne 0 v
    (.ofPat q, fl ||| flagIf v.isSignalling flagInv)
  else if c.isXP then
    let v := exactOf c.fmt p
    let (x, fl) := toXP v
    (.ofXP x, fl ||| flagIf v.isSignalling flagInv)
  else (.ofPat p, 0)

/-- Round(Exact(lane, contribution format), FMT, RND) (R96). -/
def Curd.convertLane (c : Curd) (fmtS : BitVec 4) (draw : Nat) (l : BitVec 32) : Nat × FlagSet :=
  let (v, f1) := exact (fmtOfCode fmtS) none l.toNat
  let (p, f2) := round c.fmt c.rnd draw v
  (p, f1 ||| f2)

/-- EntryValue (R97) of element `e`: from one lane, or from a pair of lanes under AFF. -/
def Curd.entryValue (c : Curd) (k : Contribution) (e d0 d1 : Nat) : PVal × FlagSet :=
  if c.isAff then
    let la := lane k.data (2 * e)
    let lb := lane k.data (2 * e + 1)
    if k.exactIn then (.ofPair la.toNat lb.toNat, 0)
    else
      let (a, f1) := c.convertLane k.fmt d0 la
      let (b, f2) := c.convertLane k.fmt d1 lb
      (.ofPair a b, f1 ||| f2)
  else
    let l := lane k.data e
    if c.isBits then (.ofPat (l.toNat % 2 ^ c.fmt.width), 0)
    else if k.exactIn then c.widen (l.toNat % 2 ^ c.fmt.width)
    else
      let (p, f1) := c.convertLane k.fmt d0 l
      let (v, f2) := c.widen p
      (v, f1 ||| f2)

/-- Does element `e` take part in a contribution (R96, R97)? -/
def Curd.takesPart (c : Curd) (k : Contribution) (e : Nat) : Bool :=
  if c.isAff then e < 8 && k.valid.getLsbD (2 * e) && k.valid.getLsbD (2 * e + 1) else k.valid.getLsbD e

/-- The two draws of a rounding (R99): the second is the next step of the generator. -/
def draws (g e u : Nat) : Nat × Nat :=
  let x := cdraw g e u
  (x.toNat, (xorshift x).toNat)

/-- One element of Enter (R97); `u` is the use number of the entry. -/
def Curd.enterElem (c : Curd) (k : Contribution) (u e : Nat) (p : Partial) : Partial :=
  if h : e < 16 then
    if c.takesPart k e then
      let (d0, d1) := draws c.gen.toNat e u
      let (x, f1) := c.entryValue k e d0 d1
      if p.present.getLsbD e then
        let (v, f2) := c.combine d0 d1 (p.vals[e]) x
        { p with vals := p.vals.set e v, flags := p.flags ||| f1 ||| f2 }
      else { p with vals := p.vals.set e x, present := p.present ||| (1 <<< e), flags := p.flags ||| f1 }
    else p
  else p

/-- Enter into an open partial (R97). -/
def Curd.enterOpen (c : Curd) (k : Contribution) (u : Nat) (p : Partial) : Partial :=
  let p := (List.range 16).foldl (fun p e => c.enterElem k u e p) p
  { p with
    flags := p.flags ||| flagIf k.p flagPoison
    entries := p.entries + 1
    closed := p.closed || k.close }

def Curd.part (c : Curd) (j : Fin 8) : Partial := c.parts.get j

def Curd.setPart (c : Curd) (j : Fin 8) (p : Partial) : Curd := { c with parts := c.parts.set j.val p j.isLt }

/-- The use number of the next entry into position `j` (R99). -/
def Curd.entryUse (c : Curd) (j : Fin 8) : Nat := 0x10 + 8 * (c.part j).entries.toNat + j.val

/-- Enter (R97): into the partial, or into the pending slot of a closed one. -/
def Curd.enter (c : Curd) (j : Fin 8) (k : Contribution) : Curd :=
  let p := c.part j
  if p.closed then c.setPart j { p with pending := some k }
  else c.setPart j (c.enterOpen k (c.entryUse j) p)

/-- Can position `j` take a contribution: open, or closed with its pending slot free (R95)? -/
def Curd.hasRoom (c : Curd) (j : Fin 8) : Bool := !(c.part j).closed || (c.part j).pending.isNone

/-- The position a unit is bound to (R92, R94). -/
def Curd.position (c : Curd) (unit : BitVec 16) : Option (Fin 8) :=
  (List.finRange 8).find? (fun j => bindKind (c.binds.get j) != 0 && c.binds.get j == unit)

/-- The position of a declared register that a unit is bound to (R94). -/
def Curd.bound (c : Curd) (unit : BitVec 16) : Option (Fin 8) := if c.declared then c.position unit else none

/-- Binding words of the units (R92). -/
def bindCe (e : BitVec 7) : BitVec 16 := (1 : BitVec 4) ++ (0 : BitVec 5) ++ e
def bindStream (s : BitVec 5) : BitVec 16 := (2 : BitVec 4) ++ (0 : BitVec 7) ++ s
def bindNode (n : BitVec 2) : BitVec 16 := (3 : BitVec 4) ++ (0 : BitVec 10) ++ n
def bindPort (p : BitVec 3) : BitVec 16 := (4 : BitVec 4) ++ (0 : BitVec 9) ++ p
def bindCp : BitVec 16 := 0x5000

/-- A contribution of a token's valid lanes (R120). -/
def contribOf (d : Payload) (valid : Nat) (fmt : BitVec 4) (close p : Bool) : Contribution where
  data := d
  valid := BitVec.ofNat 16 (2 ^ valid - 1)
  fmt := fmt
  exactIn := false
  close := close
  p := p

/-- A contribution of no lanes. -/
def contribEmpty (fmt : BitVec 4) (close p : Bool) : Contribution := contribOf 0 0 fmt close p

/-! The combine record (R101). -/

/-- Record flags raised at a position: each flag keeps the lowest position. -/
def Curd.record (c : Curd) (fl : FlagSet) (j : Nat) : Curd :=
  { c with
    arose := c.arose ||| fl
    first := Vector.ofFn (fun (i : Fin 6) =>
      let old := c.first.get i
      if fl.getLsbD i.val then
        (if c.arose.getLsbD i.val && old.toNat ≤ j then old else BitVec.ofNat 3 j)
      else old) }

/-! Folding (R98). -/

/-- The fold of one element over positions still to come: the value so far, the last position folded, and the flags
with the positions they are attributed to. -/
def Curd.foldElem (c : Curd) (e : Nat) : List (Fin 8) → Option (PVal × Nat) → List (FlagSet × Nat) →
    Option (PVal × Nat) × List (FlagSet × Nat)
  | [], acc, fs => (acc, fs)
  | j :: t, acc, fs =>
    let p := c.part j
    if p.present.getLsbD e then
      if h : e < 16 then
        match acc with
        | none => c.foldElem e t (some (p.vals[e], j.val)) fs
        | some (a, _) =>
          let (d0, d1) := draws c.gen.toNat e j.val
          let (v, fl) := c.combine d0 d1 a p.vals[e]
          c.foldElem e t (some (v, j.val)) (fs ++ [(fl, j.val)])
      else c.foldElem e t acc fs
    else c.foldElem e t acc fs

/-- Positions 0 to k. -/
def positionsTo (k : Nat) : List (Fin 8) := (List.finRange 8).filter (fun j => j.val ≤ k)

/-- A fold of one element with Final applied: its bits and the flags by position (R98). -/
def Curd.foldRead (c : Curd) (k e : Nat) : Nat × List (FlagSet × Nat) :=
  match c.foldElem e (positionsTo k) none [] with
  | (none, fs) => (c.emptyFold, fs)
  | (some (a, j), fs) =>
    let (d0, _) := draws c.gen.toNat e 8
    let (v, fl) := c.final d0 a
    (v, fs ++ [(fl, j)])

/-- Positions up to k whose per-partial POISON is set (R101). -/
def Curd.poisonFlags (c : Curd) (k : Nat) : List (FlagSet × Nat) :=
  (positionsTo k).filterMap (fun j => if (c.part j).flags &&& flagPoison != 0 then some (flagPoison, j.val) else none)

/-- Record a list of flags. -/
def Curd.recordAll (c : Curd) : List (FlagSet × Nat) → Curd
  | [] => c
  | (fl, j) :: t => (c.record fl j).recordAll t

/-- What a read over positions 0 to k gives: the bits of every element, the register with its flags recorded, and
whether the fold recorded POISON (R98, R101, R113). -/
def Curd.readAll (c : Curd) (k : Nat) : List Nat × Curd × Bool :=
  let rs := (List.range c.numElems).map (fun e => c.foldRead k e)
  let ps := c.poisonFlags k
  (rs.map (·.1), c.recordAll ((rs.map (·.2)).flatten ++ ps), !ps.isEmpty)

/-- Are the positions of MASK up to k all closed (R104)? -/
def Curd.allClosed (c : Curd) (k : Nat) : Bool :=
  (positionsTo k).all (fun j => !c.mask.getLsbD j.val || (c.part j).closed)

/-- One element of SETTLE: the folded value without Final (R115). -/
def Curd.settleElem (c : Curd) (e : Nat) : Option PVal × List (FlagSet × Nat) :=
  match c.foldElem e (positionsTo 7) none [] with
  | (none, fs) => (none, fs)
  | (some (a, _), fs) => (some a, fs)

/-- The positions that hold some element. -/
def Curd.presentSet (c : Curd) : BitVec 8 :=
  BitVec.ofNat 8 (((List.finRange 8).map (fun j => if (c.part j).present != 0 then 2 ^ j.val else 0)).sum)

/-- SETTLE (R115): the register after it and whether its fold recorded POISON. -/
def Curd.settle (c : Curd) : Curd × Bool :=
  let rs := (List.range c.numElems).map (fun e => c.settleElem e)
  let ps := c.poisonFlags 7
  let vals : Vector PVal 16 := Vector.ofFn (fun e => ((rs[e.val]?.map (·.1)).join).getD PVal.zero)
  let pres := (List.finRange 8).foldl (fun m j => m ||| (c.part j).present) 0
  let parts : Vector Partial 8 := Vector.ofFn (fun j =>
    if j.val = 0 then { c.part j with vals := vals, present := pres }
    else { c.part j with vals := Vector.replicate 16 PVal.zero, present := 0 })
  let c' := c.recordAll ((rs.map (·.2)).flatten ++ ps)
  ({ c' with parts := parts, src := c.src ||| c.presentSet }, !ps.isEmpty)

/-- The generation after this one (R88). -/
def nextGen (g : BitVec 32) : BitVec 32 := if g == BitVec.allOnes 32 then 1 else g + 1

/-- CCLR (R116): a new generation, which the pending contributions enter in ascending position. -/
def Curd.clear (c : Curd) : Curd :=
  let fresh : Curd :=
    { c with
      gen := nextGen c.gen
      parts := Vector.replicate 8 Partial.empty
      arose := 0
      first := Vector.replicate 6 0
      src := 0
      cputs := 0 }
  (List.finRange 8).foldl (fun c' j => match (c.part j).pending with | none => c' | some k => c'.enter j k) fresh

/-- Four bits of the combine record for one flag (R117). -/
def Curd.recordNibble (c : Curd) (i : Fin 6) : BitVec 4 :=
  BitVec.ofBool (c.arose.getLsbD i.val) ++ (if c.arose.getLsbD i.val then c.first.get i else 0)

/-- A byte of one bit per position. -/
def Curd.byPosition (c : Curd) (f : Partial → Bool) : BitVec 8 :=
  BitVec.ofNat 8 (((List.finRange 8).map (fun j => if f (c.part j) then 2 ^ j.val else 0)).sum)

/-- CSTAT word 0 (R117). -/
def Curd.statWord0 (c : Curd) : Word :=
  c.src ++ c.byPosition (fun p => p.flags != 0) ++ c.recordNibble 5 ++ c.recordNibble 4 ++ c.recordNibble 3 ++
    c.recordNibble 2 ++ c.recordNibble 1 ++ c.recordNibble 0 ++
    ((List.finRange 8).foldl (fun m j => m ||| (c.part j).flags) (0 : FlagSet)) ++ (0 : BitVec 2) ++
    c.byPosition (fun p => p.present != 0) ++ c.byPosition (fun p => p.closed)

/-- CSTAT word 1 (R118). -/
def Curd.statWord1 (c : Curd) : Word :=
  BitVec.ofNat 64 (((List.finRange 8).map (fun j => (c.part j).flags.toNat * 2 ^ (8 * j.val))).sum)

/-- CSTAT word 2 (R118). -/
def Curd.statWord2 (c : Curd) : Word :=
  c.gen ++ c.byPosition (fun p => p.pending.isSome) ++ c.decl

/-- The curd register `n` of a core. -/
def Eng.curd (e : Eng) (n : Nat) : Curd := Tbl.get e.curds Curd.undeclared n

def Eng.setCurd (e : Eng) (n : Nat) (c : Curd) : Eng := { e with curds := Tbl.put e.curds n c }

/-- The image CRDM stores: the bytes of every element in order (R114). -/
def Curd.image (c : Curd) (vals : List Nat) : List Byte :=
  (vals.map (fun v => leBytes (if c.isAff then 8 else c.elemSize) v)).flatten

end Sys2Proof.Machine
end

