-- ==== Sys2Proof/Machine/StageFlow.lean ====
section
/-! DEFINITION. What one firing of each general and dataflow operation does (R198, R208 to R217). -/

namespace Sys2Proof.Machine

/-! PASS, CONST, DELAY (R198). -/

/-- A token of operand A whatever its kind; a register operand stands as a DATA token of 16 lanes. -/
def Fire.readWhole (x : Fire) : Option (Token × List Got) :=
  match x.readA with
  | .wait => none
  | .reg o => some ({ plainToken kDATA with valid := 16, data := o.data }, [])
  | .tok g => some (g.tok, [g])

/-- A firing that forwards operand A's token unchanged. -/
def Fire.forward (x : Fire) (t : Token) (gots : List Got) : Firing :=
  let f : Firing := { x.base gots with
    counted := t.kind == kDATA
    aTok := (gots.head?).map (fun (g : Got) => g.tok)
    passed := if passes t then some t else none }
  if t.kind == kCFG then f.takeCfg [t] x.pc.dst else f.send x.pc.dst t

def planPass (x : Fire) : Option Firing := (x.readWhole).map (fun r => x.forward r.1 r.2)
def planDelay (x : Fire) : Option Firing := (x.readWhole).map (fun r => x.forward r.1 r.2)

/-- Is the vat draining (R257)? -/
def Fire.draining (x : Fire) : Bool := (x.eng.vat x.vat).state == .draining

/-- CONST (R198, R257): ARG tokens of A as it stands, then one EOS; without limit under ARG 0, until DRAIN. -/
def planConst (x : Fire) : Option Firing :=
  let p := x.ops
  let n := x.pc.arg.toNat
  if p.stopped then none
  else
    let f := { x.base [] with counted := true }
    if (n != 0 && n ≤ p.count) || (n == 0 && x.draining) then
      some ((f.send x.pc.dst (plainToken kEOS)).withOps x { p with stopped := true })
    else
      match x.readA with
      | .reg o =>
        some ((f.send x.pc.dst { plainToken kDATA with valid := 16, data := o.data }).withOps x
          { p with count := p.count + 1 })
      | _ => none

/-! STEER, MERGE, SWITCH, ROUTE, GATE (R208 to R212). -/

/-- Element 0 of lane 0 of an operand (R63). -/
def Opnd.elem0 (o : Opnd) (fmt : BitVec 4) : Nat := laneElem fmt (lane o.masked 0) 0

/-- Does an operand hold a token of some kind? -/
def Read.isKind (r : Read) (k : BitVec 4) : Bool :=
  match r with
  | .tok g => g.tok.kind == k
  | _ => false

/-- STEER (R208). DESIGN CHOICE: a firing that discards its DATA token, its list being empty, is counted as the others
(log 17): R182 counts a firing that produces a result and does not say whether discarding is one. -/
def planSteer (x : Fire) : Option Firing :=
  let rs := x.reads
  if rs.any (·.missing) then none
  else
    let gots := gotsOf rs
    if gots.all (fun g => x.isData g.tok) then
      let a := rs.getD 0 (.reg Opnd.zero)
      let oa := a.opnd
      let ob := (rs.getD 1 (.reg Opnd.zero)).opnd
      let (c, fl) := cmpPat x.pc.fmt (x.pc.low.extractLsb' 0 3) (oa.elem0 x.pc.fmt) (ob.elem0 x.pc.fmt)
      let t : Token :=
        match a with
        | .tok g => g.tok
        | _ => { plainToken kDATA with valid := 16, data := oa.data }
      let f := { x.base gots with
        flags := fl ||| sixBitFlag x.pc.fmt oa.data 1 ||| sixBitFlag x.pc.fmt ob.data 1
        counted := gots.isEmpty || gots.any (fun g => g.tok.kind == kDATA)
        aTok := (gots.head?).map (fun (g : Got) => g.tok) }
      some (f.send (if c && oa.valid != 0 then x.pc.dst else x.pc.arg) t)
    else some (x.nonData gots (x.pc.dst ||| x.pc.arg))

/-- The same message on every operand, or an ERR of class SIDEBAND (R209). -/
def Fire.matched (x : Fire) (gots : List Got) : Firing :=
  let ts := gots.map (fun (g : Got) => g.tok)
  match ts with
  | [] => x.base gots
  | a :: _ =>
    let f := { x.base gots with aTok := some a }
    if allSame ts then
      let m : Token := { a with p := ts.any (·.p) }
      { f.send x.pc.dst m with passed := some m }
    else { f.send x.pc.dst (x.err clsSIDEBAND a.sideband) with flags := flagPoison }

/-- An ordered MERGE whose control token is `g` (R209). `a` and `b` read the inputs; the input not chosen is not
looked at. -/
def Fire.mergeBy (x : Fire) (g : Got) (a b : Fire → Read) : Option Firing :=
  let y := x.after (.tok g)
  let ctl := g.tok
  let both : Option (Got × Got) :=
    match a y with
    | .tok ga =>
      match b (y.after (.tok ga)) with
      | .tok gb => some (ga, gb)
      | _ => none
    | _ => none
  if x.isData ctl then
    let k := (x.read (mergeK x.pc.arg) 0).opnd
    let (c, fl) := cmpPat x.pc.fmt (mergeCmp x.pc.arg) ((Opnd.ofToken ctl).elem0 x.pc.fmt) (k.elem0 x.pc.fmt)
    let fl := fl ||| sixBitFlag x.pc.fmt ctl.data (min 1 ctl.valid.toNat) ||| sixBitFlag x.pc.fmt k.data 1
    match (if c then b y else a y) with
    | .tok h =>
      let t := h.tok
      let f := { x.base [h, g] with flags := fl, counted := true, aTok := if c then none else some t }
      if x.isData t then some (f.send x.pc.dst t)
      else if t.kind == kERR then
        some { f.send x.pc.dst { t with p := true } with flags := fl ||| flagPoison, counted := false }
      else
        some { f.send x.pc.dst (x.err clsSIDEBAND t.sideband) with flags := fl ||| flagPoison, counted := false }
    | _ => none
  else
    match both with
    | none => none
    | some (ga, gb) =>
      if [ga, gb, g].any (fun (h : Got) => h.tok.kind == kCFG) then
        some { x.nonData [ga, gb, g] x.pc.dst with aTok := some ga.tok }
      else if ctl.kind == kERR then
        some { ({ x.base [ga, gb, g] with aTok := some ga.tok }).send x.pc.dst { ctl with p := true } with
          flags := flagPoison }
      else some (x.matched [ga, gb, g])

/-- MERGE of any input (R209): DATA and ERR of A first; markers wait for their pair. -/
def Fire.mergeAny (x : Fire) (a b : Read) : Option Firing :=
  let movable (r : Read) : Option Got :=
    match r with
    | .tok g => if x.isData g.tok || g.tok.kind == kERR then some g else none
    | _ => none
  let move (g : Got) (isA : Bool) : Firing :=
    let t := g.tok
    let f := { x.base [g] with counted := t.kind == kDATA, aTok := if isA then some t else none }
    if t.kind == kERR then { f.send x.pc.dst { t with p := true } with flags := flagPoison }
    else f.send x.pc.dst t
  match movable a with
  | some g => some (move g true)
  | none =>
    match movable b with
    | some g => some (move g false)
    | none =>
      match a, b with
      | .tok ga, .tok gb =>
        if ga.tok.kind == kCFG || gb.tok.kind == kCFG then some (x.nonData [ga, gb] x.pc.dst)
        else some (x.matched [ga, gb])
      | _, _ => none

def planMerge (x : Fire) : Option Firing :=
  let ta := (x.pc.low.extractLsb' 3 3).toNat
  let tb := (x.pc.low.extractLsb' 0 3).toNat
  let a (y : Fire) : Read :=
    match y.handler with
    | some (p, t) => y.readPort p t
    | none => y.read y.pc.selA ta
  let b (y : Fire) : Read := y.read y.pc.selB tb
  if mergeAny x.pc.arg then x.mergeAny (a x) (b x)
  else
    match x.read (mergePort x.pc.arg) 0 with
    | .tok g => x.mergeBy g a b
    | _ => none

/-- Send A to one destination of DST, the one with ordinal `i`, or an ERR of class INDEX to the lowest (R210, R211). -/
def Fire.sendNth (x : Fire) (f : Firing) (t : Token) (i : Option Nat) : Firing :=
  let ds := destsOf x.pc.dst
  match i.bind (fun i => ds[i]?) with
  | some d => { f with sends := f.sends ++ [(d, t)] }
  | none =>
    { f with
      sends := f.sends ++ (ds.head?.toList.map (fun d => (d, x.err clsINDEX t.sideband)))
      flags := f.flags ||| flagPoison }

/-- Operand A's token as it stands, for operations that move it. -/
def Read.token (r : Read) : Token :=
  match r with
  | .tok g => g.tok
  | r => { plainToken kDATA with valid := 16, data := r.opnd.data }

/-- SWITCH (R210). -/
def planSwitch (x : Fire) : Option Firing :=
  x.standard (fun rs f =>
    let i := (lane (rs.getD 1 (.reg Opnd.zero)).opnd.masked 0).toInt
    x.sendNth f (rs.getD 0 (.reg Opnd.zero)).token (if i < 0 then none else some i.toNat))

/-- Entry i of the route table: byte i of k0 to k3 (R211). -/
def Fire.routeEntry (x : Fire) (i : Nat) : BitVec 8 :=
  ((x.cfg.kregs.toList.getD (i / 64) 0).extractLsb' (8 * (i % 64)) 8)

/-- ROUTE (R211). DESIGN CHOICE: where the chosen ordinal has no set bit and an ERR is sent, a SPLIT entry does not
alternate (log 17): the rule says only that no counter changes. -/
def planRoute (x : Fire) : Option Firing :=
  x.standard (fun rs f =>
    let t := (rs.getD 0 (.reg Opnd.zero)).token
    let i := (lane (rs.getD 1 (.reg Opnd.zero)).opnd.masked 0).toNat
    let e := x.routeEntry i
    let alt := e.getLsbD 3 && Tbl.get x.st.alternate false i
    let o := if alt then (e.extractLsb' 4 3).toNat else (e.extractLsb' 0 3).toNat
    if i > 255 || !e.getLsbD 7 || (destsOf x.pc.dst).length ≤ o then x.sendNth f t none
    else
      let f := x.sendNth f t (some o)
      let st := f.el.stage x.k
      let st := if e.getLsbD 3 then { st with alternate := Tbl.put st.alternate i (!alt) } else st
      let st :=
        if h : o < 8 then
          if t.kind == kDATA then { st with counters := st.counters.set o (st.counters[o] + 1) h } else st
        else st
      { f with el := f.el.setStage x.k st })

/-- GATE (R212). DESIGN CHOICE: a firing whose test fails, and which discards A, is counted (log 17). -/
def planGate (x : Fire) : Option Firing :=
  x.standard (fun rs f =>
    let t := (rs.getD 0 (.reg Opnd.zero)).token
    let b := lane (rs.getD 1 (.reg Opnd.zero)).opnd.masked 0
    if (b != 0) != x.pc.low.getLsbD 0 then f.send x.pc.dst t else f)

/-! COUNT, SPLOOP, ISECT, SEQNO, EOSGEN (R213 to R217). -/

/-- Lanes of consecutive indices from `base`. -/
def indexToken (base k : Nat) (p : Bool) : Token :=
  { plainToken kDATA with
    valid := BitVec.ofNat 5 k
    p := p
    data := payloadOf ((List.range k).map (fun l => BitVec.ofNat 32 (base + l))) }

/-- How many indices of a run of `n` the next token holds. -/
def countStep (single : Bool) (base n : Nat) : Nat := if single then min 1 (n - base) else min 16 (n - base)

def eodToken (level : Nat) (p : Bool) : Token := { plainToken kEOD with level := BitVec.ofNat 4 level, p := p }

/-- COUNT (R213): a run per trigger, or one run and an EOS. DESIGN CHOICE: under DRAIN a run whose indices are all sent
sends its EOD, and its EOS at the firing after it (R257; log 17). -/
def planCount (x : Fire) : Option Firing :=
  let p := x.ops
  let single := x.pc.low.getLsbD 0
  let level := (x.pc.low.extractLsb' 1 3).toNat + 1
  if x.pc.selA == 15 then
    let n := x.pc.arg.toNat
    let f := x.base []
    if p.stopped then none
    else if p.count != 0 || (p.base < n && x.draining) then
      some ((f.send x.pc.dst (plainToken kEOS)).withOps x { p with stopped := true })
    else if p.base < n then
      let k := countStep single p.base n
      some (({ f with counted := true }.send x.pc.dst (indexToken p.base k false)).withOps x
        { p with base := p.base + k })
    else some ((f.send x.pc.dst (eodToken level false)).withOps x { p with count := 1 })
  else
    match x.readWhole with
    | none => none
    | some (t, gots) =>
      if t.kind == kDATA then
        let o : Opnd := Opnd.ofToken t
        let n := if x.pc.arg == 0 then (lane o.masked 0).toNat else x.pc.arg.toNat
        if p.base < n then
          let k := countStep single p.base n
          some (({ x.base [] with counted := !x.owed, flags := flagIf t.p flagPoison }.send x.pc.dst
            (indexToken p.base k t.p)).withOps x { p with base := p.base + k })
        else some (((x.base gots).send x.pc.dst (eodToken level t.p)).withOps x { p with base := 0 })
      else if t.kind == kSCALE then some (x.forward t gots)
      else some (x.nonData gots x.pc.dst)

/-- The set bits of 16 lanes as numbers base + 32 L + j, ascending (R214). -/
def setBitsFrom (base : Nat) (d : Payload) : List Nat :=
  ((List.range 512).filter (fun i => d.getLsbD i)).map (fun i => base + i)

/-- Tokens of up to 16 i32 values each. -/
def packWords (p : Bool) : Nat → List Nat → List Token
  | 0, _ => []
  | _, [] => []
  | fuel + 1, ns =>
    { plainToken kDATA with
      valid := BitVec.ofNat 5 (min 16 ns.length)
      p := p
      data := payloadOf ((ns.take 16).map (BitVec.ofNat 32)) } :: packWords p fuel (ns.drop 16)

/-- SPLOOP (R214). -/
def planSploop (x : Fire) : Option Firing :=
  let p := x.ops
  match p.out with
  | t :: rest =>
    some (({ x.base [] with counted := !x.owed }.send x.pc.dst t).withOps x { p with out := rest })
  | [] =>
    if x.owed then none
    else
      (x.standard (fun rs f =>
        let a := (rs.getD 0 (.reg Opnd.zero)).opnd.masked
        let b := (rs.getD 1 (.reg Opnd.zero)).opnd.masked
        let ts := packWords (f.gots.any (fun g => g.tok.p)) 32
          (setBitsFrom p.base (if x.pc.low.getLsbD 0 then a ||| b else a &&& b))
        let f := { f with counted := !ts.isEmpty }
        let f := match ts with | t :: _ => f.send x.pc.dst t | [] => f
        f.withOps x { p with base := p.base + 512, out := ts.tail })).map (fun f =>
          if f.passed.isSome then f.withOps x { p with base := 0 } else f)

/-- One side of ISECT: the token or register read, the place in it, the last coordinate, the position in the segment,
whether the segment is being skipped. -/
structure Side where
  read : Read
  idx : Nat
  last : Option Int
  pos : Nat
  skip : Bool

def Side.valid (s : Side) : Nat := s.read.opnd.valid
def Side.coord (s : Side) : Int := (lane s.read.opnd.data s.idx).toInt

/-- Does the side end its segment here: an EOT, EOD or EOS? -/
def Side.atMarker (s : Side) : Bool :=
  match s.read with
  | .tok g => g.tok.isMarker
  | _ => false

def Side.isData (s : Side) : Bool :=
  match s.read with
  | .tok g => g.tok.kind == kDATA
  | .reg _ => true
  | .wait => false

/-- Use the coordinate: the side after it, and the token consumed when it was the last. -/
def Side.step (s : Side) : Side × List Got :=
  let s' := { s with last := some s.coord, pos := s.pos + 1, idx := s.idx + 1 }
  if s.valid ≤ s.idx + 1 then ({ s' with idx := 0 }, s.read.got.toList) else (s', [])

/-- A coordinate not above its predecessor. -/
def Side.bad (s : Side) : Bool := s.last.any (fun l => s.coord ≤ l)

def PhaseState.withSides (p : PhaseState) (a b : Side) : PhaseState :=
  { p with
    idxA := a.idx, idxB := b.idx, lastA := a.last, lastB := b.last, posA := a.pos, posB := b.pos
    skipA := a.skip, skipB := b.skip }

/-- The token of the coordinates found so far. -/
def isectToken (es : List SrcElem) : Token := packToken 0 (es.map (·.pat)) false (es.any (·.p))

/-- ISECT on two sides (R215): one comparison. -/
def Fire.isect (x : Fire) (a b : Side) : Firing :=
  let p := x.ops
  let quiet (a b : Side) (gots : List Got) : Firing := (x.base gots).withOps x (p.withSides a b)
  let fail (bad a b : Side) (gots : List Got) : Firing :=
    let e := x.err clsINDEX bad.read.token.sideband
    let f := { x.base gots with flags := flagPoison }
    if p.elems.isEmpty then (f.send x.pc.dst e).withOps x (p.withSides a b)
    else
      ({ f with counted := true }.send x.pc.dst (isectToken p.elems)).withOps x
        { p.withSides a b with elems := [], out := [e] }
  let skipOne (s : Side) : Side × List Got := s.step
  if a.isData && (a.valid == 0) then quiet a b a.read.got.toList
  else if b.isData && (b.valid == 0) then quiet a b b.read.got.toList
  else if a.isData && (a.skip || b.atMarker) then
    let (a', g) := skipOne a
    quiet a' b g
  else if b.isData && (b.skip || a.atMarker) then
    let (b', g) := skipOne b
    quiet a b' g
  else if a.isData && b.isData then
    if a.bad then
      let (a', g) := a.step
      fail a { a' with skip := true } b g
    else if b.bad then
      let (b', g) := b.step
      fail b a { b' with skip := true } g
    else if a.coord < b.coord then
      let (a', g) := a.step
      quiet a' b g
    else if b.coord < a.coord then
      let (b', g) := b.step
      quiet a b' g
    else
      let (a', g) := a.step
      let (b', h) := b.step
      let v : Nat :=
        if x.pc.low.getLsbD 0 then (a.pos % 65536) * 65536 + b.pos % 65536 else intPat 32 a.coord
      let poisoned := a.read.opnd.p || b.read.opnd.p
      let es := p.elems ++ [⟨v, 0, none, poisoned, false, 0, false⟩]
      if 16 ≤ es.length then
        ({ x.base (g ++ h) with counted := !x.owed }.send x.pc.dst (isectToken es)).withOps x
          { p.withSides a' b' with elems := [] }
      else (x.base (g ++ h)).withOps x { p.withSides a' b' with elems := es }
  else if p.elems.isEmpty then
    let f := x.nonData (a.read.got.toList ++ b.read.got.toList) x.pc.dst
    if a.atMarker || b.atMarker then
      f.withOps x { p with
        idxA := 0, idxB := 0, lastA := none, lastB := none, posA := 0, posB := 0, skipA := false, skipB := false }
    else f.withOps x { p with idxA := 0, idxB := 0 }
  else ({ x.base [] with counted := !x.owed }.send x.pc.dst (isectToken p.elems)).withOps x { p with elems := [] }

/-- ISECT (R215). -/
def planIsect (x : Fire) : Option Firing :=
  let p := x.ops
  match p.out with
  | t :: rest => some (((x.base []).send x.pc.dst t).withOps x { p with out := rest })
  | [] =>
    if x.owed then none
    else
      let a := x.readA
      let b := (x.after a).readB
      if a.missing || b.missing then none
      else some (x.isect ⟨a, p.idxA, p.lastA, p.posA, p.skipA⟩ ⟨b, p.idxB, p.lastB, p.posB, p.skipB⟩)

/-- SEQNO (R216). -/
def planSeqno (x : Fire) : Option Firing :=
  let p := x.ops
  match x.readWhole with
  | none => none
  | some (t, gots) =>
    if t.kind == kDATA then
      some (({ x.forward t gots with sends := [] }.send x.pc.dst
        { plainToken kDATA with valid := 1, p := t.p, data := payloadOf [BitVec.ofNat 32 p.count] }).withOps x
        { p with count := (p.count + 1) % 2 ^ 32 })
    else if t.kind == kSCALE then some (x.forward t gots)
    else
      let f := x.nonData gots x.pc.dst
      some (if f.passed.isSome && !x.pc.low.getLsbD 0 then f.withOps x { p with count := 0 } else f)

/-- EOSGEN (R217). -/
def planEosgen (x : Fire) : Option Firing :=
  let p := x.ops
  let n := x.pc.arg.toNat
  match p.out with
  | t :: rest => some (((x.base []).send x.pc.dst t).withOps x { p with out := rest })
  | [] =>
    if x.owed then none
    else
      match x.readWhole with
      | none => none
      | some (t, gots) =>
        if t.kind == kDATA then
          if n != 0 && p.count + 1 = n then
            some ((x.forward t gots).withOps x { p with count := 0, out := [plainToken kEOS] })
          else some ((x.forward t gots).withOps x { p with count := p.count + 1 })
        else if t.kind == kEOT && n == 0 then
          some { x.forward t gots with sends := (destsOf x.pc.dst).map (fun d => (d, { t with kind := kEOS })) }
        else if t.kind == kSCALE then some (x.forward t gots)
        else
          let f := x.nonData gots x.pc.dst
          some (if t.kind == kEOS then f.withOps x { p with count := 0 } else f)

end Sys2Proof.Machine
end

