-- ==== Sys2Proof/Machine/StageMem.lean ====
section
/-! DEFINITION. What one firing of CONTRIB and of each memory-element operation does (R119, R120, R219 to R223). -/

namespace Sys2Proof.Machine

/-! CONTRIB (R119, R120). -/

/-- Does this firing close the partial: by `close`, or by `close=rep` on the last firing of the repeat count? -/
def contribCloses (x : Fire) : Bool :=
  let rep := x.pc.rep.toNat
  match (x.pc.arg.extractLsb' 6 2).toNat with
  | 1 => true
  | 2 => x.handler.isNone && rep != 0 && x.st.count + 1 = rep
  | _ => false

/-- The contribution a token of operand A makes, if it makes one. DESIGN CHOICE: the one an EOS makes under close=eos
takes the P bit of the EOS token (log 34). -/
def contribToken (x : Fire) (t : Token) : Option Contribution :=
  let fmt := x.pc.fmt
  if t.kind == kDATA then some (contribOf t.data (min t.valid.toNat 16) fmt (contribCloses x) t.p)
  else if t.kind == kERR then some (contribEmpty fmt false true)
  else if t.kind == kEOS && (x.pc.arg.extractLsb' 6 2) == 3 then some (contribEmpty fmt true t.p)
  else none

/-- CONTRIB (R120): contribute, then pass the token. -/
def planContrib (x : Fire) : Option Firing :=
  (x.readWhole).map (fun r =>
    let t := x.seen r.1
    { x.forward t r.2 with
      contrib := (contribToken x t).map (fun k => (x.pc.arg.extractLsb' 0 6, k))
      poisons := false })

/-! RAM mode (R220, R221). -/

def wordMode (x : Fire) : Bool := x.pc.low.getLsbD 0

/-- The words an address operand names for a number of lanes: line mode takes its lane 0 as the line. -/
def wordsNamed (x : Fire) (addr : Opnd) (n : Nat) : List Nat :=
  if wordMode x then (List.range n).map (fun l => (lane addr.data l).toNat)
  else (List.range n).map (fun l => 16 * (lane addr.masked 0).toNat + l)

/-- The first lane value out of range (R220). -/
def outOfRange (x : Fire) (addr : Opnd) (n : Nat) : Option (BitVec 32) :=
  if wordMode x then ((List.range n).map (fun l => lane addr.data l)).find? (fun a => 16384 ≤ a.toNat)
  else if 1024 ≤ (lane addr.masked 0).toNat then some (lane addr.masked 0)
  else none

/-- A word of the bank that fails its check. -/
def Fire.failingWord (x : Fire) (ws : List Nat) : Option Nat :=
  ws.findSome? (fun i => x.w.failing (bankWordAddr x.c x.e i) 4)

/-- MRD (R220). -/
def planMrd (x : Fire) : Option Firing :=
  x.standard (fun rs f =>
    let r := rs.getD 0 (.reg Opnd.zero)
    let o := r.opnd
    let n := if wordMode x then o.valid else 16
    match outOfRange x o n with
    | some _ => f.send x.pc.dst (x.err clsINDEX r.token.sideband)
    | none =>
      let ws := wordsNamed x o n
      match x.failingWord ws with
      | some a => { f.send x.pc.dst (x.err clsMEMORY r.token.sideband) with ecc := some a }
      | none =>
        f.send x.pc.dst { plainToken kDATA with
          valid := BitVec.ofNat 5 n
          data := payloadOf (ws.map (fun i => x.w.bankWord x.c x.e i)) })

/-- What MACC puts in place of a word (R220): the sum with lane `l` of the data. -/
def accumulate (x : Fire) (l : Nat) (word v : BitVec 32) : BitVec 32 × FlagSet :=
  match fmtOfCode x.pc.fmt with
  | .int w =>
    let (p, fl) := wrapInt w (patInt w word.toNat + patInt w v.toNat)
    (BitVec.ofNat 32 p, fl)
  | .float ff =>
    let a := decodeFloat ff word.toNat
    let b := decodeFloat ff v.toNat
    let (s, f1) := exactSum [a, b] x.pc.mode
    let (p, f2) := round (.float ff) x.pc.mode (x.ctx.draw l 0) s
    (BitVec.ofNat 32 p, f1 ||| f2 ||| flagIf (a.isSignalling || b.isSignalling) flagInv)

/-- The words stored so far shadow the bank. -/
def latest (x : Fire) (done : List (Nat × BitVec 32)) (i : Nat) : BitVec 32 :=
  match done.reverse.find? (fun p => p.1 == i) with
  | some p => p.2
  | none => x.w.bankWord x.c x.e i

/-- Lanes accumulated in ascending order, each seeing those below it. -/
def accumulateAll (x : Fire) : List (Nat × Nat × BitVec 32) → List (Nat × BitVec 32) → FlagSet →
    List (Nat × BitVec 32) × FlagSet
  | [], done, fl => (done, fl)
  | (l, i, v) :: t, done, fl =>
    let (y, f) := accumulate x l (latest x done i) v
    accumulateAll x t (done ++ [(i, y)]) (fl ||| f)

/-- Is a token stored as data by MWR and MACC: DATA, a poisoned one, or an ERR (R220)? -/
def storesAs (x : Fire) (r : Read) : Bool :=
  match r with
  | .tok g => x.isData g.tok || g.tok.kind == kERR
  | _ => true

/-- MWR and MACC (R220): the two share everything but the new words. -/
def Fire.memWrite (x : Fire) (acc : Bool) : Option Firing :=
  match x.reads with
  | [ra, rb] =>
    if ra.missing || rb.missing then none
    else
      let gots := gotsOf [ra, rb]
      let anyData := gots.any (fun g => g.tok.kind == kDATA)
      let addrOk :=
        match rb with
        | .tok g => x.isData g.tok
        | _ => true
      if storesAs x ra && addrOk then
        let a := ra.opnd
        let b := rb.opnd
        let n := if wordMode x then min a.valid b.valid else a.valid
        let f := { x.base gots with
          counted := anyData
          aTok := (gots.head?).map (fun (g : Got) => g.tok)
          flags := flagIf (ra.isKind kERR) flagPoison }
        match outOfRange x b n with
        | some v => some { f with range := some v }
        | none =>
          let ws := wordsNamed x b n
          let lanes := (List.range n).map (fun l => (l, ws.getD l 0, lane a.data l))
          if acc then
            match x.failingWord ws with
            | some u => some { f.send x.pc.dst (x.err clsMEMORY rb.token.sideband) with ecc := some u }
            | none =>
              let (done, fl) := accumulateAll x lanes [] 0
              some { f with bank := done, flags := f.flags ||| fl }
          else some { f with bank := lanes.map (fun q => (q.2.1, q.2.2)) }
      else some { x.nonData gots x.pc.dst with counted := anyData }
  | _ => none

def planMwr (x : Fire) : Option Firing := x.memWrite false
def planMacc (x : Fire) : Option Firing := x.memWrite true

/-! FIFO mode (R222). -/

/-- The line of the bank that holds the i-th token of a FIFO of some capacity: the lines are used in turn (R222; log
34). -/
def Elem.fifoLine (x : Elem) (cap i : Nat) : Nat := if cap = 0 then 0 else (x.fifoAt + i) % cap

/-- The sixteen words of a line with a payload. -/
def lineWords (line : Nat) (d : Payload) : List (Nat × BitVec 32) :=
  (List.range 16).map (fun l => (16 * line + l, lane d l))

/-- A FIFO with one token more: its sideband; its payload goes to the bank. -/
def Elem.pushFifo (x : Elem) (t : Token) : Elem :=
  { x with fifo := x.fifo ++ [{ t with r := false, shared := false, cfgId := 0, data := 0 }] }

/-- A FIFO without its first token. -/
def Elem.popFifo (x : Elem) (cap : Nat) : Elem := { x with fifo := x.fifo.tail, fifoAt := x.fifoLine cap 1 }

/-- MPUSH (R222). The write side comes first in a cycle, so a token popped in it still counts (R221). -/
def planMpush (x : Fire) : Option Firing :=
  let cap := x.pc.arg.toNat
  if cap ≤ x.el.fifo.length then none
  else
    (x.readWhole).map (fun r =>
      let f := { x.forward r.1 r.2 with sends := [], passed := none }
      { f with
        el := f.el.pushFifo r.1
        bank := lineWords (x.el.fifoLine cap x.el.fifo.length) r.1.data })

/-- MPOP (R222): the sideband of the first token with the payload of its line; a line that fails its check gives an ERR
of class MEMORY (R180, R448). -/
def planMpop (x : Fire) : Option Firing :=
  let cap := x.pc.arg.toNat
  match x.el.fifo with
  | [] => none
  | t :: _ =>
    let ws := (List.range 16).map (fun l => 16 * x.el.fifoLine cap 0 + l)
    let d := payloadOf (ws.map (fun i => x.w.bankWord x.c x.e i))
    let f := { x.base [] with counted := t.kind == kDATA }
    let f : Firing :=
      match x.failingWord ws with
      | some a => { f.send x.pc.dst (x.err clsMEMORY t.sideband) with ecc := some a, counted := false }
      | none => f.send x.pc.dst { t with data := d }
    some { f with el := f.el.popFifo cap }

/-! Reorder mode (R223). -/

/-- Did the stage send in this cycle? -/
def StageState.sentAt (st : StageState) (now : Nat) : Bool := st.lastOut == some now

/-- MREORD (R223): a pair into the window, or a marker once the window is empty. -/
def planMreord (x : Fire) : Option Firing :=
  let w := x.pc.arg.toNat
  match x.readA with
  | .wait => none
  | ra =>
    let a := ra.token
    if passes a then
      if x.el.window.isEmpty && !x.st.sentAt x.now then
        let f := x.forward a (gotsOf [ra])
        some { f with el := { f.el with next := 0 } }
      else none
    else
      match (x.after ra).readB with
      | .wait => none
      | rb =>
        let gots := gotsOf [ra, rb]
        let anyData := gots.any (fun g => g.tok.kind == kDATA)
        if gots.all (fun g => x.isData g.tok) then
          let s := (lane rb.opnd.masked 0).toNat
          let f := { x.base gots with counted := anyData, aTok := (gots.head?).map (fun (g : Got) => g.tok) }
          if x.el.next ≤ s && s < x.el.next + w && (Tbl.find x.el.window (s % w)).isNone then
            some { f with el := { f.el with window := Tbl.put f.el.window (s % w) { a with r := false } } }
          else if x.st.sentAt x.now then none
          else some { f.send x.pc.dst (x.err clsINDEX rb.token.sideband) with flags := flagPoison }
        else if x.st.sentAt x.now then none
        else some { x.nonData gots x.pc.dst with counted := anyData }

/-- MREORD_RELEASE (R223): the token that is next in order. -/
def planRelease (x : Fire) : Option Firing :=
  let w := x.pc.arg.toNat
  if x.st.sentAt x.now then none
  else
    match Tbl.find x.el.window (x.el.next % w) with
    | none => none
    | some t =>
      let f := (x.base []).send x.pc.dst t
      some { f with el := { f.el with
        window := f.el.window.filter (fun p => p.1 != x.el.next % w)
        next := x.el.next + 1 } }

end Sys2Proof.Machine
end

