-- ==== Sys2Proof/Machine/Translate.lean ====
section
/-! DEFINITION. Address translation: the page table, its walk and the TLB (R298 to R304). -/

namespace Sys2Proof.Machine

/-- The bits of a va that index level `l` (R298). -/
def vaIndex (va l : Nat) : Nat := va / 2 ^ (16 + 10 * (4 - l)) % 1024

/-- Bits [h:l] of a word as a number. -/
def bitsNat (w : Word) (lo n : Nat) : Nat := (w.toNat / 2 ^ lo) % 2 ^ n

/-- What a table entry says at a level (R299): the next table, a leaf, or a refusal. -/
inductive EntryKind where
  | table (base : Nat)
  | leaf (bits : Nat)
  | bad (reason : BitVec 4)
deriving DecidableEq, Repr

/-- Classify a table entry (R299). -/
def entryKind (e : Word) (level : Nat) : EntryKind :=
  if !e.getLsbD 0 then .bad rINVALID
  else if bitsNat e 9 3 != 0 then .bad rFORMAT
  else if !e.getLsbD 1 then
    if level == 4 || e.getLsbD 12 || bitsNat e 50 14 != 0 || bitsNat e 2 7 != 0 then .bad rFORMAT
    else .table (bitsNat e 13 37 * 8192)
  else
    let bits := match bitsNat e 7 2 with | 0 => 16 | 1 => 21 | 2 => 30 | _ => 0
    let fits := (bits == 16 && level == 4) || (bits == 21 && level == 4) || (bits == 30 && level == 3)
    if !fits then .bad rFORMAT
    else if bitsNat e 13 37 * 8192 % 2 ^ bits != 0 then .bad rFORMAT
    else if !e.getLsbD 12 && bitsNat e 50 14 != 0 then .bad rFORMAT
    else .leaf bits

/-- The cached form of a leaf (R299, R300). -/
def tlbOfLeaf (e : Word) (level bits va : Nat) (asid : BitVec 16) : TlbEntry where
  asid := asid
  global := e.getLsbD 6
  bits := bits
  va := va / 2 ^ bits * 2 ^ bits
  base := bitsNat e 13 37 * 8192
  remote := e.getLsbD 12
  node := BitVec.ofNat 14 (bitsNat e 50 14)
  level := BitVec.ofNat 3 level
  u := e.getLsbD 5
  x := e.getLsbD 4
  w := e.getLsbD 3
  rd := e.getLsbD 2

/-- What one read of a walk comes to: a refusal, the translation, the next table. -/
inductive WalkStep where
  | refused (r : Refused)
  | leaf (t : TlbEntry)
  | table (base : Nat)
deriving DecidableEq, Repr

/-- The read of a walk at level `l`, in the table at `base` (R301). Every table lies in DRAM of this package. -/
def walkStep (mem : List Host.Cell) (asid : BitVec 16) (va l base : Nat) : WalkStep :=
  match regionOf base with
  | .dram _ =>
    let e := memWord mem (base + 8 * vaIndex va l)
    match entryKind e l with
    | .bad r => .refused ⟨r, BitVec.ofNat 3 l⟩
    | .leaf bits => .leaf (tlbOfLeaf e l bits va asid)
    | .table b => .table b
  | _ => .refused ⟨rBUS, BitVec.ofNat 3 l⟩

/-- A walk from level `l`, `fuel` levels left. -/
def walkFrom (mem : List Host.Cell) (asid : BitVec 16) (va : Nat) : Nat → Nat → Nat → Except Refused TlbEntry
  | 0, l, _ => .error ⟨rFORMAT, BitVec.ofNat 3 l⟩
  | fuel + 1, l, base =>
    match walkStep mem asid va l base with
    | .refused r => .error r
    | .leaf t => .ok t
    | .table b => walkFrom mem asid va fuel (l + 1) b

/-- The first-level table of PTROOT (R138). -/
def rootTable (ptroot : Word) : Nat := bitsNat ptroot 13 37 * 8192

/-- A whole walk (R298). -/
def walk (mem : List Host.Cell) (asid : BitVec 16) (ptroot : Word) (va : Nat) : Except Refused TlbEntry :=
  walkFrom mem asid va 4 1 (rootTable ptroot)

/-- Does a cached translation serve an address under an ASID (R300)? -/
def TlbEntry.serves (e : TlbEntry) (asid : BitVec 16) (va : Nat) : Bool :=
  (e.global || e.asid == asid) && va / 2 ^ e.bits * 2 ^ e.bits == e.va

/-- Do a leaf's bits permit the access (R299)? -/
def TlbEntry.permits (e : TlbEntry) (priv : Bool) (a : Access) : Bool :=
  (priv || e.u) &&
    (match a with
     | .fetch => e.x
     | .read => e.rd
     | .write => e.w
     | .readWrite => e.rd && e.w)

/-- The physical address a cached translation gives; a leaf for this package's own node is local. -/
def TlbEntry.phys (e : TlbEntry) (self : BitVec 14) (va : Nat) : PhysAddr where
  remote := e.remote && e.node != self
  node := e.node
  addr := e.base + va % 2 ^ e.bits

/-- The set of a translation in the TLB: 128 sets of 8 ways (R300), chosen by the page number (log 14). -/
def TlbEntry.set (t : TlbEntry) : Nat := t.va / 2 ^ 16 % 128

/-- Keep the first `n` entries of a set, and all others. -/
def keepWays (s : Nat) : Nat → List TlbEntry → List TlbEntry
  | _, [] => []
  | 0, t :: rest => if t.set = s then keepWays s 0 rest else t :: keepWays s 0 rest
  | n + 1, t :: rest => t :: keepWays s (if t.set = s then n else n + 1) rest

/-- Put a translation in front of the TLB; the oldest of a full set goes (log 14). -/
def Eng.cacheTlb (e : Eng) (t : TlbEntry) : Eng := { e with tlb := t :: keepWays t.set 7 e.tlb }

/-- What a translation request finds without a walk. -/
def Eng.lookup (e : Eng) (asid : BitVec 16) (va : Nat) : Option TlbEntry := e.tlb.find? (fun t => t.serves asid va)

/-- Use a translation: the permission check and the physical address. -/
def TlbEntry.use (t : TlbEntry) (self : BitVec 14) (priv : Bool) (a : Access) (va : Nat) : Except Refused PhysAddr :=
  if t.permits priv a then .ok (t.phys self va) else .error ⟨rPERM, t.level⟩

/-! Requests for a walk (R301). -/

/-- The order of the requests of one cycle: the control processor, copies in place order, streams (R301), then nodes and
the other units (log 14). -/
def Walker.rank : Walker → Nat
  | .cp => 0
  | .copySrc p => 1 + 2 * p
  | .copyDst p => 2 + 2 * p
  | .stream s => 129 + s
  | .node n => 161 + n
  | .unit u => 165 + u

/-- Put a request among the walks. -/
def insertWalk (k : Walk) : List Walk → List Walk
  | [] => [k]
  | x :: rest => if x.at' = k.at' && k.who.rank < x.who.rank then k :: x :: rest else x :: insertWalk k rest

/-- Does a walk run still, or wait to run? -/
def Walk.live (k : Walk) : Bool := k.refused.isNone

/-- Is a walk that of a 64 KiB page under an ASID? -/
def Walk.ofPage (k : Walk) (asid : BitVec 16) (va : Word) : Bool := k.asid == asid && k.va.toNat / 2 ^ 16 == va.toNat / 2 ^ 16

/-- Is the page of an address already being walked for (R301)? -/
def Eng.walking (g : Eng) (asid : BitVec 16) (va : Word) : Bool := g.walks.any (fun k => k.live && k.ofPage asid va)

/-- A walk as it is asked for. -/
def Walk.asked (who : Walker) (asid : BitVec 16) (ptroot va : Word) (priv : Bool) (a : Access) (now : Nat) : Walk where
  who := who
  asid := asid
  ptroot := ptroot
  va := va
  priv := priv
  access := a
  level := 1
  base := rootTable ptroot
  at' := now
  refused := none
  named := []

/-- Is a walk's refusal of no account once its requester asks for another: the control processor's last one, or a unit's of
the same page? -/
def Walk.stale (x k : Walk) : Bool := !x.live && x.who == k.who && (k.who == .cp || x.ofPage k.asid k.va)

/-- Ask for a walk. -/
def Eng.askWalk (g : Eng) (k : Walk) : Eng := { g with walks := insertWalk k (g.walks.filter (fun x => !x.stale k)) }

/-- The refusal that some requester's walk has come to for an access. -/
def Eng.refusal (g : Eng) (mine : Walk → Bool) (asid : BitVec 16) (ptroot : Word) (priv : Bool) (a : Access) (va : Word) :
    Option Refused :=
  (g.walks.find? (fun k =>
    mine k && !k.live && k.ofPage asid va && k.ptroot == ptroot && k.priv == priv && k.access == a)).bind (·.refused)

/-- Translate for the control processor, or for a unit that reads for a command: a cached translation, the refusal that a walk
for it has come to, else a walk is asked for and it waits (R298 to R301). A walk of the same page that runs already is waited
for. `mine` picks the requester's own walks. -/
def World.translate (w : World) (c : Nat) (who : Walker) (mine : Walk → Bool) (asid : BitVec 16) (ptroot : Word)
    (priv : Bool) (a : Access) (va : Word) : Except XlatStop PhysAddr × World :=
  let g := w.eng c
  if bitsNat va 56 8 != 0 then (.error (.refused ⟨rRANGE, 0⟩), w)
  else
    match g.lookup asid va.toNat with
    | some t =>
      match t.use g.node priv a va.toNat with
      | .ok pa => (.ok pa, w)
      | .error r => (.error (.refused r), w)
    | none =>
      match g.refusal mine asid ptroot priv a va with
      | some r => (.error (.refused r), w)
      | none =>
        (.error .walk,
          if g.walking asid va then w else w.setEng c (g.askWalk (.asked who asid ptroot va priv a w.cycle)))

/-- Where an address lies by the tables as they stand: what a unit asks that makes no access (log 14). -/
def World.peek (w : World) (c : Nat) (asid : BitVec 16) (ptroot : Word) (a : Access) (va : Word) : Option PhysAddr :=
  let g := w.eng c
  if bitsNat va 56 8 != 0 then none
  else
    match g.lookup asid va.toNat with
    | some t => (t.use g.node false a va.toNat).toOption
    | none => ((walk w.mem asid ptroot va.toNat).bind (fun t => t.use g.node false a va.toNat)).toOption

/-- Untranslated addresses of the privileged mode with XOFF (R131): local physical; beyond 50 bits absent (log 20). -/
def physicalOf (va : Word) : Except Refused PhysAddr :=
  if bitsNat va 56 8 != 0 then .error ⟨rRANGE, 0⟩
  else if bitsNat va 50 6 != 0 then .error ⟨rBUS, 0⟩
  else .ok ⟨false, 0, va.toNat⟩

/-- An untranslated access. -/
def physicalXlat (va : Word) : Except XlatStop PhysAddr := (physicalOf va).mapError .refused

/-- Is a walk the one that a control processor asked for last? -/
def Cp.askedFor (c : Cp) (k : Walk) : Bool := k.who == .cp && c.asked == some k.at'

/-- Translate an access of the control processor whose turn it is (R131). -/
def State.translate (s : State) (a : Access) (va : Word) : Except XlatStop PhysAddr × World :=
  if s.cp.prv && s.cp.xoff then (physicalXlat va, s.w)
  else s.w.translate s.cur .cp s.cp.askedFor s.cp.asid s.cp.ptroot s.cp.prv a va

/-- The control processor waits for a walk, in the world that holds its request: it tries again at its next turn. -/
def State.awaitWalk (s : State) (w : World) : State := (s.withWorld w).withCp { s.cp with asked := some s.w.cycle }

def TlbiKind.names (k : TlbiKind) (t : TlbEntry) : Bool :=
  match k with
  | .all => true
  | .asid a => !t.global && t.asid == a
  | .va a addr => (t.global || t.asid == a) && addr / 2 ^ t.bits * 2 ^ t.bits == t.va
  | .vaall addr => addr / 2 ^ t.bits * 2 ^ t.bits == t.va

end Sys2Proof.Machine
end

