-- ==== Sys2Proof/Machine/Fabric.lean ====
section
/-! DEFINITION. Firing a stage: which phase fires, the claims it makes, what it sends, and what else its firing changes
(R165 to R188, R224, R225, R251). -/

namespace Sys2Proof.Machine

/-! Vats seen from the fabric. -/

/-- A VAT_FAULT of slot `v` (R357): the trap and the event. -/
def World.vatFault (w : World) (c v vcause detail addr : Nat) (t1 t2 t3 : Word) : World :=
  let t0 : Word := BitVec.ofNat 64 (detail % 256 * 2 ^ 24 + vcause * 2 ^ 16 + addr * 8 + v)
  (w.raise c ⟨cVATFAULT, v, ⟨t0, t1, t2, t3⟩⟩).emit c (addrVat v) tVATFAULT
    (BitVec.ofNat 32 (v * 2 ^ 29 + vcause * 2 ^ 16 + addr * 8))

/-- A VAT_FAULT that a unit of the region causes: its controller reports it, and the region does not wait (R420). -/
def World.gridFault (w : World) (c v vcause detail addr : Nat) (t1 : Word) : World :=
  let t0 : Word := BitVec.ofNat 64 (detail % 256 * 2 ^ 24 + vcause * 2 ^ 16 + addr * 8 + v)
  w.report c ⟨addrVat v, tVATFAULT, BitVec.ofNat 32 (v * 2 ^ 29 + vcause * 2 ^ 16 + addr * 8),
    some ⟨cVATFAULT, v, ⟨t0, t1, 0, 0⟩⟩⟩

def vcARM : Nat := 0
def vcCFG : Nat := 1
def vcBLOCKED : Nat := 2
def vcCURDBIND : Nat := 3
def vcMERANGE : Nat := 4
def vcRESIDUE : Nat := 5
def vcTHRBLOCK : Nat := 6

/-- Is there an anchor whose rectangle holds stage `k` of element `e` as a replica (R183)? -/
def Eng.replicaOf (g : Eng) (v : Vat) (e k : Nat) : Bool :=
  isCe (BitVec.ofNat 7 e) && (List.range (e + 1)).any (fun a =>
    a % 8 ≤ e % 8 && a != e && (g.cfg a).replSet && (g.cfg a).replStage == k && v.has a &&
      e % 8 ≤ a % 8 + (g.cfg a).replW && e / 8 ≤ a / 8 + (g.cfg a).replH)

/-- The CE positions of an anchor's rectangle, row by row (R183). -/
def replicasOf (c : ElemCfg) (a : Nat) : List Nat :=
  (((List.range (c.replH + 1)).map (fun dy => (List.range (c.replW + 1)).map (fun dx =>
    8 * (a / 8 + dy) + a % 8 + dx))).flatten).filter (fun e => isCe (BitVec.ofNat 7 e) && e < 128)

/-- Does a phase take a token operand? -/
def PhaseCfg.takesToken (p : PhaseCfg) : Bool :=
  match p.stageOp with
  | none => false
  | some o =>
    match o.row.arity with
    | .reg | .none => false
    | .a | .aOrNone => isTokenSel p.selA
    | .ab => isTokenSel p.selA || isTokenSel p.selB
    | .abc => isTokenSel p.selA || isTokenSel p.selB || isTokenSel p.selC

/-- Is a stage a sink: configured, DST zero, with a token operand (R251)? -/
def StageCfg.isSink (s : StageCfg) : Bool :=
  s.configured && s.phases.toList.all (fun p => !p.written || p.dst == 0) && s.phases.toList.any (·.takesToken)

/-- Identifiers of sinks: stages, streams, matrix nodes. -/
def sinkStage (e k : Nat) : Nat := 8 * e + k
def sinkStream (s : Nat) : Nat := 4096 + s
def sinkMatrix (n : Nat) : Nat := 4352 + n

/-- Does a stream's mode make it a sink (R284, R290, R312)? -/
def Eng.streamIsSink (g : Eng) (s : Nat) : Bool :=
  let c := g.streamCfg s
  c.modeOf == mWRITE || c.modeOf == mSCATTER || c.modeOf == mKEYST ||
    (c.modeOf == mCOPY && (streamLink g.cfg s).isNone)

/-- The sinks that an active plane configures (R251, R393). -/
def Eng.sinksOf (g : Eng) (v : Vat) : List Nat :=
  let es := (List.range 128).filter (fun e => v.has e)
  ((es.map (fun e => ((List.range 6).filter (fun k =>
      ((g.cfg e).stage k).isSink && !g.replicaOf v e k)).map (sinkStage e))).flatten) ++
    (((List.range 32).filter (fun s => v.has (addrStream s) && (g.streamCfg s).used && g.streamIsSink s)).map
      sinkStream) ++
    (((List.range 4).filter (fun n => v.has (addrMatrix n))).map sinkMatrix)

/-- A sink reports (R251); when the last has, the vat is DRAINED (R253). -/
def Eng.report (g : Eng) (v id : Nat) : Eng :=
  let x := g.vat v
  if x.reported.contains id then g
  else
    let x := { x with reported := x.reported ++ [id] }
    let all := (g.sinksOf x).all (fun s => x.reported.contains s)
    let open_ := x.state == .armed || x.state == .running || x.state == .draining
    g.setVat v (if all && open_ then { x with state := .drained } else x)

/-! Claims (R169 to R171). -/

/-- The slots of an endpoint's pool and the reserves of its tags: (tag, RSV, endpoint). -/
def Eng.poolShape (g : Eng) (d : Endpoint) : Nat × List (Nat × Endpoint) :=
  match d with
  | .grid e p _ =>
    let c := (g.cfg e).inPort p
    (c.slots.toNat, ((List.range 8).filter (fun t => ltagEn (c.tag t))).map (fun t => (ltagRsv (c.tag t), .grid e p t)))
  | .stream s _ =>
    let c := g.streamCfg s
    (c.slots.toNat, ((List.range 2).filter (fun t => ltagEn (c.tag t))).map (fun t => (ltagRsv (c.tag t), .stream s t)))
  | .matrix _ _ => (8, [(0, d)])
  | .edge p => (if (Tbl.get g.ports EpState.reset p).shut then 0 else 8, [(0, d)])

/-- Is a token a press marker, which holds no slot (R364)? A malformed one becomes an ERR (R180), and does. -/
def Token.isPress (t : Token) : Bool := t.kind == kPRESS && (malformed t).isNone

/-- The tokens that hold slots of an endpoint's link: in flight and waiting (R170). -/
def Eng.held (g : Eng) (d : Endpoint) : List Token :=
  ((g.flights.filter (fun f => f.dest == d && !f.tok.isPress)).map (·.tok)) ++ (g.pool d).toks

def Eng.claimed (g : Eng) (d : Endpoint) : Nat := (g.held d).length

/-- The shared slots that an endpoint's link holds. -/
def Eng.claimedShared (g : Eng) (d : Endpoint) : Nat := ((g.held d).filter (·.shared)).length

/-- Free shared slots of the pool an endpoint belongs to (R170). -/
def Eng.sharedFree (g : Eng) (d : Endpoint) : Nat :=
  let (slots, tags) := g.poolShape d
  slots - (tags.map (·.1)).sum - (tags.map (fun t => g.claimedShared t.2)).sum

/-- Free reserved slots of an endpoint's tag (R170). -/
def Eng.reserveLeft (g : Eng) (d : Endpoint) : Nat :=
  (((g.poolShape d).2.filter (fun t => t.2 == d)).map (·.1)).sum - (g.claimed d - g.claimedShared d)

def Eng.reserveFree (g : Eng) (d : Endpoint) : Bool := 0 < g.reserveLeft d

/-- Does the endpoint's pool have a slot for one more token (R170)? -/
def Eng.hasSlot (g : Eng) (d : Endpoint) : Bool := g.reserveFree d || 0 < g.sharedFree d

/-! Links of a stage. -/

def Endpoint.tag : Endpoint → Nat
  | .grid _ _ t | .stream _ t => t
  | .matrix _ _ | .edge _ => 0

/-- Does a stage that reads an input port convert its tokens (R78)? -/
def convertsIn (c : ElemCfg) (p t : Nat) : Bool :=
  let f := ltagFmt ((c.inPort p).tag t)
  c.stages.toList.any (fun s => s.phases.toList.any (fun q =>
    match q.stageOp with
    | some o => o.interprets && q.fmt != f && (q.portsNamed.contains (p + 1) ||
        (!c.portsNamed.contains (p + 1) && t == 0 && (q.selA == 0 || q.selB == 0)))
    | none => false))

/-- Cycles that a conversion at the receiving end adds (R81). -/
def Eng.inDelay (g : Eng) (d : Endpoint) (fmt : BitVec 4) : Nat :=
  match d with
  | .grid e p t => if convertsIn (g.cfg e) p t then 1 else 0
  | .matrix n p => if p != 3 && (g.mxCfg n).fmt != fmt then 1 else 0
  | _ => 0

/-- The R bit an output port gives a token (R176). -/
def releases (w : BitVec 16) (t : Token) : Bool :=
  oportRel w == 2 || (oportRel w == 1 && t.isMarker)

/-- The last cycle in which something arrives at an endpoint. -/
def Eng.lastArrival (g : Eng) (d : Endpoint) : Nat :=
  (g.flights.filter (fun f => f.dest == d)).foldl (fun m f => max m f.arrive) 0

/-- Put a token on its way to an endpoint: one token of a link arrives in a cycle (R165). It takes a reserved slot of its
tag or a shared one (R170). -/
def Eng.launch (g : Eng) (d : Endpoint) (t : Token) (fmt : BitVec 4) (arrive : Nat) (shared : Bool) : Eng :=
  { g with flights := g.flights ++
    [⟨d, { t with tag := BitVec.ofNat 3 d.tag, shared := shared, cfgId := 0 }, fmt,
      max (arrive + g.inDelay d fmt) (g.lastArrival d + 1), false⟩] }

/-- The sending end of a firing: the units, the element, the flags of conversions. -/
structure Sending where
  g : Eng
  el : Elem
  flags : FlagSet

/-- Is a port's result converted by the sending router (R78)? PRUNE's metadata is no result of its format: it is never
converted. -/
def Fire.convertsOut (x : Fire) (p : Nat) : Bool :=
  x.op.interprets && oportFmt (x.cfg.outPort p) != x.pc.resFmt &&
    !(x.op == .prune && p + 1 == prunePort x.pc.arg)

/-- What a send through an output port asks for (R171): nothing, a slot at the end of the link, or more than there is,
where the port has no link or its converting router is still sending (R81). -/
inductive Ask where
  | free
  | slot (d : Endpoint)
  | full
deriving DecidableEq, Repr

/-- The format that the results of the stage reach a port's sending router in, where that router has to repack them:
it converts them (R78), or still holds a partly filled token (R455). -/
def Fire.repacks (x : Fire) (o : OutConv) (p : Nat) : Option (BitVec 4) :=
  if x.convertsOut p then some x.pc.resFmt
  else if o.elems.isEmpty then none
  else some (oportFmt (x.cfg.outPort p))

/-- A token as it leaves by a port: its R bit follows OPORT.REL (R176). -/
def Fire.leaving (x : Fire) (p : Nat) (t : Token) : Token := { t with r := releases (x.cfg.outPort p) t }

/-- What sending one token through output port `p` asks for. A detached branch has room (R399). -/
def Fire.askPort (x : Fire) (el : Elem) (p : Nat) (t : Token) : Ask :=
  if x.st.detached.getLsbD p then .free
  else
    let o := Tbl.get el.outs OutConv.empty p
    match linkOf x.eng.cfg x.e p with
    | none => .full
    | some (d, _) =>
      if !o.waiting.isEmpty then .full
      else
        match x.repacks o p with
        | none => .slot d
        | some src =>
          if (o.put x.k src (oportFmt (x.cfg.outPort p)) (x.leaving p t)).1.waiting.isEmpty then .free else .slot d

/-- Send one token through output port `p`, due at the port in cycle `due` (R167, R174). A detached branch discards it
and poisons the stage (R399). -/
def Fire.sendPort (x : Fire) (s : Sending) (p : Nat) (t : Token) (due : Nat) : Sending :=
  if x.st.detached.getLsbD p then { s with flags := s.flags ||| flagPoison }
  else
    match linkOf s.g.cfg x.e p with
    | none => s
    | some (d, hops) =>
      let fmt := oportFmt (x.cfg.outPort p)
      let t := x.leaving p t
      let shared := x.shared.contains d
      let o := Tbl.get s.el.outs OutConv.empty p
      match x.repacks o p with
      | none => { s with g := s.g.launch d t fmt (due + hops) shared }
      | some src =>
        let (o', fl) := o.put x.k src fmt t
        match o'.waiting with
        | [] => { s with el := { s.el with outs := Tbl.put s.el.outs p o' }, flags := s.flags ||| fl }
        | k :: rest =>
          { s with
            g := s.g.launch d k fmt (due + hops + 1) shared
            el := { s.el with outs := Tbl.put s.el.outs p { o' with waiting := rest } }
            flags := s.flags ||| fl }

/-- Insert a hold write by the cycle it is due. -/
def insertHold (w : Nat × Payload) : List (Nat × Payload) → List (Nat × Payload)
  | [] => [w]
  | x :: t => if w.1 < x.1 then w :: x :: t else x :: insertHold w t

/-- How many results of the stage may stand between it and a later stage (R6, R184). -/
def Fire.places (x : Fire) : Nat :=
  if x.cfg.replSet && x.cfg.replStage == x.k then x.pc.latency * (replicasOf x.cfg x.e).length else x.pc.latency

/-- Send one token to a destination of DST (R58, R174): bits 0 to 5 a stage, 6 the hold register, 8 to 15 a port. -/
def Fire.sendTo (x : Fire) (due : Nat) (s : Sending) (q : Nat × Token) : Sending :=
  let (d, t) := q
  let t := { t with r := false, shared := false }
  if d < 6 then
    let st := s.el.stage d
    let l := (Tbl.find st.inq x.k).getD []
    { s with el := s.el.setStage d { st with inq := Tbl.put st.inq x.k (l ++ [(due, t)]) } }
  else if d = 6 then
    let st := s.el.stage x.k
    { s with el := s.el.setStage x.k { st with holdNext := insertHold (due, t.data) st.holdNext } }
  else x.sendPort s (d - 8) t due

/-- Send all tokens of a firing. -/
def Fire.sendAll (x : Fire) (due : Nat) (s : Sending) (ts : List (Nat × Token)) : Sending :=
  ts.foldl (x.sendTo due) s

/-- The cycle in which the results of a firing are due: L cycles on; from a replica no earlier than the way there and
back, and not before an earlier result (R167, R184). DESIGN CHOICE: the copy that is collected of a token other than DATA
is the anchor's own, at distance 0 (log 17): the rule names no replica for it. -/
def Fire.due (x : Fire) (data : Bool) : Nat :=
  let l := x.pc.latency
  if x.cfg.replSet && x.cfg.replStage == x.k then
    let d := if data then
        (max (x.e % 8) (x.rep.elem % 8) - min (x.e % 8) (x.rep.elem % 8)) + (x.rep.elem / 8 - x.e / 8)
      else 0
    match x.st.lastOut with
    | some o => max (o + 1) (x.now + l + 2 * d)
    | none => x.now + l + 2 * d
  else x.now + l

/-- What stands at the sending end before anything is sent: the tokens consumed are gone, their slots free (R170). -/
def Fire.start (x : Fire) (f : Firing) : Sending where
  g := f.gots.foldl (fun g q => g.consume x.e q) x.eng
  el := f.gots.foldl (fun e q => e.consume x.k q) f.el
  flags := 0

/-- A register with the contributions of this cycle entered that are on their way to it (R94, R95). -/
def Eng.curdThen (g : Eng) (n : Nat) : Curd :=
  (g.entering.filter (fun k => k.reg.toNat = n)).foldl (fun c k =>
    match c.bound k.bind with
    | some j => c.enter j k.contrib
    | none => c) (g.curd n)

/-- Can a register take one more contribution of a unit (R94, R95)? An unbound one is always taken, and discarded. -/
def Eng.contribRoom (g : Eng) (n : Nat) (bind : BitVec 16) : Bool :=
  let c := g.curdThen n
  match c.bound bind with
  | some j => c.hasRoom j
  | none => true

/-- A contribution on its way. -/
def Eng.addEntering (g : Eng) (k : Entering) : Eng := { g with entering := g.entering ++ [k] }

/-- The contribution of a firing as it sets out. DESIGN CHOICE: a replicated CONTRIB stage contributes as the anchor's
element, whichever replica computes, and once for a token that goes to all of them (log 17): R94 binds a position to an
element and R183 does not say which of a replicated stage's it is. -/
def Fire.entering (x : Fire) (f : Firing) : Option Entering :=
  f.contrib.map (fun q => ⟨q.1, bindCe (BitVec.ofNat 7 x.e), x.e, some x.k, some x.vat, q.2⟩)

def Fire.contribRoom (x : Fire) (f : Firing) : Bool :=
  match x.entering f with
  | none => true
  | some k => x.eng.contribRoom k.reg.toNat k.bind

/-- Has a stream an access that is issued and not performed: FAULTED, or waiting on a page walk, its own or another's of the
page, or on the memory (R177)? -/
def Eng.accessPending (g : Eng) (s : Nat) : Bool :=
  let x := Tbl.get g.streams Stream.reset s
  x.state == .faulted || x.pending || g.walks.any (fun k => k.who == .stream s)

/-- No release is pending on the output (R105, R173, R177): no token will carry R and no contribution closes, or every stream
of the release set has performed its accesses. An element's own accesses take effect as it fires (R221). -/
def Fire.released (x : Fire) (f : Firing) : Bool :=
  !(f.sends.any (fun q => 8 ≤ q.1 && (x.leaving (q.1 - 8) q.2).r) || f.contrib.any (fun q => q.2.close)) ||
    (List.range 32).all (fun s => !x.cfg.rset.getLsbD s || !x.eng.accessPending s)

/-- Has stage `d` of an element a free place for a token of this stage (R174)? -/
def Fire.placeIn (x : Fire) (el : Elem) (d : Nat) : Bool :=
  ((Tbl.find (el.stage d).inq x.k).getD []).length < x.places

/-- The output ports that a firing sends on, with what it asks for there. -/
def Fire.asks (x : Fire) (f : Firing) : List (Nat × Ask) :=
  (f.sends.filter (fun q => 8 ≤ q.1)).map (fun q => (q.1 - 8, x.askPort x.el (q.1 - 8) q.2))

/-! In-band configuration (R186 to R188). -/

def cfgAddr (w : BitVec 32) : Nat := (w.extractLsb' 22 10).toNat
def cfgField (w : BitVec 32) : BitVec 6 := w.extractLsb' 16 6
def cfgValue (w : BitVec 32) : BitVec 16 := w.extractLsb' 0 16

/-- Is ADDR no unit of a core (R50): neither element, address generator, node, edge port nor vat controller? -/
def addrReserved (a : Nat) : Bool := (0x094 ≤ a && a ≤ 0x097) || (0x0A8 ≤ a && a < 0x3FC)

/-- What in-band words change: the element's configuration, whether the stage's phase restarts, an address error. -/
structure InBand where
  cfg : ElemCfg
  restart : Bool
  addrError : Bool

/-- One word of a CFG token at stage `k` of element `e` (R186); `kreg` says that the stage applies KSEL and KDATA
words. -/
def InBand.word (e k : Nat) (kreg : Bool) (b : InBand) (w : BitVec 32) : InBand :=
  if addrReserved (cfgAddr w) then { b with addrError := true }
  else if cfgAddr w != e then b
  else
    let f := cfgField w
    let v := cfgValue w
    let e7 := BitVec.ofNat 7 e
    let n := f.toNat
    if 0x32 ≤ n || (!isCe e7 && 0x10 ≤ n) then { b with cfg := b.cfg.block f }
    else if n = 0x30 || n = 0x31 then (if kreg then { b with cfg := b.cfg.apply e7 f v } else b)
    else if n / 8 = k then { b with cfg := b.cfg.apply e7 f v, restart := b.restart || n % 8 == 0 }
    else b

/-- The words of CFG tokens, in lane order and operand order (R186, R234), at stage `k` of element `e`; `kreg` says of
which tokens the KSEL and KDATA words are for this stage. -/
def inBandWords (e k : Nat) (kreg : Token → Bool) (c : ElemCfg) (toks : List Token) : InBand :=
  let b := toks.foldl (fun b t =>
    ((List.range (min t.valid.toNat 16)).map (lane t.data)).foldl (InBand.word e k (kreg t)) b) ⟨c, false, false⟩
  if toks.isEmpty then b else { b with cfg := b.cfg.checked (BitVec.ofNat 7 e) }

/-- DST names no stage of the element: this stage applies the KSEL and KDATA words that no other has (R186). -/
def Fire.lastStage (x : Fire) : Bool := x.pc.dst.extractLsb' 0 6 == 0

def Fire.inBand (x : Fire) (toks : List Token) : InBand :=
  inBandWords x.e x.k (fun t => x.lastStage && !x.el.cfgDone.contains t.cfgId) x.cfg toks

/-- The element after CFG tokens have been taken: those whose KSEL and KDATA words are applied, as long as copies of them
may be under way. -/
def Fire.cfgDone (x : Fire) (toks : List Token) (el : Elem) : Elem :=
  if x.lastStage && !toks.isEmpty then
    let held := (el.stages.toList.map (fun st => (st.inq.map (fun q => q.2.map (·.2.cfgId))).flatten)).flatten
    { el with cfgDone := (el.cfgDone ++ toks.map (·.cfgId)).filter (fun i => held.contains i) }
  else el

/-! Committing a firing. -/

/-- Count a firing (R182): after REP counted firings the stage moves on. A handler firing, and one that settles what an
earlier phase owes, is not counted. -/
def Fire.nextPhase (x : Fire) (f : Firing) (st : StageState) : StageState :=
  if f.counted && x.handler.isNone && !x.owed then
    let rep := x.pc.rep.toNat
    let n := st.count + 1
    if rep != 0 && rep ≤ n then
      { st with phase := if st.phase == (x.cfg.stage x.k).last then 0 else st.phase + 1, count := 0 }
    else { st with count := if rep = 0 then st.count else n }
  else st

/-- The replicas that a firing goes to: all of them for tokens other than DATA (R184). -/
def Fire.targets (x : Fire) (f : Firing) : List Nat :=
  if x.cfg.replSet && x.cfg.replStage == x.k && !f.counted then replicasOf x.cfg x.e else [x.rep.elem]

def isConv (o : Option StageOp) : Bool := o == some .cvt || o == some .ftoi || o == some .itof

/-- The draws a firing takes for each lane (R69): one for each element slot; a conversion takes them when it sends. -/
def Fire.drawsOf (x : Fire) (f : Firing) : Nat :=
  if !x.pc.isSr then 0 else if isConv (some x.op) then f.draws else perLane x.pc.fmt

/-- The stage after a firing: phase, hold register, last firing (R174, R182, R184). Its branch counters return to zero
(R398). -/
def Fire.stageAfter (x : Fire) (f : Firing) (due : Nat) (st : StageState) : StageState :=
  let st := x.nextPhase f st
  let n := (replicasOf x.cfg x.e).length
  { st with
    hold := st.holdAt x.now
    holdNext := st.holdNext.filter (fun w => x.now < w.1)
    lastFire := some x.now
    branch := []
    told := 0
    lastOut := if f.sends.isEmpty then st.lastOut else some (if x.cfg.replSet then due else x.now)
    replica := if x.cfg.replSet && x.cfg.replStage == x.k then
        (if f.counted && x.rep.index + 1 < n then x.rep.index + 1 else 0)
      else st.replica
    dead := st.dead || f.range.isSome }

/-- The generators of one stage stepped (R69). -/
def Eng.stepSr (g : Eng) (e k draws : Nat) : Eng :=
  if draws = 0 then g
  else
    let x := g.elem e
    let st := x.stage k
    g.setElem e (x.setStage k { st with sr := srAfter st.sr draws })

/-- The flags a firing leaves in its stage (R79, R192). -/
def Firing.allFlags (f : Firing) (sent : FlagSet) : FlagSet :=
  f.gots.foldl (fun fl g => fl ||| g.taken.flags) (f.flags ||| sent) |||
    flagIf (f.poisons && f.gots.any (fun g => g.tok.p)) flagPoison

/-- Store the words a firing writes to its bank. -/
def World.storeBank (w : World) (c e : Nat) (bank : List (Nat × BitVec 32)) : World :=
  bank.foldl (fun w q => w.store (bankWordAddr c e q.1) (leBytes 4 q.2.toNat)) w

/-- The vat after a firing in its region (R124, R253). -/
def Vat.fired (v : Vat) (now : Nat) : Vat :=
  { v with state := if v.state == .armed then .running else v.state, lastFire := now, stallReported := false }

/-- Is a plane's vat scheduled (R264)? -/
def Plane.scheduled (p : Plane) : Bool := (Tbl.get p.ctl 0 0).getLsbD 0

/-- A record with one more token behind it (R263): a THR token begins one; a token outside a record belongs to none. -/
def formAfter (l : List Token) (t : Token) : List Token :=
  if t.kind == kTHR then [t] else if l.isEmpty then [] else l ++ [t]

/-- Is a record complete? -/
def recordWhole : List Token → Bool
  | [] => false
  | h :: t => h.level.toNat ≤ t.length

/-- A sink of a scheduled vat notes the token it consumed (R265). -/
def Eng.formRecord (g : Eng) (v key : Nat) (t : Option Token) : Eng :=
  match t, (g.vat v).active with
  | some t, some p =>
    if p.scheduled then
      { g with sched := { g.sched with
        forming := Tbl.put g.sched.forming key (formAfter (Tbl.get g.sched.forming [] key) t) } }
    else g
  | _, _ => g

/-- Is operand A of the firing a token operand (R251)? -/
def Fire.tokenA (x : Fire) : Bool := x.handler.isSome || isTokenSel x.pc.selA

/-- Change the active plane of an element: what its stream gave it is kept beside it (R367). -/
def Eng.alter (g : Eng) (e : Nat) (c : ElemCfg) : Eng :=
  if c = g.cfg e then g
  else { g with active := Tbl.put g.active e c, activeRead := Tbl.put g.activeRead e (Tbl.get g.activeRead (g.cfg e) e) }

/-- The configuration after a firing's in-band words: those for its own element, and those for the replicas that a CFG
token goes to (R184, R186). -/
def Fire.applyCfg (x : Fire) (f : Firing) (b : InBand) (g : Eng) : Eng :=
  if f.cfgToks.isEmpty then g
  else
    ((x.targets f).filter (· != x.e)).foldl (fun g r =>
      g.alter r (inBandWords r x.k (fun _ => x.lastStage) (g.cfg r) f.cfgToks).cfg) (g.alter x.e b.cfg)

/-- The elements that a firing's in-band words made BLOCKED, from the next cycle on (R188). -/
def Fire.newlyBlocked (x : Fire) (g : Eng) : List (Nat × BitVec 6) :=
  g.active.filterMap (fun q =>
    match q.2.blocked with
    | some f => if (x.eng.cfg q.1).blocked.isNone then some (q.1, f) else none
    | none => none)

/-- Note from when elements are BLOCKED. -/
def Eng.blockFrom (g : Eng) (now : Nat) (l : List (Nat × BitVec 6)) : Eng :=
  l.foldl (fun g q => g.setElem q.1 { g.elem q.1 with blockedFrom := some (now + 1) }) g

/-- A committed firing. DESIGN CHOICE: at a sink whose firing consumes tokens on two operands, the first of them joins the
record being formed (log 30): R265 speaks of the token that a sink consumes. -/
def Fire.commit (x : Fire) (f : Firing) : World :=
  let due := x.due f.counted
  let s := x.sendAll due (x.start f) f.sends
  let b := x.inBand f.cfgToks
  let el := x.cfgDone f.cfgToks s.el
  let st := x.stageAfter f due (el.stage x.k)
  let st := if b.restart then { st with phase := 0, count := 0 } else st
  let el := el.setStage x.k st
  let g := x.applyCfg f b (s.g.setElem x.e el)
  let stopped := if f.cfgToks.isEmpty then [] else x.newlyBlocked g
  let g := g.blockFrom x.now stopped
  let g := (x.targets f).foldl (fun g r => g.stepSr r x.k (x.drawsOf f)) g
  let g := g.raiseStage x.vat x.rep.elem x.k (f.allFlags s.flags) x.now
  let v := (g.vat x.vat).fired x.now
  let g := g.setVat x.vat { v with addrError := v.addrError || b.addrError }
  let sink := (x.cfg.stage x.k).isSink
  let g := if sink && x.tokenA && f.aTok.any (fun t => t.kind == kEOS) then g.report x.vat (sinkStage x.e x.k) else g
  let g := if sink then g.formRecord x.vat (sinkStage x.e x.k) ((f.gots.head?).map (·.tok)) else g
  let g :=
    match x.entering f with
    | some k => g.addEntering k
    | none => g
  let w := (x.w.setEng x.c g).storeBank x.c x.e f.bank
  let w :=
    match f.range with
    | some a => w.gridFault x.c x.vat vcMERANGE 0 x.e (a.setWidth 64)
    | none => w
  let w :=
    match f.ecc with
    | some a => w.eccPend x.c 128 (memAt a) a false 0
    | none => w
  stopped.foldl (fun w q => w.gridFault x.c x.vat vcBLOCKED q.2.toNat q.1 0) w

/-! Which phase fires (R172, R182, R224). -/

/-- Does a phase that is not the current one still owe tokens of a result (R224)? DESIGN CHOICE: PRUNE's kept elements
that fill no token yet stay with their phase (log 17): the rule flushes CVT, FTOI and ITOF alone. -/
def owes (sc : StageCfg) (st : StageState) (q : BitVec 2) : Bool :=
  let p := sc.phase q
  let s := st.opState q
  let cur := sc.phase st.phase
  q != st.phase &&
    (match p.stageOp with
     | some .cvt | some .ftoi | some .itof =>
       !s.out.isEmpty || fullToken p.resFmt ≤ s.elems.length ||
         (!s.elems.isEmpty && (p.fmt != cur.fmt || p.resFmt != cur.resFmt))
     | some .count => p.selA != 15 && s.base != 0
     | some .sploop | some .isect | some .eosgen | some .prune => !s.out.isEmpty
     | _ => false)

/-- Elements that a conversion of another phase with the same formats left pass to the conversion of this phase
(R224: none is lost). -/
def carryOver (sc : StageCfg) (st : StageState) (ph : BitVec 2) : StageState :=
  let p := sc.phase ph
  if isConv p.stageOp then
    [0, 1, 2, 3].foldl (fun st q =>
      let o := sc.phase q
      if q != ph && isConv o.stageOp && o.fmt == p.fmt && o.resFmt == p.resFmt && !(st.opState q).elems.isEmpty then
        let moved := (st.opState q).elems
        let st := st.setOpState q { st.opState q with elems := [] }
        st.setOpState ph { st.opState ph with elems := moved ++ (st.opState ph).elems }
      else st) st
  else st

/-- The handler tag that operand A's port offers (R172): the lowest one with a token. -/
def handlerTag (g : Eng) (e : Nat) (c : ElemCfg) (p : PhaseCfg) : Option (Nat × Nat) :=
  let a := p.selA.toNat
  if 1 ≤ a && a ≤ 8 && p.stageOp.isSome then
    let named : List Nat :=
      if p.stageOp == some .merge then [(p.low.extractLsb' 3 3).toNat, (p.low.extractLsb' 0 3).toNat] else []
    ((List.range 8).find? (fun t =>
      let w := (c.inPort (a - 1)).tag t
      ltagEn w && ltagHen w && !named.contains t && !(g.pool (.grid e (a - 1) t)).toks.isEmpty)).map
        (fun t => (a - 1, t))
  else none

/-- The phase that fires next, the handler tag, and whether it is owed. -/
def phaseOf (g : Eng) (e k : Nat) (c : ElemCfg) (st : StageState) : BitVec 2 × Option (Nat × Nat) × Bool :=
  let sc := c.stage k
  match [(0 : BitVec 2), 1, 2, 3].find? (fun q => owes sc st q) with
  | some q => (q, none, true)
  | none =>
    match handlerTag g e c (sc.phase st.phase) with
    | some (p, t) => (ltagHph ((c.inPort p).tag t), some (p, t), false)
    | none => (st.phase, none, false)

/-- The phase of a stage as a replica computes it (R183): operation, MOD and ARG are the replica's, the operands that the
anchor reads, its destinations and its repeat count are the anchor's. -/
def Eng.dealtPhase (g : Eng) (e r k : Nat) (ph : BitVec 2) : PhaseCfg :=
  let a := ((g.cfg e).stage k).phase ph
  if r = e then a
  else
    let b := ((g.cfg r).stage k).phase ph
    { a with
      op := b.op.extractLsb' 8 8 ++ a.op.extractLsb' 0 8
      mod := b.mod
      arg := if b.stageOp.any (fun o => o.row.arity == .abc) then a.arg else b.arg }

/-- Stage `k` of element `e` in view: its vat is live, its element neither BLOCKED nor stopped by a press, the stage not
stopped and no replica of another element's stage (R183, R188, R365). -/
def World.viewAt (w : World) (c e k : Nat) : Option Fire :=
  let g := w.eng c
  match g.vatOf e with
  | none => none
  | some v =>
    let cfg := g.cfg e
    let el := g.elem e
    let st := el.stage k
    if cfg.blocked.isSome || el.pressed || st.dead then none
    else
      let (ph, handler, owed) := phaseOf g e k cfg st
      let rep : Replica :=
        if cfg.replSet && cfg.replStage == k then
          ⟨st.replica, (replicasOf cfg e).getD st.replica e⟩
        else ⟨0, e⟩
      let pc := g.dealtPhase e rep.elem k ph
      match pc.stageOp with
      | none => none
      | some op =>
        if g.replicaOf (g.vat v) e k then none
        else
          some {
            w := w, c := c, e := e, k := k, cfg := cfg, ph := ph, pc := pc, op := op
            el := el.setStage k (carryOver (cfg.stage k) st ph)
            vat := v, nbv := (g.vat v).nbv, handler := handler, owed := owed, rep := rep, shared := [] }

/-- A stage that may fire in this cycle: one that has not fired in it yet (R6, R173). -/
def World.fireAt (w : World) (c e k : Nat) : Option Fire :=
  match w.viewAt c e k with
  | none => none
  | some x => if (x.el.stage k).lastFire == some w.cycle then none else some x

/-- What a firing of each operation does (R196, R219). -/
def planOf (op : StageOp) (x : Fire) : Option Firing :=
  match op with
  | .pass => planPass x
  | .const => planConst x
  | .delay => planDelay x
  | .iadd => planIadd x
  | .isub => planIsub x
  | .imul => planImul x
  | .imulh => planImulh x
  | .imac => planImac x
  | .ineg => planIneg x
  | .iabs => planIabs x
  | .imin => planImin x
  | .imax => planImax x
  | .isadd => planIsadd x
  | .issub => planIssub x
  | .iclamp => planIclamp x
  | .stageAnd => planStageAnd x
  | .stageOr => planStageOr x
  | .stageXor => planStageXor x
  | .stageNot => planStageNot x
  | .stageShl => planStageShl x
  | .stageShr => planStageShr x
  | .stageSar => planStageSar x
  | .icmp => planIcmp x
  | .sel => planSel x
  | .idot4 => planIdot4 x
  | .idot2 => planIdot2 x
  | .fadd => planFadd x
  | .fsub => planFsub x
  | .fmul => planFmul x
  | .fma => planFma x
  | .fnma => planFnma x
  | .fmin => planFmin x
  | .fmax => planFmax x
  | .fabs => planFabs x
  | .fneg => planFneg x
  | .fcmp => planFcmp x
  | .fclamp => planFclamp x
  | .rcp => planRcp x
  | .rsq => planRsq x
  | .sqrt => planSqrt x
  | .exp2 => planExp2 x
  | .log2 => planLog2 x
  | .exp => planExp x
  | .log => planLog x
  | .tanh => planTanh x
  | .sigm => planSigm x
  | .cvt => planCvt x
  | .rint => planRint x
  | .ftoi => planFtoi x
  | .itof => planItof x
  | .lsum => planLsum x
  | .lmax => planLmax x
  | .lmin => planLmin x
  | .lscan => planLscan x
  | .lrec => planLrec x
  | .shuf => planShuf x
  | .bcast => planBcast x
  | .lrot => planLrot x
  | .steer => planSteer x
  | .merge => planMerge x
  | .switch => planSwitch x
  | .route => planRoute x
  | .gate => planGate x
  | .count => planCount x
  | .sploop => planSploop x
  | .isect => planIsect x
  | .seqno => planSeqno x
  | .eosgen => planEosgen x
  | .prune => planPrune x
  | .contrib => planContrib x
  | .mrd => planMrd x
  | .mwr => planMwr x
  | .macc => planMacc x
  | .mpush => planMpush x
  | .mpop => planMpop x
  | .mreord => planMreord x

end Sys2Proof.Machine
end

