-- ==== Sys2Proof/Machine/Delivery.lean ====
section
/-! DEFINITION. Tokens that arrive: the checks an input port's router makes, the pools, press markers, and what a
converting router still has to send (R76, R80, R165, R180, R186, R364, R365). -/

namespace Sys2Proof.Machine

/-! What a router makes of a token (R76, R180, R186). -/

/-- Is a CFG token malformed: empty, or holding a framing word (R186)? -/
def cfgMalformed (t : Token) : Bool :=
  t.kind == kCFG && (t.valid == 0 ||
    (List.range (min t.valid.toNat 16)).any (fun i => 0x3FC ≤ cfgAddr (lane t.data i)))

/-- A channel that carries SCALE tokens (R76). -/
def scaledChannel (f : BitVec 4) : Bool := 4 ≤ f.toNat && f.toNat ≤ 9

/-- The token as the router at ADDR `addr` delivers it, on a channel whose ends have formats `f` and `h`. A router never
changes R (R177), so an ERR keeps that of the token it replaces. -/
def routed (addr : Nat) (f h : BitVec 4) (t : Token) : Token :=
  let err (cls : BitVec 4) : Token :=
    { errToken cls (BitVec.ofNat 32 addr) (t.sideband.setWidth 32) with tag := t.tag, r := t.r }
  match malformed t with
  | some cls => err cls
  | none =>
    if cfgMalformed t then err clsCONFIG
    else if t.kind == kSCALE && !(scaledChannel f && scaledChannel h) then err clsFORMAT
    else t

/-- A token whose parity check has failed on its link, as the router at its end delivers it (R448). -/
def spoiltErr (addr : Nat) (t : Token) : Token :=
  { errToken clsMEMORY (BitVec.ofNat 32 addr) (t.sideband.setWidth 32) with tag := t.tag, r := t.r }

/-! Press markers (R364, R365). -/

/-- Send a press marker to an endpoint, behind every token on the way there. -/
def Eng.launchMarker (g : Eng) (d : Endpoint) (arrive : Nat) : Eng :=
  { g with flights := g.flights ++
    [⟨d, { plainToken kPRESS with tag := BitVec.ofNat 3 d.tag }, 0, max arrive (g.lastArrival d + 1), false⟩] }

/-- Flush what a converting router holds, and put the marker behind it (R80, R365); the flags of the conversion. -/
def OutConv.flushMarker (o : OutConv) (target : BitVec 4) : OutConv × FlagSet :=
  if o.elems.isEmpty then ({ o with waiting := o.waiting ++ [plainToken kPRESS] }, 0)
  else
    let (t, fl) := convToken target o.elems
    ({ o with elems := [], waiting := o.waiting ++ [t, plainToken kPRESS] }, fl)

/-- The markers of an element's output ports (R365). The flags of a flush are those of the stage that sent last (R79). -/
def Eng.markPort (g : Eng) (now e p : Nat) : Eng :=
  match linkOf g.cfg e p with
  | none => g
  | some (d, hops) =>
    let x := g.elem e
    let o := Tbl.get x.outs OutConv.empty p
    if o.elems.isEmpty && o.waiting.isEmpty then g.launchMarker d (now + 1 + hops)
    else
      let (o', fl) := o.flushMarker (oportFmt ((g.cfg e).outPort p))
      let g := g.setElem e { x with outs := Tbl.put x.outs p o' }
      match g.vatOf e with
      | some v => g.raiseStage v e o.stage fl now
      | none => g

/-- An element stops for a press: it fires no more and sends a marker on every output tag (R365). -/
def Eng.stopElem (g : Eng) (now e : Nat) : Eng :=
  let x := g.elem e
  if x.pressed then g
  else (List.range 8).foldl (fun g p => g.markPort now e p) (g.setElem e { x with pressed := true })

/-- The units without the marks of a press: they continue where they stand. -/
def Eng.unmarked (g : Eng) : Eng :=
  { g with
    elems := g.elems.map (fun q => (q.1, { q.2 with
      pressed := false, saved := false
      outs := q.2.outs.map (fun o => (o.1, { o.2 with waiting := o.2.waiting.filter (·.kind != kPRESS) })) }))
    streams := g.streams.map (fun q => (q.1, { q.2 with pressed := false, saved := false }))
    mx := g.mx.map (fun q => (q.1, { q.2 with pressed := false, saved := false }))
    ports := g.ports.map (fun q => (q.1, { q.2 with pressed := false, saved := false }))
    pools := g.pools.map (fun q => (q.1, { q.2 with marker := none }))
    walks := [], press := none }

/-! Links by their consumers. -/

/-- ADDR of the unit an endpoint belongs to. -/
def Endpoint.addr : Endpoint → Nat
  | .grid e _ _ => e
  | .stream s _ => addrStream s
  | .matrix n _ => addrMatrix n
  | .edge p => addrEdge p

/-- The receiving format of a link (R181, R377); an edge port has none. -/
def Eng.linkFmt (g : Eng) (d : Endpoint) (sent : BitVec 4) : BitVec 4 :=
  match d with
  | .grid e p t => ltagFmt (((g.cfg e).inPort p).tag t)
  | .stream s t => ltagFmt ((g.streamCfg s).tag t)
  | _ => sent

/-! The tokens of a region (R124, R227). -/

/-- The endpoint of a key in the table of pools. -/
def endpointOfKey (k : Nat) : Endpoint :=
  if k < 8192 then .grid (k / 64) (k / 8 % 8) (k % 8)
  else if k < 8256 then .stream ((k - 8192) / 2) (k % 2)
  else if k < 8272 then .matrix ((k - 8256) / 4) (k % 4)
  else .edge (k - 8272)

/-- The links whose consumers lie in a region and that hold tokens, waiting or under way (R170), by consumer address, port
and tag. -/
def Eng.residue (g : Eng) (has : Nat → Bool) : List Endpoint :=
  let full := (g.pools.filter (fun q => !q.2.toks.isEmpty)).map (·.1)
  let sent := (g.flights.filter (fun f => !f.tok.isPress)).map (fun f => f.dest.key)
  (((sent.foldl (fun (t : Tbl Unit) k => Tbl.put t k ()) (full.map (fun k => (k, ())))).map (fun q => endpointOfKey q.1)).filter
    (fun d => has d.addr))

/-- Empty the pools whose consumers lie in a region. -/
def Eng.emptyPools (g : Eng) (has : Nat → Bool) : Eng :=
  { g with pools := g.pools.map (fun q => if has (endpointOfKey q.1).addr then (q.1, InQueue.empty) else q) }

/-- Is there a token in a link of a region, on its tracks or between its stages? -/
def World.tokensPresent (w : World) (c : Nat) (has : Nat → Bool) : Bool :=
  let g := w.eng c
  g.flights.any (fun f => has f.dest.addr) || !(g.residue has).isEmpty ||
    g.elems.any (fun q => has q.1 &&
      (q.2.outs.any (fun o => !o.2.elems.isEmpty || !o.2.waiting.isEmpty) ||
        q.2.stages.toList.any (fun st => st.inq.any (fun i => !i.2.isEmpty))))

/-- A token from outside the grid sets out for a unit: the stall watchdog of a region without tokens counts from now
(R124, R237). -/
def World.wakeVat (w : World) (c addr : Nat) : World :=
  let g := w.eng c
  match g.vatOf addr with
  | none => w
  | some v =>
    let x := g.vat v
    if w.tokensPresent c x.has then w else w.setEng c (g.setVat v { x with lastFire := w.cycle })

/-! Arrival (R165, R188). -/

/-- Is the unit at a link's end BLOCKED? -/
def Eng.blockedAt (g : Eng) (d : Endpoint) : Bool :=
  match d with
  | .grid e _ _ => (g.cfg e).blocked.isSome
  | .stream s _ => (g.streamCfg s).blocked.isSome
  | .matrix n _ => (g.mxCfg n).blocked.isSome
  | .edge p => (g.epCfg p).blocked.isSome

/-- The sending end of a link: an output port, or an edge unit by its ADDR. -/
inductive Sender where
  | port (e p : Nat)
  | unit (addr : Nat)

/-- The sending end of the link that ends at an endpoint (R169: at most one). -/
def Eng.senderOf (g : Eng) (d : Endpoint) : Option Sender :=
  let ends (l : Option (Endpoint × Nat)) : Bool := l.any (fun l => l.1 == d)
  (g.active.findSome? (fun q =>
    ((List.range 8).find? (fun p => ends (linkOf g.cfg q.1 p))).map (fun p => Sender.port q.1 p))) <|>
  (((List.range 32).find? (fun s => ends (streamLink g.cfg s))).map (fun s => Sender.unit (addrStream s))) <|>
  (((List.range 4).find? (fun n => ends (matrixLink g.cfg n))).map (fun n => Sender.unit (addrMatrix n))) <|>
  (((List.range 8).find? (fun p => ends (edgeLink g.cfg p))).map (fun p => Sender.unit (addrEdge p)))

/-- The routers that the link to an endpoint passes, in order. -/
def Eng.routeTo (g : Eng) (d : Endpoint) : List Nat :=
  let out (e p : Nat) : List Nat :=
    match portTracks (g.cfg e) p with
    | t :: _ => passedFrom g.cfg followFuel e (portSide p) t
    | [] => []
  let enter (e side trk : Nat) : List Nat := passedAt g.cfg followFuel e side trk
  match g.senderOf d with
  | some (.port e p) => out e p
  | some (.unit a) =>
    if a < 0x90 then
      match [2 * (a - 0x80), 2 * (a - 0x80) + 1].find? (fun s => (streamLink g.cfg s).any (fun l => l.1 == d)) with
      | some s => enter (streamHome s) (streamSide s) 0
      | none => []
    else if a < 0x98 then enter (2 * (a - 0x90) + 1) 0 1
    else enter (120 + (a - 0x98)) 2 0
  | none => []

/-- Is a token that would arrive in a cycle held by a router that was BLOCKED as it came there (R188)? It is in the
j-th router of `n` in the cycle n − j before the one in which it arrives. -/
def Eng.heldUp (g : Eng) (f : Flight) : Bool :=
  if g.elems.any (fun q => q.2.blockedFrom.isSome) then
    let rs := g.routeTo f.dest
    rs.zipIdx.any (fun q =>
      match (g.elem q.1).blockedFrom with
      | some b => b + (rs.length - q.2) ≤ f.arrive
      | none => false)
  else false

/-- May the n-th token in flight arrive: its cycle has come, no token before it on its link is still under way, and no
BLOCKED element holds it? -/
def Eng.mayArrive (g : Eng) (now n : Nat) : Bool :=
  match g.flights[n]? with
  | some f =>
    f.arrive ≤ now && !g.blockedAt f.dest && !(g.flights.take n).any (fun h => h.dest == f.dest) && !g.heldUp f
  | none => false

/-- A token reaches its endpoint (R165, R180, R364): its router makes an ERR of a malformed one or one whose parity check fails (R448), latches a well-formed
press marker, and puts any other behind those that wait. -/
def Eng.arrive (g : Eng) (now : Nat) (f : Flight) : Eng :=
  let q := g.pool f.dest
  let t := if f.spoilt then spoiltErr f.dest.addr f.tok
    else routed f.dest.addr f.fmt (g.linkFmt f.dest f.fmt) f.tok
  if t.kind == kPRESS then
    let g := g.setPool f.dest { q with marker := some t }
    match f.dest with
    | .grid e _ _ => g.stopElem now e
    | _ => g
  else g.setPool f.dest { q with toks := q.toks ++ [{ t with shared := f.tok.shared }], fmt := f.fmt }

/-- Take the n-th element off a list. -/
def dropAt {α : Type} (l : List α) (n : Nat) : List α := l.take n ++ l.drop (n + 1)

/-- The n-th token in flight arrives, if it may. -/
def Eng.deliverOne (g : Eng) (now n : Nat) : Eng :=
  match g.flights[n]? with
  | some f => if g.mayArrive now n then { g with flights := dropAt g.flights n }.arrive now f else g
  | none => g

/-- Every token whose cycle has come arrives, the first sent first. -/
def Eng.deliverDue (now : Nat) : Nat → Eng → Eng
  | 0, g => g
  | fuel + 1, g =>
    match (List.range g.flights.length).find? (g.mayArrive now) with
    | some n => (g.deliverOne now n).deliverDue now fuel
    | none => g

def Eng.deliverAll (g : Eng) (now : Nat) : Eng := g.deliverDue now g.flights.length

/-! Converting routers (R81). -/

/-- The ports of an element whose converting routers have a token to send; a BLOCKED element's router sends none
(R188). -/
def Eng.waitingPorts (g : Eng) (e : Nat) : List Nat :=
  if (g.cfg e).blocked.isSome then []
  else ((g.elem e).outs.filter (fun o => !o.2.waiting.isEmpty)).map (·.1)

/-- The slot that a converting router's next token asks for; a press marker needs none. -/
def Eng.routerAsk (g : Eng) (e p : Nat) : Ask :=
  match (Tbl.get (g.elem e).outs OutConv.empty p).waiting, linkOf g.cfg e p with
  | t :: _, some (d, _) => if t.kind == kPRESS then .free else .slot d
  | _, _ => .full

/-- A converting router sends its next token (R81). -/
def Eng.sendWaiting (g : Eng) (now e p : Nat) (shared : List Endpoint) : Eng :=
  let x := g.elem e
  let o := Tbl.get x.outs OutConv.empty p
  match o.waiting, linkOf g.cfg e p with
  | t :: rest, some (d, hops) =>
    let g := g.setElem e { x with outs := Tbl.put x.outs p { o with waiting := rest } }
    if t.kind == kPRESS then g.launchMarker d (now + 1 + hops)
    else g.launch d t (oportFmt ((g.cfg e).outPort p)) (now + 1 + hops) (shared.contains d)
  | _, _ => g

end Sys2Proof.Machine
end

