-- ==== Sys2Proof/Machine/Grid.lean ====
section
/-! DEFINITION. One cycle of the grid of a core: what may act in it, the claims and how they are resolved, and the actions
themselves (R171, R173, R174, R221, R223, R265, R398; log 17). -/

namespace Sys2Proof.Machine

/-! Records at sinks (R265). -/

/-- Lanes of a record's header: the thread identifier and the block number. -/
def recordThread (l : List Token) : BitVec 32 := match l with | h :: _ => lane h.data 0 | [] => 0
def recordBlock (l : List Token) : Nat := match l with | h :: _ => ((lane h.data 1).extractLsb' 0 8).toNat | [] => 0

def Sched.queue (d : Sched) (b : Nat) : List ThreadRec := Tbl.get d.queues [] b

/-- Records of a ring. -/
def ringRecords : Nat := 256

/-- Is the entry queue of a block full? -/
def Sched.full (d : Sched) (b : Nat) : Bool := ringRecords ≤ (d.queue b).length

/-- Is a record complete whose ring is full? -/
def Sched.ringFull (d : Sched) (l : List Token) : Bool := recordWhole l && recordBlock l != 0 && d.full (recordBlock l)

/-- Does a sink of a scheduled vat wait: with a record not parked yet, or with a token that would complete one whose ring
is full (R265)? -/
def Eng.ringHolds (g : Eng) (v key : Nat) (t : Token) : Bool :=
  match (g.vat v).active with
  | some p =>
    let l := Tbl.get g.sched.forming [] key
    p.scheduled && (recordWhole l || g.sched.ringFull (formAfter l t))
  | none => false

/-- Does an edge-unit sink, by its vat, its key and its next token, wait for its ring? -/
def Eng.edgeHolds (g : Eng) (addr key : Nat) (t : Option Token) : Bool :=
  match g.vatOf addr, t with
  | some v, some t => g.ringHolds v key t
  | _, _ => false

/-- Does a full ring hold up the firing of a stage? -/
def Fire.ringHolds (x : Fire) : Bool :=
  match x.readA.got with
  | some t => (x.cfg.stage x.k).isSink && x.eng.ringHolds x.vat (sinkStage x.e x.k) t.tok
  | none => false

/-! Offers (R173). -/

/-- Is no replica that the firing goes to BLOCKED (R188)? -/
def Fire.takersOpen (x : Fire) (f : Firing) : Bool := (x.targets f).all (fun r => (x.eng.cfg r).blocked.isNone)

/-- A stage that would fire in this cycle if its claims were served: its operands are there, no release is pending. -/
def World.stageOffer (w : World) (c e k : Nat) : Option (Fire × Firing) :=
  match w.fireAt c e k with
  | none => none
  | some x =>
    match planOf x.op x with
    | none => none
    | some f => if x.released f && !x.ringHolds && x.takersOpen f then some (x, f) else none

/-- The write side of a reorder window that has the next token in order (R223). -/
def World.releaseOffer (w : World) (c e : Nat) : Option (Fire × Firing) :=
  match w.viewAt c e 1 with
  | none => none
  | some x =>
    if x.op = .mreord then
      match planRelease x with
      | none => none
      | some f => if x.released f then some (x, f) else none
    else none

/-- What a claimant would do in this cycle; a converting router has no firing. -/
def World.offerOf (w : World) (c : Nat) : Claimant → Option (Fire × Firing)
  | .stage e k => w.stageOffer c e k
  | .release e => w.releaseOffer c e
  | .router _ _ => none

/-- The claimants of an element in the order in which they act: its converting routers, then its stages in ascending
order; on a memory element the release, s1, s0 (R221, R223). -/
def Eng.claimantsAt (g : Eng) (e : Nat) : List Claimant :=
  ((g.waitingPorts e).map (Claimant.router e)) ++
    (if (g.vatOf e).isNone then []
     else if isCe (BitVec.ofNat 7 e) then (List.range 6).map (Claimant.stage e)
     else [.release e, .stage e 1, .stage e 0])

def Eng.claimants (g : Eng) : List Claimant := ((g.active.map (fun q => g.claimantsAt q.1))).flatten

/-- The element of a claimant. -/
def Claimant.elem : Claimant → Nat
  | .stage e _ | .release e | .router e _ => e

/-- An offer: who makes it, the ports it asks, the stages it sends to as (stage, sender, places), whether the curd
register it contributes to has room. -/
structure Offer where
  who : Claimant
  asks : List (Nat × Ask)
  dests : List (Nat × Nat × Nat)
  enters : Bool

/-- The offer of a firing. -/
def Fire.offer (x : Fire) (f : Firing) (who : Claimant) : Offer where
  who := who
  asks := x.asks f
  dests := (f.sends.filter (fun q => q.1 < 6)).map (fun q => (q.1, x.k, x.places))
  enters := x.contribRoom f

/-- The world once a firing has taken its tokens, stored its words and set its contribution on its way, with what its
results leave in the converting routers of its ports: what later claimants of the cycle find (R81, R170, R174, R221). -/
def Fire.taken (x : Fire) (f : Firing) : World :=
  let s := x.start f
  let g := s.g.setElem x.e { s.el with outs := (x.sendAll (x.due f.counted) s f.sends).el.outs }
  let g := match x.entering f with | some k => g.addEntering k | none => g
  (x.w.setEng x.c g).storeBank x.c x.e f.bank

/-- The offers of a cycle when the claimants of `acts` act: each is made in the world that those before it leave; and
the world that all of them leave. -/
def World.offers (c : Nat) (acts : List Claimant) : List Claimant → World → List Offer × World
  | [], w => ([], w)
  | who :: rest, w =>
    match who with
    | .router e p =>
      let (os, w') := w.offers c acts rest
      (⟨who, [(p, (w.eng c).routerAsk e p)], [], true⟩ :: os, w')
    | _ =>
      match w.offerOf c who with
      | none => w.offers c acts rest
      | some (x, f) =>
        let (os, w') := (if acts.contains who then x.taken f else w).offers c acts rest
        (x.offer f who :: os, w')

/-! Claims (R171). -/

/-- A claim of one slot. -/
structure Claim where
  who : Claimant
  dest : Endpoint
deriving DecidableEq, Repr

/-- Do two endpoints share one pool (R169)? -/
def samePool : Endpoint → Endpoint → Bool
  | .grid e p _, .grid f q _ => e == f && p == q
  | .stream s _, .stream t _ => s == t
  | .matrix n p, .matrix m q => n == m && p == q
  | .edge p, .edge q => p == q
  | _, _ => false

/-- The claims that find a slot reserved for their tag. -/
def Eng.serveReserved (g : Eng) : List Claim → List Claim → List Claim
  | done, [] => done
  | done, k :: rest =>
    if (done.filter (fun q => q.dest == k.dest)).length < g.reserveLeft k.dest then g.serveReserved (done ++ [k]) rest
    else g.serveReserved done rest

/-- The claims, in the order given, that find a free shared slot. -/
def Eng.serveShared (g : Eng) : List Claim → List Claim → List Claim
  | done, [] => done
  | done, k :: rest =>
    if (done.filter (fun q => samePool q.dest k.dest)).length < g.sharedFree k.dest then
      g.serveShared (done ++ [k]) rest
    else g.serveShared done rest

/-- Claims in ascending tag order. -/
def byTag (ks : List Claim) : List Claim := ((List.range 8).map (fun t => ks.filter (fun k => k.dest.tag == t))).flatten

/-- The pools of a core resolve the claims of a cycle: those served by a reserved slot, and those served by a shared
one. -/
def Eng.serve (g : Eng) (ks : List Claim) : List Claim × List Claim :=
  let r := g.serveReserved [] ks
  (r, g.serveShared [] (byTag (ks.filter (fun k => !r.contains k))))

/-- The claims of an offer. -/
def Offer.claims (o : Offer) : List Claim :=
  o.asks.filterMap (fun q => match q.2 with | .slot d => some ⟨o.who, d⟩ | _ => none)

/-- Can an offer claim: its stage destinations and its curd register have room, counting what is taken in the cycle, and
no port of it is without one (R171, R174)? -/
def Offer.claiming (o : Offer) (g : Eng) : Bool :=
  o.enters && o.asks.all (fun q => q.2 != .full) &&
    o.dests.all (fun d => ((Tbl.find ((g.elem o.who.elem).stage d.1).inq d.2.1).getD []).length < d.2.2)

/-- One round of the resolution: with the tokens that `acts` take gone, who acts, and with which slots. -/
structure Round where
  offers : List Offer
  after : Eng
  reserved : List Claim
  shared : List Claim

def World.round (w : World) (c : Nat) (order acts : List Claimant) : Round :=
  let (os, w') := w.offers c acts order
  let g := w'.eng c
  let (r, s) := g.serve (((os.filter (fun o => o.claiming g)).map (·.claims)).flatten)
  ⟨os, g, r, s⟩

/-- Does an offer's sender act: it can claim, and every claim of it is served? -/
def Round.acts (r : Round) (o : Offer) : Bool :=
  o.claiming r.after && o.claims.all (fun k => r.reserved.contains k || r.shared.contains k)

def Round.acting (r : Round) : List Claimant := (r.offers.filter r.acts).map (·.who)

/-- Rounds until the claimants that act are those with whose takings the claims were resolved. -/
def World.rounds (w : World) (c : Nat) (order : List Claimant) : Nat → List Claimant → Round
  | 0, acts => w.round c order acts
  | fuel + 1, acts =>
    let r := w.round c order acts
    if r.acting = acts then r else w.rounds c order fuel r.acting

/-- Rounds that only take claimants away. -/
def World.shrinks (w : World) (c : Nat) (order : List Claimant) : Nat → List Claimant → Round × List Claimant
  | 0, _ => (w.round c order [], [])
  | fuel + 1, acts =>
    let r := w.round c order acts
    let keep := acts.filter r.acting.contains
    if keep = acts then (r, acts) else w.shrinks c order fuel keep

/-- The resolution of a cycle, in which tokens that are due have arrived: the last round and the claimants that act. The
slots that firings of the cycle free count at once, so the resolution begins with every claimant acting (log 17). -/
def World.resolve (w : World) (c : Nat) : Round × List Claimant :=
  let order := (w.eng c).claimants
  let r := w.rounds c order (order.length + 2) ((w.round c order []).offers.map (·.who))
  w.shrinks c order (order.length + 2) r.acting

/-! The branch counters (R398). -/

/-- Is a trace source a unit of the vat in a slot: its controller or a unit of its active plane? -/
def Eng.unitOfVat (g : Eng) (unit v : Nat) : Bool := unit = addrVat v || (g.vat v).has unit

/-- Does the trace fabric hold up a unit of the vat that an element belongs to? -/
def World.vatHeld (w : World) (c e : Nat) : Bool :=
  match (w.eng c).vatOf e with
  | some v => w.held.any (fun q => sourceCore q.1 = c && (w.eng c).unitOfVat (q.1 % 512) v)
  | none => false

/-- The ports of an offer where it finds no room. -/
def Round.refusedPorts (r : Round) (o : Offer) : List Nat :=
  let full := o.asks.any (fun q => q.2 == .full)
  (o.asks.filter (fun q => match q.2 with
    | .free => false
    | .full => true
    | .slot d =>
      if full then !r.after.hasSlot d else !(r.reserved.contains ⟨o.who, d⟩ || r.shared.contains ⟨o.who, d⟩))).map (·.1)

/-- The branch counters of a stage after the cycle's resolution: that of a port whose claim is served returns to zero;
that of the one port that refuses, among several with room elsewhere too, advances. -/
def branchAfter (served refused : List Nat) (inside : Bool) (b : Tbl Nat) : Tbl Nat :=
  let b := b.filter (fun q => !served.contains q.1)
  match refused with
  | [p] => if inside then Tbl.put b p (Tbl.get b 0 p + 1) else b
  | _ => b

def Round.countBranch (r : Round) (g : Eng) (o : Offer) : Eng :=
  match o.who with
  | .stage e k =>
    let ports := (o.asks.map (·.1)).eraseDups
    let refused := (r.refusedPorts o).eraseDups
    let inside := o.enters &&
      o.dests.all (fun d => ((Tbl.find ((r.after.elem e).stage d.1).inq d.2.1).getD []).length < d.2.2)
    if ports.length < 2 || refused.isEmpty then g
    else
      let x := g.elem e
      let st := x.stage k
      let served := if o.claiming r.after then ports.filter (fun p => !refused.contains p) else []
      g.setElem e (x.setStage k { st with
        branch := branchAfter served refused inside st.branch
        told := served.foldl (fun (t : BitVec 8) p => t &&& ~~~(BitVec.ofNat 8 (2 ^ p))) st.told })
  | _ => g

/-! The plan of a cycle (R173). -/

/-- A core's grid with every due token delivered. -/
def World.arrived (w : World) (c : Nat) : World := w.setEng c ((w.eng c).deliverAll w.cycle)

/-- What acts in this cycle, in order. -/
def Round.plan (r : Round) (acts : List Claimant) : List Planned :=
  (r.offers.filter (fun o => acts.contains o.who)).map (fun o =>
    ⟨o.who, (o.claims.filter (fun k => !r.reserved.contains k)).map (·.dest)⟩)

/-- The grid of a core begins a cycle: what is due arrives, and the claims are resolved. -/
def World.beginGrid (w : World) (c : Nat) : World :=
  if (w.eng c).firing.isSome then w
  else
    let w := w.arrived c
    let (r, acts) := w.resolve c
    let g := (r.offers.filter (fun o => !w.vatHeld c o.who.elem)).foldl r.countBranch (w.eng c)
    w.setEng c { g with firing := some (r.plan acts) }

/-- What still acts in the grid of a core in this cycle. -/
def World.planned (w : World) (c : Nat) : List Planned := ((w.beginGrid c).eng c).firing.getD []

/-- How many lower tags of an endpoint's pool claim a shared slot in a round (R171). -/
def Round.lowerClaims (r : Round) (d : Endpoint) : Nat :=
  ((r.offers.filter (fun o => o.claiming r.after)).map (fun o =>
    (o.claims.filter (fun k => samePool k.dest d && k.dest.tag < d.tag && !r.reserved.contains k)).length)).sum

/-- How many lower tags of an endpoint's pool claim a shared slot in this cycle. -/
def World.lowerClaims (w : World) (c : Nat) (d : Endpoint) : Nat :=
  if ((w.eng c).poolShape d).2.any (fun t => t.2.tag < d.tag) then ((w.arrived c).resolve c).1.lowerClaims d else 0

/-- Do the tokens that hold slots of an endpoint's pool fit into it, with some shared slots left over? -/
def Eng.fits (g : Eng) (d : Endpoint) (more : Nat) : Bool :=
  let (slots, tags) := g.poolShape d
  (tags.map (fun t => g.claimedShared t.2)).sum + more ≤ slots - (tags.map (·.1)).sum &&
    tags.all (fun t => g.claimed t.2 - g.claimedShared t.2 ≤ t.1)

/-- Does a token that a unit has sent to an endpoint find a slot which the firings of the cycle free, the lower tags' claims,
`more` of them those of edge units, served before it, and every other token under way its own (R171)? -/
def World.freedFor (w : World) (c : Nat) (d : Endpoint) (more : Nat) : Bool :=
  let r := ((w.arrived c).resolve c).1
  r.after.fits d (r.lowerClaims d + more) && r.after.flights.all (fun f => f.dest.isEdge || r.after.fits f.dest 0)

/-! The actions. -/

/-- The planned action of a claimant whose turn it is: no claimant before it in its element still has to act. -/
def plannedFor (ps : List Planned) (who : Claimant) : Option Planned :=
  match ps.find? (fun p => p.who.elem == who.elem) with
  | some p => if p.who = who then some p else none
  | none => none

/-- Take a claimant off what still acts. -/
def Eng.actedOn (g : Eng) (who : Claimant) : Eng := { g with firing := g.firing.map (·.filter (fun p => p.who != who)) }

/-- A stage fires with the slots its claims were served: nothing happens where the cycle has changed it since. -/
def World.fireNow (w : World) (c e k : Nat) (shared : List Endpoint) : World :=
  match w.stageOffer c e k with
  | none => w
  | some (x, f) => { x with shared := shared }.commit f

/-- The write side of a reorder window sends the token that is next in order (R223). -/
def World.releaseNow (w : World) (c e : Nat) (shared : List Endpoint) : World :=
  match w.releaseOffer c e with
  | none => w
  | some (x, f) =>
    let x := { x with shared := shared }
    let s := x.sendAll (x.due f.counted) (x.start f) f.sends
    let st := s.el.stage 1
    let g := s.g.setElem e (s.el.setStage 1 { st with lastOut := some w.cycle })
    w.setEng c (g.setVat x.vat ((g.vat x.vat).fired w.cycle))

end Sys2Proof.Machine
end

