-- ==== Sys2Proof/Machine/Access.lean ====
section
/-! DEFINITION. How a unit of a core reaches memory: the partition check (R402), the address map in its several modes
(R276, R277), failing words (R448), translation with its walks (R298 to R304), refusals (R302), and tokens an edge unit
sends (R164, R167, R170). -/

namespace Sys2Proof.Machine

/-! Partitions (R402, R406). -/

/-- Does a valid reach entry of a table let a partition reach a core of a node (R406)? -/
def reaches (t : Tbl Word) (part : BitVec 16) (node core : Nat) : Bool :=
  (List.range 64).any (fun i =>
    let e := Tbl.get t 0 i
    e.getLsbD 63 && e.extractLsb' 0 16 == part && bitsNat e 49 14 ≤ node && node ≤ bitsNat e 35 14 &&
      bitsNat e 28 7 ≤ core && core ≤ bitsNat e 21 7)

/-- May an agent of core `c` access an address (R402)? -/
def World.mayReach (w : World) (c : Nat) (pa : PhysAddr) : Bool :=
  let p := (w.eng c).partid
  p == 0 ||
    (match (regionOf pa.addr).core with
     | none => false
     | some k => if pa.remote then reaches w.reach p pa.node.toNat k else (w.eng k).partid == p)

/-! Bytes at a physical address. -/

/-- What an access finds: its answer, a refusal, nothing yet, a word that failed its check. -/
inductive Io (α : Type) where
  | ok (a : α) (w : World)
  | refused (reason : BitVec 4)
  | wait
  | failing (addr : Nat)

/-- The bytes a remote package answers with (log 11). -/
def remoteBytes (node addr k n : Nat) : List Byte := (List.range n).map (fun i => Config.remoteByte node (addr + i) k)

/-- Some of the words that hold bytes of a range. -/
def wordsIn (us : List Nat) (a n : Nat) : List Nat :=
  us.filter (fun u => (checkWord u).1 < a + n && a < (checkWord u).1 + (checkWord u).2)

/-- A unit has read corrected words: the event (R415), whose payload is as that of ECC_UE (R354). -/
def World.eccCorrected (w : World) (c unit : Nat) (mem : BitVec 4) (who : Nat) : World :=
  w.emit c unit tECCCE ((eccInfo mem (unit == uCP) (unit == uCOPY) who).setWidth 32)

/-- A corrected error makes its event and is gone (R415, R448); `who` names the unit as WHO does (R302). -/
def World.corrected (w : World) (c unit who : Nat) (a n : Nat) : World :=
  match wordsIn w.eccCe a n with
  | [] => w
  | us => { w with eccCe := w.eccCe.filter (fun u => !us.contains u) }.eccCorrected c unit (memAt a) who

/-- Has the grid of core `k` begun this cycle? Then an access of a copy or stream to its scratchpads comes too late: it
is before the s1 accesses of its cycle (R278), so it waits for the next. -/
def World.gridBegun (w : World) (k : Nat) : Bool := (w.eng k).firing.isSome

/-- Read plain bytes of the local map. -/
def World.readLocal (w : World) (c unit who a n : Nat) : Io (List Byte) :=
  match w.failing a n with
  | some u => .failing u
  | none => .ok (memBytes w.mem a n) (w.corrected c unit who a n)

/-- A unit reads `n` bytes (R277); `paced` says that it is a copy or stream, which comes before the grid of the cycle
(R278). -/
def World.unitReadAs (w : World) (paced : Bool) (c unit who : Nat) (pa : PhysAddr) (n : Nat) : Io (List Byte) :=
  if !w.mayReach c pa then .refused rBUS
  else if pa.remote then .ok (remoteBytes pa.node.toNat pa.addr w.free n) { w with free := w.free + 1 }
  else
    match regionOf pa.addr with
    | .dram _ => w.readLocal c unit who pa.addr n
    | .pad k e _ =>
      let g := w.eng k
      match (g.cfg e).bankMode with
      | .ram => if paced && w.gridBegun k then .wait else w.readLocal c unit who pa.addr n
      | .fifo =>
        if n = 64 ∧ pa.addr % 64 = 0 then
          if paced && w.gridBegun k then .wait
          else
            let x := g.elem e
            let cap := (g.cfg e).capacity
            let a := bankBase k e + 64 * x.fifoLine cap 0
            match x.fifo, w.failing a 64 with
            | [], _ => .wait
            | _ :: _, some u => .failing u
            | _ :: _, none => .ok (memBytes w.mem a 64) ((w.setEng k (g.setElem e (x.popFifo cap))).corrected c unit who a 64)
        else .refused rALIGN
      | .reorder | .unused => .refused rBUS
    | .window _ _ | .ingress _ _ | .absent => .refused rBUS

def World.unitRead (w : World) (c unit who : Nat) (pa : PhysAddr) (n : Nat) : Io (List Byte) :=
  w.unitReadAs true c unit who pa n

/-- A beat of 64 bytes pushed into a FIFO (R277): a DATA token of 16 lanes, its payload in the bank's next line (R222);
none while the FIFO has no space. -/
def World.fifoPush (w : World) (k e : Nat) (bs : List Byte) : Option World :=
  let g := w.eng k
  let x := g.elem e
  let cap := (g.cfg e).capacity
  if x.fifo.length < cap then
    let a := bankBase k e + 64 * x.fifoLine cap x.fifo.length
    some ((w.setEng k (g.setElem e (x.pushFifo { plainToken kDATA with valid := 16 }))).store a bs)
  else none

/-- A write, a token or a credit that leaves for another package, with its sender's PARTID (R408). -/
def World.sendFrame (w : World) (node addr : Nat) (part : BitVec 16) (bs : List Byte) : World :=
  { w with frames := w.frames ++ [⟨node, addr, part, bs⟩] }

/-- A unit writes bytes (R277). -/
def World.unitWriteAs (w : World) (paced : Bool) (c : Nat) (pa : PhysAddr) (bs : List Byte) : Io Unit :=
  if !w.mayReach c pa then .refused rBUS
  else if pa.remote then .ok () (w.sendFrame pa.node.toNat pa.addr (w.eng c).partid bs)
  else
    match regionOf pa.addr with
    | .dram _ => .ok () (w.store pa.addr bs)
    | .pad k e _ =>
      let g := w.eng k
      match (g.cfg e).bankMode with
      | .ram => if paced && w.gridBegun k then .wait else .ok () (w.store pa.addr bs)
      | .fifo =>
        if bs.length = 64 ∧ pa.addr % 64 = 0 then
          if paced && w.gridBegun k then .wait
          else
            match w.fifoPush k e bs with
            | some w' => .ok () w'
            | none => .wait
        else .refused rALIGN
      | .reorder | .unused => .refused rBUS
    | .window _ _ | .ingress _ _ | .absent => .refused rBUS

def World.unitWrite (w : World) (c : Nat) (pa : PhysAddr) (bs : List Byte) : Io Unit := w.unitWriteAs true c pa bs

/-- A release store that no part of the machine waits for: a refused one is dropped. -/
def World.releaseStore (w : World) (c : Nat) (pa : PhysAddr) (bs : List Byte) : World :=
  match w.unitWriteAs false c pa bs with
  | .ok () w => w
  | _ => w

/-- A fabric address (R276) as node and local address, seen from a package. -/
def physOfFabric (self : BitVec 14) (a : Word) : PhysAddr :=
  ⟨a.extractLsb' 50 14 != self, a.extractLsb' 50 14, bitsNat a 0 50⟩

/-! Translation for units (R300, R301). -/

/-- What a unit's translation comes to. -/
inductive Xlat where
  | ok (pa : PhysAddr) (t : TlbEntry)
  | refused (r : Refused)
  | wait (w : World)

/-- Translate for a stream, a copy or a node: its own entry, the TLB, else a walk is asked for. Units are checked as
unprivileged (R299). -/
def World.unitTranslate (w : World) (c : Nat) (who : Walker) (entry : Option TlbEntry) (asid : BitVec 16)
    (ptroot : Word) (a : Access) (va : Word) : Xlat :=
  let g := w.eng c
  if bitsNat va 56 8 != 0 then .refused ⟨rRANGE, 0⟩
  else if g.walks.any (fun k => k.who == who) then .wait w
  else
    let own := match entry with
      | some t => if t.serves asid va.toNat then some t else none
      | none => none
    let found := match own with
      | some t => some t
      | none => g.lookup asid va.toNat
    match found with
    | some t =>
      match t.use g.node false a va.toNat with
      | .ok pa => .ok pa t
      | .error r => .refused r
    | none =>
      .wait (if g.walking asid va then w else w.setEng c (g.askWalk (.asked who asid ptroot va false a w.cycle)))

/-! Refusals (R302). -/

/-- TINFO1 of a STREAM_XLATE report. -/
def xlateInfo (level : BitVec 3) (reason : BitVec 4) (write copy : Bool) (who : Nat) : Word :=
  (level ++ reason ++ BitVec.ofBool write ++ BitVec.ofBool copy ++ (0 : BitVec 1) ++ BitVec.ofNat 6 who).setWidth 64

/-- Report a refused access: the trap and the event. Sources: streams by number, nodes from 32, copies from 64. -/
def World.streamXlate (w : World) (c : Nat) (va : Word) (r : Refused) (write copy : Bool) (who : Nat)
    (asid : BitVec 16) : World :=
  let t1 := xlateInfo r.level r.reason write copy who
  let unit := if copy then uCOPY else if who < 32 then addrStream who else addrMatrix (who - 32)
  (w.raise c ⟨cSTREAMXLATE, if copy then 64 + who else who, ⟨va, t1, asid.setWidth 64, 0⟩⟩).emit c unit
    tSTREAMFAULT (t1.setWidth 32)

/-! Stream states. -/

def Eng.stream (g : Eng) (s : Nat) : Stream := Tbl.get g.streams Stream.reset s
def Eng.setStream (g : Eng) (s : Nat) (x : Stream) : Eng := { g with streams := Tbl.put g.streams s x }
def World.stream (w : World) (c s : Nat) : Stream := (w.eng c).stream s
def World.setStream (w : World) (c s : Nat) (x : Stream) : World := w.setEng c ((w.eng c).setStream s x)

/-- A stream's access is refused: FAULTED until a retry or a kill (R285, R302). -/
def World.faultStream (w : World) (c s : Nat) (r : Refused) (write : Bool) (va : Word) : World :=
  let x := w.stream c s
  (w.setStream c s
    { x with state := .faulted, reason := r.reason, refused := some ⟨write, va⟩, pending := false }).streamXlate c va r
    write false s x.asid

/-- A stream ends with reason COMMAND (R302). -/
def World.endCommand (w : World) (c s : Nat) (t0 : Word) : World :=
  let x := w.stream c s
  (w.setStream c s { x with state := .ended, reason := rCOMMAND }).streamXlate c t0 ⟨rCOMMAND, 0⟩ false false s x.asid

/-- A stream translates an address of its own: refused for its range and its alignment first (R282). One that is wrong in both
gives RANGE: the model's choice (log 27). -/
def World.streamXlat (w : World) (c s : Nat) (write : Bool) (va : Word) (align : Nat) : Xlat :=
  let x := w.stream c s
  if bitsNat va 56 8 != 0 then .refused ⟨rRANGE, 0⟩
  else if va.toNat % align != 0 then .refused ⟨rALIGN, 0⟩
  else w.unitTranslate c (.stream s) x.entry x.asid x.ptroot (if write then .write else .read) va

/-- A stream's access is issued, and waits (R177). -/
def World.pendStream (w : World) (c s : Nat) : World := w.setStream c s { w.stream c s with pending := true }

/-- An access to a scratchpad whose grid has begun the cycle is not issued before the next (R278). -/
def World.issues (w : World) (pa : PhysAddr) : Bool :=
  match regionOf pa.addr with
  | .pad k _ _ => !w.gridBegun k
  | _ => true

/-- What an access of a stream comes to: its answer; or the world in which the stream waits or is FAULTED; or a failing
word. -/
inductive StreamIo (α : Type) where
  | ok (a : α) (w : World)
  | stop (w : World)
  | failing (addr : Nat) (w : World)

/-- A stream reads bytes at a virtual address. -/
def World.streamRead (w : World) (c s : Nat) (va : Word) (n : Nat) : StreamIo (List Byte) :=
  match w.streamXlat c s false va (min n 64) with
  | .refused r => .stop (w.faultStream c s r false va)
  | .wait w' => .stop (w'.pendStream c s)
  | .ok pa t =>
    let w := w.setStream c s { w.stream c s with entry := some t, pending := false }
    match w.unitRead c (addrStream s) s pa n with
    | .ok bs w' => .ok bs w'
    | .refused r => .stop (w.faultStream c s ⟨r, 0⟩ false va)
    | .wait => .stop (if w.issues pa then w.pendStream c s else w)
    | .failing a => .failing a w

/-- A stream writes bytes at a virtual address, aligned to `align`. -/
def World.streamWrite (w : World) (c s : Nat) (va : Word) (align : Nat) (bs : List Byte) : StreamIo Unit :=
  match w.streamXlat c s true va align with
  | .refused r => .stop (w.faultStream c s r true va)
  | .wait w' => .stop (w'.pendStream c s)
  | .ok pa t =>
    let w := w.setStream c s { w.stream c s with entry := some t, pending := false }
    match w.unitWrite c pa bs with
    | .ok () w' => .ok () w'
    | .refused r => .stop (w.faultStream c s ⟨r, 0⟩ true va)
    | .wait => .stop (if w.issues pa then w.pendStream c s else w)
    | .failing a => .failing a w

/-! Tokens that edge units send. -/

/-- A token from outside the grid on its way to a link's end, in a reserved or a shared slot. -/
def World.launchTo (w : World) (c : Nat) (d : Endpoint) (t : Token) (fmt : BitVec 4) (arrive : Nat) (shared : Bool) : World :=
  let w := w.wakeVat c d.addr
  w.setEng c ((w.eng c).launch d t fmt arrive shared)

/-- Has an edge unit whose link ends at an endpoint a token to send there now: a stream, a matrix node, an ingress port? -/
def World.unitOffers (w : World) (c : Nat) (d : Endpoint) : Bool :=
  let g := w.eng c
  let ends (l : Option (Endpoint × Nat)) : Bool := l.any (fun l => l.1 == d)
  g.streams.any (fun q => q.2.state == .running && !q.2.pressed && !q.2.out.isEmpty && ends (streamLink g.cfg q.1)) ||
    g.mx.any (fun q => !q.2.pressed && !q.2.out.isEmpty && ends (matrixLink g.cfg q.1)) ||
    (List.range 8).any (fun p =>
      let x := Tbl.get g.ports EpState.reset p
      (g.vatOf (addrEdge p)).isSome && !x.pressed && !x.dead && (!x.inbox.isEmpty ||
        w.nets.any (fun n => n.dstCore = c && n.dstPort = p && n.arrive ≤ w.cycle)) && ends (edgeLink g.cfg p))

/-- How many lower tags of an endpoint's pool edge units claim shared slots for (R171). -/
def World.lowerUnits (w : World) (c : Nat) (d : Endpoint) : Nat :=
  (((w.eng c).poolShape d).2.filter (fun t =>
    t.2.tag < d.tag && !(w.eng c).reserveFree t.2 && w.unitOffers c t.2)).length

/-- Put a token from outside the grid on its way to a link's end, once its pool has a slot of the tag's reserve, or a
shared one that no lower tag claims in this cycle, the slots counted that the firings of the cycle free (R170, R171). It
claims before the grid begins the cycle (log 17). DESIGN CHOICE: a claim lasts until the consumer takes the token (R170), so
a link of two slots that passes two routers (R166, R167) carries two tokens in three cycles; the figures of one token a
cycle in R123 and R126 to R128 do not come out on such a link, and no rule settles which holds (log 17). -/
def World.enterLink (w : World) (c : Nat) (d : Endpoint) (t : Token) (fmt : BitVec 4) (arrive : Nat) : Option World :=
  let g := w.eng c
  let sent := w.launchTo c d t fmt arrive
  if w.gridBegun c then none
  else if g.reserveFree d || w.lowerClaims c d + w.lowerUnits c d < g.sharedFree d then some (sent (!g.reserveFree d))
  else if d.isEdge then none
  else if (sent false).freedFor c d (w.lowerUnits c d) then some (sent false)
  else if (sent true).freedFor c d (w.lowerUnits c d) then some (sent true)
  else none

/-- Send one token from an edge unit onto its link (R167). -/
def World.sendEdge (w : World) (c : Nat) (link : Option (Endpoint × Nat)) (oport : BitVec 16) (t : Token) :
    Option World :=
  match link with
  | none => none
  | some (d, hops) =>
    w.enterLink c d { t with r := t.r || releases oport t } (oportFmt oport) (w.cycle + 1 + hops)

/-- Send a token on a stream's output; its R bit follows OPORT.REL (R283), and that of a TOK image (R294). -/
def World.sendStream (w : World) (c s : Nat) (t : Token) : Option World :=
  let g := w.eng c
  w.sendEdge c (streamLink g.cfg s) (g.streamCfg s).oport t

/-- Take the token at the head of an edge unit's input, freeing its slot. -/
def Eng.popPool (g : Eng) (d : Endpoint) : Option (Token × Eng) :=
  let q := g.pool d
  match q.toks with
  | [] => none
  | t :: rest => some (t, g.setPool d { q with toks := rest })

/-- A sink of the vat that holds a unit reports (R251). -/
def World.reportSink (w : World) (c addr id : Nat) : World :=
  let g := w.eng c
  match g.vatOf addr with
  | some v => w.setEng c (g.report v id)
  | none => w

/-! The store buffer (R143; log 6). -/

/-- Perform a store that waits. -/
def World.performStore (w : World) (p : PendingStore) : World := w.store p.addr (leBytes p.len p.data.toNat)

/-- The oldest store of core `c` is performed. -/
def World.drainOne (w : World) (c : Nat) : World :=
  let g := w.eng c
  match g.storeBuf with
  | [] => w
  | p :: rest => (w.setEng c { g with storeBuf := rest }).performStore p

/-- Does a location lie in the instance of a scope that an agent of core `c` belongs to (R332): its core's, its die's, the
package's? -/
def inInstance (c : Nat) (scope : BitVec 2) (a : Nat) : Bool :=
  match scope.toNat, (regionOf a).core with
  | 0, some k => k == c
  | 1, some k => dieOf k == dieOf c
  | _, _ => true

/-- How many stores of a buffer a release at a scope performs: its oldest, up to the last in the scope's instance. A store
outside may stay behind, since a release guarantees nothing of locations beyond its scope (R329, R338). -/
def releaseCount (c : Nat) (scope : BitVec 2) (buf : List PendingStore) : Nat :=
  buf.length - (buf.reverse.takeWhile (fun p => !inInstance c scope p.addr)).length

/-- A release of core `c` at a scope (R336; log 6). -/
def World.releaseAt (w : World) (c : Nat) (scope : BitVec 2) : World :=
  let g := w.eng c
  let n := releaseCount c scope g.storeBuf
  (g.storeBuf.take n).foldl (fun w p => w.performStore p) (w.setEng c { g with storeBuf := g.storeBuf.drop n })

/-- All stores of core `c` are performed, oldest first. -/
def World.drainAll (w : World) (c : Nat) : World :=
  let g := w.eng c
  g.storeBuf.foldl (fun w p => w.performStore p) (w.setEng c { g with storeBuf := [] })

end Sys2Proof.Machine
end

