-- ==== Sys2Proof/Machine/Streams.lean ====
section
/-! DEFINITION. The modes READ, WRITE, GATHER and SCATTER of a stream (R281 to R285). Each event does what one token
asks for, as far as its accesses are translated. -/

namespace Sys2Proof.Machine

/-- Does a command to a stream wait for it (R285)? -/
def Stream.busy (x : Stream) : Bool := x.state == .running || x.state == .faulted

/-! Geometry (R281). -/

/-- Counts of the levels, the last without bound where it is zero. -/
def StreamCfg.counts (c : StreamCfg) : List (Option Nat) :=
  (List.range c.nlvl).map (fun i =>
    let n := (c.level (i + 1)).cnt.toNat
    if n != 0 then some n else if i + 1 = c.nlvl then none else some 65536)

/-- The index tuple of the n-th element; level 1 varies fastest. -/
def levelIdx : List (Option Nat) → Nat → List Nat
  | [], _ => []
  | some k :: t, n => n % k :: levelIdx t (n / k)
  | none :: t, n => n :: levelIdx t 0

/-- The levels, from level `j` up, that complete with the element that makes `n` of them. -/
def levelsDone : List (Option Nat) → Nat → Nat → List Nat
  | [], _, _ => []
  | some k :: t, j, n => if n % k = 0 then j :: levelsDone t (j + 1) (n / k) else []
  | none :: _, _, _ => []

/-- The place of an index tuple in dimension `n`. -/
def StreamCfg.place (c : StreamCfg) (idx : List Nat) (n : Nat) : Int :=
  (c.dim n).org.toInt + (idx.zipIdx.map (fun q =>
    let l := c.level (q.2 + 1)
    if l.dim.toNat = n then (q.1 : Int) * l.step.toInt else 0)).sum

/-- Is a place inside the extent of its dimension? -/
def DimCfg.holds (d : DimCfg) (x : Int) : Bool := d.ext == 0 || (0 ≤ x && x < (d.ext.toNat : Int))

/-- Address of the n-th element, and whether it is inside the bounds. -/
def StreamCfg.elemAt (c : StreamCfg) (base : Word) (n : Nat) : Word × Bool :=
  let idx := levelIdx c.counts n
  let ds := (List.range 4).map (fun k => c.place idx k)
  let off := (ds.zipIdx.map (fun q => q.1 * (c.dim q.2).pit.toInt)).sum
  (base + BitVec.ofInt 64 off, ds.zipIdx.all (fun q => (c.dim q.2).holds q.1))

/-- Address of the row a coordinate names, and whether it is inside the bounds (R284 GATHER). -/
def StreamCfg.rowAt (c : StreamCfg) (base : Word) (coord : BitVec 32) : Word × Bool :=
  let d := (c.dim 0).org.toInt + (coord.toNat : Int)
  (base + BitVec.ofInt 64 (d * (c.dim 0).pit.toInt), (c.dim 0).holds d)

/-- Has the stream ended once `n` elements are done (R281)? -/
def StreamCfg.overAt (c : StreamCfg) (x : Stream) (n : Nat) : Bool :=
  if x.count != 0 then x.count ≤ n else (levelsDone c.counts 1 n).contains c.nlvl && n != 0

/-! What a stream owes its output. -/

def eodOf (level : Nat) : Token := { plainToken kEOD with level := BitVec.ofNat 4 level }
def eosToken : Token := plainToken kEOS

/-- Send the first token owed; behind the last the stream ends. -/
def World.pump (w : World) (c s : Nat) : World :=
  match (w.stream c s).out with
  | [] => w
  | t :: rest =>
    match w.sendStream c s t with
    | none => w
    | some w' =>
      let y := w'.stream c s
      w'.setStream c s { y with
        out := rest
        last := y.last && !rest.isEmpty
        state := if rest.isEmpty && y.last then .ended else y.state }

/-- Saturating count of ERR tokens skipped (R303). -/
def Stream.skip (x : Stream) (n : Nat) : Stream :=
  { x with errcnt := BitVec.ofNat 16 (min 65535 (x.errcnt.toNat + n)) }

/-- The element count of a stream's bytes posted (R282). -/
def Stream.post (x : Stream) (bytes : Nat) : Stream := { x with posted := x.posted + BitVec.ofNat 64 bytes }

/-- An ERR of class MEMORY in place of a token that holds a failing word (R180, R283). -/
def memoryErr (s : Nat) : Token := errToken clsMEMORY (BitVec.ofNat 32 (addrStream s)) 0

/-! READ (R283). -/

/-- The token of the lanes read so far, with the marks its last element completes, and EOS where the stream ends. -/
def World.readDone (w : World) (c s : Nat) : World :=
  let x := w.stream c s
  let cfg := (w.eng c).streamCfg s
  let t : Token :=
    if x.poison then memoryErr s
    else { plainToken kDATA with valid := BitVec.ofNat 5 x.buf.length, data := payloadOf x.buf }
  let eods := ((levelsDone cfg.counts 1 x.pos).filter cfg.marked).map eodOf
  let ends := cfg.overAt x x.pos || x.drain
  w.setStream c s { x with
    buf := []
    poison := false
    out := t :: eods ++ (if ends then [eosToken] else [])
    last := ends }

/-- Read elements until the token is full, a marked level completes or the stream ends. -/
def World.readLoop (c s : Nat) : Nat → World → World
  | 0, w => w
  | fuel + 1, w =>
    let x := w.stream c s
    let cfg := (w.eng c).streamCfg s
    let (va, inside) := cfg.elemAt x.base x.pos
    let step (v : BitVec 32) (bad : Bool) (w : World) : World :=
      let x := w.stream c s
      let x := { x with buf := x.buf ++ [v], pos := x.pos + 1, poison := x.poison || bad }.post 4
      let w := w.setStream c s x
      if cfg.per ≤ x.buf.length || cfg.overAt x x.pos || (levelsDone cfg.counts 1 x.pos).any cfg.marked then
        w.readDone c s
      else w.readLoop c s fuel
    if inside then
      match w.streamRead c s va 4 with
      | .ok bs w' => step (BitVec.ofNat 32 (leNat bs)) false w'
      | .stop w' => w'
      | .failing a w' => step 0 true (w'.eccReport c (addrStream s) a false s)
    else step cfg.pad false w

/-- STREAM_READ_TOKEN (R283): send what is owed, else read the next token. -/
def World.readEvent (w : World) (c s : Nat) : World :=
  let x := w.stream c s
  if x.state != .running || x.saved || ((w.eng c).streamCfg s).modeOf != mREAD then w
  else if !x.out.isEmpty then w.pump c s
  else if x.pressed && x.buf.isEmpty then w
  else if x.drain && x.buf.isEmpty then (w.setStream c s { x with out := [eosToken], last := true }).pump c s
  else (w.readLoop c s 16).pump c s

/-! WRITE (R284, R235). -/

/-- The element count of the stream is reached. -/
def StreamCfg.reached (c : StreamCfg) (x : Stream) : Bool :=
  if x.count != 0 then x.count ≤ x.pos else c.overAt x x.pos

/-- Write lanes from the one reached on; true when the token is done. -/
def World.writeLanes (c s : Nat) (t : Token) : Nat → World → Bool × World
  | 0, w => (true, w)
  | fuel + 1, w =>
    let x := w.stream c s
    let cfg := (w.eng c).streamCfg s
    if min t.valid.toNat cfg.per ≤ x.lane || cfg.reached x then (true, w)
    else
      let (va, inside) := cfg.elemAt x.base x.pos
      let next (w : World) : World :=
        let x := w.stream c s
        w.setStream c s ({ x with lane := x.lane + 1, pos := x.pos + 1 }.post 4)
      if inside && t.kind == kDATA then
        match w.streamWrite c s va 4 (leBytes 4 (lane t.data x.lane).toNat) with
        | .ok () w' => (next w').writeLanes c s t fuel
        | .stop w' => (false, w')
        | .failing _ w' => (false, w')
      else (next w).writeLanes c s t fuel

/-- An edge unit that is a sink of a scheduled vat notes the token it has taken (R265). -/
def Eng.formEdge (g : Eng) (addr key : Nat) (t : Token) : Eng :=
  match g.vatOf addr with
  | some v => g.formRecord v key (some t)
  | none => g

/-- The channel of an input tag of a sink stream. -/
def sinkTag (s tag : Nat) : Nat := sinkStream s + 32 * tag

/-- Take the head token of an input tag. -/
def World.dropToken (w : World) (c s tag : Nat) : World :=
  match (w.eng c).popPool (.stream s tag) with
  | some (t, g) => w.setEng c (if g.streamIsSink s then g.formEdge (addrStream s) (sinkTag s tag) t else g)
  | none => w

/-- The token that an input tag has for its stream: none while the stream, a sink, waits for a ring (R265). -/
def World.headToken (w : World) (c s tag : Nat) : Option Token :=
  let g := w.eng c
  let t := (g.pool (.stream s tag)).toks.head?
  if g.streamIsSink s && g.edgeHolds (addrStream s) (sinkTag s tag) t then none else t

/-- A sink stream takes an EOS: it ends and reports once its count is reached (R284, R235). -/
def World.sinkEos (w : World) (c s : Nat) : World :=
  let x := w.stream c s
  if x.count != 0 && x.pos < x.count then w
  else (w.setStream c s { x with state := .ended, eos := true }).reportSink c (addrStream s) (sinkStream s)

/-- STREAM_WRITE_TOKEN. -/
def World.writeEvent (w : World) (c s : Nat) : World :=
  let x := w.stream c s
  let cfg := (w.eng c).streamCfg s
  if x.state != .running || x.saved || cfg.modeOf != mWRITE then w
  else
    match w.headToken c s 0 with
    | none => w
    | some t =>
      if t.kind == kEOS then (w.dropToken c s 0).sinkEos c s
      else if t.kind == kDATA || t.kind == kERR then
        if x.lane = 0 && cfg.reached x then (w.setStream c s (x.skip 1)).dropToken c s 0
        else
          match w.writeLanes c s t 16 with
          | (false, w') => w'
          | (true, w') =>
            let y := w'.stream c s
            let y := { y with lane := 0 }
            (w'.setStream c s (if t.kind == kERR then y.skip 1 else y)).dropToken c s 0
      else w.dropToken c s 0

/-! GATHER (R284). -/

/-- Read the rows of a coordinate token from the lane reached on; true when the token is done. -/
def World.gatherLanes (c s : Nat) (t : Token) : Nat → World → Bool × World
  | 0, w => (true, w)
  | fuel + 1, w =>
    let x := w.stream c s
    let cfg := (w.eng c).streamCfg s
    if t.valid.toNat ≤ x.lane || (x.count != 0 && x.count ≤ x.pos) then (true, w)
    else
      let (va, inside) := cfg.rowAt x.base (lane t.data x.lane)
      let next (d : Payload) (bad : Bool) (w : World) : World :=
        let x := w.stream c s
        let x := { x with lane := x.lane + 1, pos := x.pos + 1 }.post cfg.size
        w.setStream c s
          (if cfg.b64 then
            { x with out := x.out ++
              [if bad then memoryErr s else { plainToken kDATA with valid := 16, data := d, p := t.p }] }
          else { x with buf := x.buf ++ [lane d 0], poison := x.poison || bad })
      if inside then
        match w.streamRead c s va cfg.size with
        | .ok bs w' => (next (BitVec.ofNat 512 (leNat bs)) false w').gatherLanes c s t fuel
        | .stop w' => (false, w')
        | .failing a w' => (next 0 true (w'.eccReport c (addrStream s) a false s)).gatherLanes c s t fuel
      else (next (payloadOf (List.replicate 16 cfg.pad)) false w).gatherLanes c s t fuel

/-- A GATHER stream ends its output: EOS, then it throws coordinates away up to the next EOS. -/
def Stream.gatherEnd (x : Stream) : Stream := { x with out := x.out ++ [eosToken], discard := true }

/-- The coordinate token has been read: its rows in one token, or one token each. -/
def World.gatherDone (w : World) (c s : Nat) (t : Token) : World :=
  let w := w.dropToken c s 0
  let x := w.stream c s
  let cfg := (w.eng c).streamCfg s
  let row : Token :=
    if x.poison then memoryErr s
    else { plainToken kDATA with valid := BitVec.ofNat 5 x.buf.length, p := t.p, data := payloadOf x.buf }
  let x := if cfg.b64 then x else { x with out := x.out ++ [row] }
  let x := { x with lane := 0, buf := [], poison := false }
  let ends := (x.count != 0 && x.count ≤ x.pos) || x.drain
  w.setStream c s (if ends then x.gatherEnd else x)

/-- GATHER_TOKEN. -/
def World.gatherEvent (w : World) (c s : Nat) : World :=
  let x := w.stream c s
  let cfg := (w.eng c).streamCfg s
  if x.state != .running || x.saved || cfg.modeOf != mGATHER then w
  else if !x.out.isEmpty && !(x.lane != 0 && cfg.b64) then w.pump c s
  else if x.discard then
    match w.headToken c s 0 with
    | none => w
    | some t =>
      let w := w.dropToken c s 0
      let x := w.stream c s
      if t.kind == kEOS then w.setStream c s { x with discard := false, state := .ended } else w
  else if x.pressed && x.lane = 0 then w
  else if x.drain && x.lane = 0 then (w.setStream c s x.gatherEnd).pump c s
  else
    match w.headToken c s 0 with
    | none => w
    | some t =>
      if t.kind == kDATA then
        match w.gatherLanes c s t 16 with
        | (false, w') => w'
        | (true, w') => (w'.gatherDone c s t).pump c s
      else
        let w := w.dropToken c s 0
        let x := w.stream c s
        let isErr := t.kind == kERR
        let x := if isErr then x.skip 1 else x
        let x := { x with
          out := [{ t with r := false, p := t.p || isErr }]
          last := t.kind == kEOS && x.count == 0 }
        (w.setStream c s x).pump c s

/-! SCATTER (R284). -/

/-- The writes of one coordinate lane: the word of its data lane, or the valid lanes of its row. -/
def scatterBytes (cfg : StreamCfg) (d : Token) (i : Nat) : Option (List Byte) :=
  if d.kind != kDATA then none
  else if cfg.b64 then some ((leBytes 64 d.data.toNat).take (4 * min d.valid.toNat 16))
  else if i < d.valid.toNat then some (leBytes 4 (lane d.data i).toNat)
  else none

/-- Write one coordinate lane: true when it is done. -/
def World.scatterLane (w : World) (c s : Nat) (co d : Token) : Bool × World :=
  let x := w.stream c s
  let cfg := (w.eng c).streamCfg s
  let done (w : World) : Bool × World :=
    let x := w.stream c s
    (true, w.setStream c s ({ x with lane := x.lane + 1, pos := x.pos + 1 }.post cfg.size))
  let (va, inside) := cfg.rowAt x.base (lane co.data x.lane)
  if x.count != 0 && x.count ≤ x.pos then (true, w.setStream c s { x with lane := x.lane + 1 })
  else
    match (if inside then scatterBytes cfg d x.lane else none) with
    | none | some [] => done w
    | some bs =>
      match w.streamWrite c s va cfg.size bs with
      | .ok () w' => done w'
      | .stop w' => (false, w')
      | .failing _ w' => (false, w')

/-- All lanes of a coordinate token against one data token (B64 = 0). -/
def World.scatterAll (c s : Nat) (co d : Token) : Nat → World → Bool × World
  | 0, w => (true, w)
  | fuel + 1, w =>
    if co.valid.toNat ≤ (w.stream c s).lane then (true, w)
    else
      match w.scatterLane c s co d with
      | (false, w') => (false, w')
      | (true, w') => w'.scatterAll c s co d fuel

/-- Both tokens have been used. -/
def World.scatterDone (w : World) (c s : Nat) (d : Token) : World :=
  let x := w.stream c s
  let x := { x with lane := 0 }
  ((w.setStream c s (if d.kind == kERR then x.skip 1 else x)).dropToken c s 0).dropToken c s 1

/-- Is a token neither data nor a marker: SCATTER takes it and does nothing (log 27)? -/
def scatterIdle (t : Option Token) : Bool := t.any (fun t => !(t.isMarker || t.kind == kDATA || t.kind == kERR))

/-- SCATTER_TOKEN. -/
def World.scatterEvent (w : World) (c s : Nat) : World :=
  let x := w.stream c s
  let cfg := (w.eng c).streamCfg s
  if x.state != .running || x.saved || cfg.modeOf != mSCATTER then w
  else if scatterIdle (w.headToken c s 1) then w.dropToken c s 1
  else if scatterIdle (w.headToken c s 0) then w.dropToken c s 0
  else
    match w.headToken c s 1, w.headToken c s 0 with
    | none, _ => w
    | some co, none =>
      if co.isMarker && !ltagEn (cfg.tag 0) then w.endCommand c s (co.sideband.setWidth 64)
      else if co.kind == kDATA && cfg.b64 && co.valid.toNat ≤ x.lane then
        (w.setStream c s { x with lane := 0 }).dropToken c s 1
      else w
    | some co, some d =>
      if co.isMarker || d.isMarker then
        if co.kind == d.kind && co.level == d.level then
          let w := (w.dropToken c s 0).dropToken c s 1
          if co.kind == kEOS then w.sinkEos c s else w
        else w.endCommand c s (co.sideband.setWidth 64 ||| (d.sideband.setWidth 64 <<< 32))
      else if co.kind == kERR then ((w.setStream c s (x.skip 1)).dropToken c s 0).dropToken c s 1
      else if cfg.b64 then
        if co.valid.toNat ≤ x.lane then (w.setStream c s { x with lane := 0 }).dropToken c s 1
        else
          match w.scatterLane c s co d with
          | (false, w') => w'
          | (true, w') =>
            let y := w'.stream c s
            let w' := (if d.kind == kERR then w'.setStream c s (y.skip 1) else w').dropToken c s 0
            if co.valid.toNat ≤ y.lane then (w'.setStream c s { w'.stream c s with lane := 0 }).dropToken c s 1 else w'
      else
        match w.scatterAll c s co d 16 with
        | (false, w') => w'
        | (true, w') => w'.scatterDone c s d

end Sys2Proof.Machine
end

