-- ==== Sys2Proof/Machine/Copies.lean ====
section
/-! DEFINITION. The copy engine: records, templates, queues, beats and completions (R286 to R290, R297). -/

namespace Sys2Proof.Machine

/-! Actions that wait (R301, R420). -/

/-- What has been done, unless the trace fabric holds its source up (R420), or it needs a walk first (R301): then nothing of
it but the request. -/
def World.unlessHeld (w0 w : World) : World :=
  match w.stall, w.miss with
  | some (k, src), _ => { w0 with held := Tbl.put w0.held src k }
  | none, some (c, k) =>
    if (w0.eng c).walking k.asid k.va then w0 else w0.setEng c ((w0.eng c).askWalk k)
  | none, none => w

/-! Inline reads of a command's performing unit (R254, R291). -/

/-- A unit is told of the refusal that its walk of a page has come to. -/
def World.collect (w : World) (c u : Nat) (asid : BitVec 16) (va : Word) : World :=
  let g := w.eng c
  w.setEng c { g with walks := g.walks.filter (fun k => k.live || k.who != Walker.unit u || !k.ofPage asid va) }

/-- Where an access of unit `u` for a command leads, under the address space at its issue. Where it needs a walk first (R301),
`miss` holds the request: whoever ran the action undoes it and makes the request (World.unlessHeld). A refusal that its walk
has come to is still kept. -/
def World.commandSeek (w : World) (c u : Nat) (asid : BitVec 16) (ptroot : Word) (priv xoff : Bool) (a : Access)
    (va : Word) : Except XlatStop PhysAddr × World :=
  if priv && xoff then (physicalXlat va, w)
  else
    match w.translate c (.unit u) (fun k => k.who == Walker.unit u) asid ptroot priv a va with
    | (.error .walk, _) =>
      (.error .walk, { w with miss := some (w.miss.getD (c, .asked (.unit u) asid ptroot va priv a w.cycle)) })
    | x => x

/-- The address an access of unit `u` for a command translates to; the unit is told of a refusal once. -/
def World.commandXlat (w : World) (c u : Nat) (asid : BitVec 16) (ptroot : Word) (priv xoff : Bool) (a : Access)
    (va : Word) : Except XlatStop PhysAddr × World :=
  match w.commandSeek c u asid ptroot priv xoff a va with
  | (.error (.refused r), w) => (.error (.refused r), w.collect c u asid va)
  | x => x

/-- Why a read for a command failed; nothing stays of an action that waits for a walk. -/
def XlatStop.reason : XlatStop → Refused
  | .refused r => r
  | .walk => ⟨rINVALID, 0⟩

/-- Read bytes for a command that unit `u` performs, `unit` its code as a source of events; a failing word is reported, and the
read refused. -/
def World.commandRead (w : World) (c u unit : Nat) (asid : BitVec 16) (ptroot : Word) (priv xoff : Bool) (va : Word)
    (n : Nat) : Except Refused (List Byte) × World :=
  match w.commandXlat c u asid ptroot priv xoff .read va with
  | (.error r, w) => (.error r.reason, w)
  | (.ok pa, w) =>
    match w.unitReadAs false c unit 0 pa n with
    | .ok bs w => (.ok bs, w)
    | .refused r => (.error ⟨r, 0⟩, w)
    | .wait => (.error ⟨rBUS, 0⟩, w)
    | .failing a => (.error ⟨rBUS, 0⟩, w.eccReport c unit a false 0)

/-- Is a 64-byte read of a command one of an empty FIFO, for which it waits (R277)? -/
def World.readWaits (w : World) (c u : Nat) (asid : BitVec 16) (ptroot : Word) (priv xoff : Bool) (va : Word) : Bool :=
  match (w.commandXlat c u asid ptroot priv xoff .read va).1 with
  | .error _ => false
  | .ok pa =>
    !pa.remote && w.mayReach c pa && pa.addr % 64 = 0 &&
      (match regionOf pa.addr with
       | .pad k e _ => (match ((w.eng k).cfg e).bankMode with | .fifo => ((w.eng k).elem e).fifo.isEmpty | _ => false)
       | _ => false)

/-- The doublewords of a list of bytes. -/
def wordsOf (bs : List Byte) (n : Nat) : List Word :=
  (List.range n).map (fun i => BitVec.ofNat 64 (leNat ((bs.drop (8 * i)).take 8)))

/-! Records (R286). -/

def CopyRec.word (r : CopyRec) (i : Nat) : Word := r.words.toList.getD i 0
def CopyRec.src (r : CopyRec) : Word := r.word 0
def CopyRec.dst (r : CopyRec) : Word := r.word 1
def CopyRec.rows (r : CopyRec) : Nat := bitsNat (r.word 2) 32 16 + 1
def CopyRec.len (r : CopyRec) : Nat := bitsNat (r.word 2) 0 32
def CopyRec.dstr (r : CopyRec) : BitVec 32 := (r.word 3).extractLsb' 32 32
def CopyRec.sstr (r : CopyRec) : BitVec 32 := (r.word 3).extractLsb' 0 32
def CopyRec.cw (r : CopyRec) : Word := r.word 4
def CopyRec.lport (r : CopyRec) : Nat := bitsNat (r.word 5) 12 4
def CopyRec.ltag (r : CopyRec) : Nat := bitsNat (r.word 5) 9 3
def CopyRec.dch (r : CopyRec) : Bool := (r.word 5).getLsbD 8
def CopyRec.ll (r : CopyRec) : Nat := bitsNat (r.word 6) 10 5
def CopyRec.dl (r : CopyRec) : Nat := bitsNat (r.word 6) 5 5
def CopyRec.sl (r : CopyRec) : Nat := bitsNat (r.word 6) 0 5

/-- Is a lane code legal: a lane, or none? -/
def laneCodeOk (n : Nat) : Bool := n < 16 || n == 31

/-- The memory element, of any core of the package, that a virtual address of core `c` lies in. -/
def World.padAt (w : World) (c : Nat) (asid : BitVec 16) (ptroot va : Word) : Option (Nat × Nat) :=
  match w.peek c asid ptroot .write va with
  | some pa =>
    if pa.remote then none
    else
      match regionOf pa.addr with
      | .pad k e _ => some (k, e)
      | _ => none
  | none => none

/-- The memory element that a virtual address of core `c` lies in, if it lies in the core's own scratchpad. -/
def World.padOf (w : World) (c : Nat) (asid : BitVec 16) (ptroot va : Word) : Option Nat :=
  ((w.padAt c asid ptroot va).filter (fun q => q.1 = c)).map (·.2)

/-- A record's reserved bits and field rules (R286). LPORT names a port or none: the codes 9 to 15 make a record invalid, which
is the model's choice (log 27). -/
def CopyRec.fieldsOk (r : CopyRec) : Bool :=
  bitsNat r.src 56 8 == 0 && bitsNat (r.word 2) 48 16 == 0 && bitsNat (r.word 5) 16 48 == 0 &&
    bitsNat (r.word 5) 0 6 == 0 && bitsNat (r.word 6) 15 49 == 0 && r.word 7 == 0 && laneCodeOk r.ll &&
    laneCodeOk r.dl && laneCodeOk r.sl && r.lport ≤ 8 &&
    (!r.dch || (r.dst == 0 && r.lport == 0 && r.len % 4 == 0))

/-- Is a record valid on core `c` (R286)? -/
def World.recordOk (w : World) (c : Nat) (r : CopyRec) : Bool :=
  r.ok && r.fieldsOk && (r.lport == 0 || (w.padOf c r.asid r.ptroot r.dst).isSome)

/-- Read a record for a command; a refused read makes it invalid (R291). -/
def World.readRecord (w : World) (c : Nat) (asid : BitVec 16) (ptroot va : Word) : CopyRec × World :=
  match w.commandRead c uCOPY uCOPY asid ptroot false false va 64 with
  | (.ok bs, w) => (⟨Vector.ofFn (fun i => (wordsOf bs 8).getD i.val 0), asid, ptroot, true⟩, w)
  | (.error _, w) => (⟨Vector.replicate 8 0, asid, ptroot, false⟩, w)

/-- A template with a trigger's lanes put in (R289). -/
def CopyRec.withTrigger (r : CopyRec) (d : Payload) : CopyRec :=
  let moved (n : Nat) (a : Word) : Word := if n < 16 then a + BitVec.ofInt 64 ((lane d n).toInt * 64) else a
  let w2 : Word := if r.ll < 16 then (r.word 2).extractLsb' 32 32 ++ lane d r.ll else r.word 2
  { r with words := ((r.words.set 0 (moved r.sl r.src)).set 1 (moved r.dl r.dst)).set 2 w2 }

/-! Places and queues. -/

def CopyQueue.empty : CopyQueue := ⟨none, [], none, none⟩
def Eng.queue (g : Eng) (q : Nat) : CopyQueue := Tbl.get g.queues CopyQueue.empty q
def Eng.setQueue (g : Eng) (q : Nat) (x : CopyQueue) : Eng := { g with queues := Tbl.put g.queues q x }
def Eng.copy (g : Eng) (p : Nat) : Option Copy := Tbl.find g.copies p
def Eng.setCopy (g : Eng) (p : Nat) (x : Copy) : Eng := { g with copies := Tbl.put g.copies p x }

/-- The record under which a queue's triggers fire in a cycle: that of its slot, or, in the cycle of a QARM or QDIS, the
one armed before it (R289). -/
def Eng.armedRec (g : Eng) (now q : Nat) : Option CopyRec :=
  let x := g.queue q
  if x.since == some now then x.before else x.slot.bind (Tbl.find g.templates)

/-- Arm a queue with a slot, or disarm it. The triggers taken in the cycle keep the old arming. -/
def Eng.armQueue (g : Eng) (now q : Nat) (slot : Option Nat) : Eng :=
  let x := g.queue q
  let old := g.armedRec now q
  g.setQueue q { x with
    slot := slot, since := some now, before := old
    triggers := x.triggers.map (fun t => if t.at' = now && t.under.isNone then { t with under := old } else t) }

/-- A trigger as a queue takes it: one taken in the cycle of a QARM or QDIS fires under the old arming (R289). -/
def CopyQueue.taking (x : CopyQueue) (now : Nat) (d : Payload) (from' : Option (Nat × Nat)) : CopyQueue :=
  { x with triggers := x.triggers ++ [⟨d, from', now, if x.since == some now then x.before else none⟩] }

/-- A place becomes free; its word keeps the reason of the last fault (R303). -/
def Eng.freeCopy (g : Eng) (p : Nat) : Eng :=
  { g with
    copyReason := match g.copy p with
      | some x => Tbl.put g.copyReason p x.reason
      | none => g.copyReason
    copies := g.copies.filter (fun q => q.1 != p)
    walks := g.walks.filter (fun k => k.who != .copySrc p && k.who != .copyDst p) }

/-- The lowest free in-flight place. -/
def Eng.freePlace (g : Eng) : Option Nat := (List.range 64).find? (fun p => (g.copy p).isNone)

/-- Status words of a completion (R288). -/
def csDONE : BitVec 32 := 0
def csCANCELLED : BitVec 32 := 1
def csERROR : BitVec 32 := 2

/-- Does a COPY stream have an output (R290)? -/
def Eng.hasOutput (g : Eng) (s : Nat) : Bool := (streamLink g.cfg s).isSome

/-- Put a copy into a place: ERROR at once where its record is invalid, or sends on no channel. -/
def World.placeCopy (w : World) (c p : Nat) (r : CopyRec) (from' : Option (Nat × Nat)) : World :=
  let g := w.eng c
  let channel := match from' with | some (s, _) => g.hasOutput s | none => false
  let bad := !w.recordOk c r || (r.dch && !channel)
  w.setEng c (g.setCopy p {
    crec := r, from' := from', state := .running, reason := Tbl.get g.copyReason 0 p, row := 0, off := 0, written := 0
    status := if bad then some csERROR else if r.len = 0 then some csDONE else none
    cwDone := false, landed := false, srcEntry := none, dstEntry := none, refused := none })

/-! COPY streams (R290). -/

/-- A COPY stream takes its triggers from ARM or SDEF until a kill or the end of its vat. -/
def World.copyStreamLive (w : World) (c s : Nat) : Bool :=
  let g := w.eng c
  let x := g.stream s
  x.state == .idle && !x.pressed && (g.streamCfg s).modeOf == mCOPY &&
    (x.defined || (g.vatOf (addrStream s)).isSome)

/-- A COPY stream without an output reports once it has taken an EOS and all its copies have completed. -/
def World.copyReport (w : World) (c s : Nat) : World :=
  let g := w.eng c
  let x := g.stream s
  if x.eos && x.orders.isEmpty && !g.hasOutput s && (g.streamCfg s).modeOf == mCOPY then
    w.reportSink c (addrStream s) (sinkStream s)
  else w

/-- The token an order owes; none while its copy runs. -/
def CopyOrder.token : CopyOrder → Option Token
  | .marker t => some { t with r := false }
  | .copy ord (some st) =>
    some { plainToken kEOT with valid := 2, data := payloadOf [st, BitVec.ofNat 32 ord] }
  | .copy _ none => none

/-- Send the end tokens and markers that are due, in order (R288, R290). -/
def World.flushOrders (c s : Nat) : Nat → World → World
  | 0, w => w
  | fuel + 1, w =>
    let x := w.stream c s
    match x.orders with
    | [] => w.copyReport c s
    | o :: rest =>
      match o.token with
      | none => w
      | some t =>
        let gone (w : World) : World := w.setStream c s { w.stream c s with orders := rest }
        if (w.eng c).hasOutput s then
          match w.sendStream c s t with
          | none => w
          | some w' => gone w'
        else (gone w).flushOrders c s fuel

/-- The streams that feed a queue. -/
def World.feeders (w : World) (c q : Nat) : List Nat :=
  (List.range 32).filter (fun s => w.copyStreamLive c s && ((w.eng c).streamCfg s).cq.toNat = q)

/-- Does a queue take what its streams hold: armed, not full, and a place free (R289)? -/
def Eng.queueTakes (g : Eng) (now q : Nat) : Bool :=
  (g.armedRec now q).isSome && (g.queue q).triggers.length < 16 && g.freePlace.isSome

/-- A COPY stream hands the token at its input on: a trigger to its queue, anything else toward its output. It takes
nothing while its queue takes nothing. -/
def World.handOn (w : World) (c q s : Nat) : World :=
  let g := w.eng c
  match g.popPool (.stream s 0) with
  | none => w
  | some (t, g') =>
    let x := g.stream s
    let k := g.queue q
    let sink := (streamLink g.cfg s).isNone
    let g' := if sink then g'.formEdge (addrStream s) (sinkTag s 0) t else g'
    if !g.queueTakes w.cycle q || (sink && g.edgeHolds (addrStream s) (sinkTag s 0) (some t)) then w
    else if t.kind == kDATA then
      let g' := g'.setQueue q (k.taking w.cycle t.data (some (s, x.fired)))
      w.setEng c (g'.setStream s { x with
        fired := x.fired + 1, orders := x.orders ++ [.copy x.fired none] })
    else
      w.setEng c (g'.setStream s { x with
        orders := x.orders ++ [.marker t], eos := x.eos || t.kind == kEOS })

/-- The trigger at the head of a queue takes a place, under its own arming or the queue's (R289), unless a press is under
way. -/
def World.fireQueue (w : World) (c q : Nat) : World :=
  let g := w.eng c
  let k := g.queue q
  match k.triggers, g.freePlace with
  | tr :: rest, some p =>
    match (if g.pressing then none else tr.under.or (g.armedRec w.cycle q)) with
    | some r => (w.setEng c (g.setQueue q { k with triggers := rest })).placeCopy c p (r.withTrigger tr.data) tr.from'
    | none => w
  | _, _ => w

/-- COPY_FIRE: the streams of the queue hand on what they hold, one token each; then a trigger fires. -/
def World.copyFire (w : World) (c q : Nat) : World :=
  let w := (w.feeders c q).foldl (fun w s => w.handOn c q s) w
  let w := w.fireQueue c q
  (w.feeders c q).foldl (fun w s => w.flushOrders c s 64) w

/-! Beats (R287). -/

/-- A copy's access is refused (R302). -/
def World.faultCopy (w : World) (c p : Nat) (k : Copy) (r : Refused) (write : Bool) (va : Word) : World :=
  (w.setEng c ((w.eng c).setCopy p { k with state := .faulted, reason := r.reason, refused := some ⟨write, va⟩ })).streamXlate
    c va r write true p k.crec.asid

/-- A read of a copy: its bytes and the copy with its source entry; or the world it stops in. -/
def World.copyRead (w : World) (c p : Nat) (k : Copy) (va : Word) (n : Nat) : Except World (List Byte × Copy × World) :=
  match w.unitTranslate c (.copySrc p) k.srcEntry k.crec.asid k.crec.ptroot .read va with
  | .refused r => .error (w.faultCopy c p k r false va)
  | .wait w' => .error w'
  | .ok pa t =>
    let k := { k with srcEntry := some t }
    match w.unitRead c uCOPY p pa n with
    | .ok bs w' => .ok (bs, k, w')
    | .refused r => .error (w.faultCopy c p k ⟨r, 0⟩ false va)
    | .wait => .error w
    | .failing a =>
      .error ((w.setEng c ((w.eng c).setCopy p { k with status := some csERROR })).eccReport c uCOPY a true p)

/-- A write of a copy. -/
def World.copyWrite (w : World) (c p : Nat) (k : Copy) (va : Word) (bs : List Byte) : Except World (Copy × World) :=
  match w.unitTranslate c (.copyDst p) k.dstEntry k.crec.asid k.crec.ptroot .write va with
  | .refused r => .error (w.faultCopy c p k r true va)
  | .wait w' => .error w'
  | .ok pa t =>
    let k := { k with dstEntry := some t }
    match w.unitWrite c pa bs with
    | .ok () w' => .ok (k, w')
    | .refused r => .error (w.faultCopy c p k ⟨r, 0⟩ true va)
    | .wait => .error w
    | .failing _ => .error w

/-- Address of byte `off` of row `row`. -/
def rowAddr (base : Word) (stride : BitVec 32) (row off : Nat) : Word :=
  base + BitVec.ofInt 64 ((row : Int) * stride.toInt + (off : Int))

def Copy.srcAddr (k : Copy) : Word := rowAddr k.crec.src k.crec.sstr k.row k.off
def Copy.dstAddr (k : Copy) : Word := rowAddr k.crec.dst k.crec.dstr k.row k.off

/-- Bytes from an address to the next 64-byte boundary. -/
def toBoundary (a : Word) : Nat := 64 - a.toNat % 64

/-- `n` bytes have moved. -/
def Copy.moved (k : Copy) (n : Nat) : Copy :=
  let k := { k with off := k.off + n, written := k.written + n }
  if k.off < k.crec.len then k
  else if k.row + 1 < k.crec.rows then { k with row := k.row + 1, off := 0 }
  else { k with row := k.row + 1, off := 0, status := some csDONE }

/-- May a copy send on its stream's channel now: is it the oldest of the stream's copies (R288)? -/
def World.ownsChannel (w : World) (c : Nat) (from' : Nat × Nat) : Bool :=
  match (w.stream c from'.1).orders with
  | .copy ord none :: _ => ord == from'.2
  | _ => false

/-- Send a token of a copy on its stream's channel; one whose stream a VKILL has stopped goes nowhere (R369). -/
def World.sendChannel (w : World) (c : Nat) (from' : Option (Nat × Nat)) (t : Token) : Option World :=
  match from' with
  | some f => w.sendStream c f.1 t
  | none => some w

/-- One token of a copy into its channel (R287, DCH = 1). -/
def World.channelBeat (w : World) (c p : Nat) (k : Copy) : World :=
  if !(k.from'.all (w.ownsChannel c)) then w
  else
    let n := min 64 (k.crec.len - k.off)
    let va := k.srcAddr
    let n1 := min n (toBoundary va)
    match w.copyRead c p k va n1 with
    | .error w' => w'
    | .ok (bs, k, w1) =>
      let second : Except World (List Byte × Copy × World) :=
        if n1 = n then .ok ([], k, w1) else w1.copyRead c p k (va + BitVec.ofNat 64 n1) (n - n1)
      match second with
      | .error w' => w'
      | .ok (bs2, k, w2) =>
        let t : Token := { plainToken kDATA with
          valid := BitVec.ofNat 5 (n / 4), data := BitVec.ofNat 512 (leNat (bs ++ bs2)) }
        match w2.sendChannel c k.from' t with
        | none => w
        | some w3 => w3.setEng c ((w3.eng c).setCopy p (k.moved n))

/-- One beat from memory to memory (R287). The source is read for good only once the write can be made. -/
def World.memoryBeat (w : World) (c p : Nat) (k : Copy) : World :=
  let n := min (k.crec.len - k.off) (min (toBoundary k.srcAddr) (toBoundary k.dstAddr))
  match w.copyRead c p k k.srcAddr n with
  | .error w' => w'
  | .ok (bs, k, w1) =>
    match w.copyWrite c p k k.dstAddr bs with
    | .error w' => w'
    | .ok _ =>
      match w1.copyWrite c p k k.dstAddr bs with
      | .error w' => w'
      | .ok (k, w2) => w2.setEng c ((w2.eng c).setCopy p (k.moved n))

/-- COPY_BEAT. -/
def World.copyBeat (w : World) (c p : Nat) : World :=
  match (w.eng c).copy p with
  | none => w
  | some k =>
    if k.state != .running || k.status.isSome then w
    else if k.crec.dch then w.channelBeat c p k
    else w.memoryBeat c p k

/-! Completion (R288). -/

/-- What a completion adds to its completion word. -/
def completionAdd (st : BitVec 32) : Word :=
  if st == csDONE then 1 else if st == csERROR then 0x100000000 else 0x1000000000000

/-- The atomic add to the completion word: the copy with it done, or the world it stops in. -/
def World.addCompletion (w : World) (c p : Nat) (k : Copy) (st : BitVec 32) : Except World (Copy × World) :=
  if k.crec.cw == 0 || k.cwDone then .ok (k, w)
  else if k.crec.cw.toNat % 8 != 0 then .error (w.faultCopy c p k ⟨rALIGN, 0⟩ true k.crec.cw)
  else
    match w.unitTranslate c (.copyDst p) k.dstEntry k.crec.asid k.crec.ptroot .readWrite k.crec.cw with
    | .refused r => .error (w.faultCopy c p k r true k.crec.cw)
    | .wait w' => .error w'
    | .ok pa t =>
      let k := { k with dstEntry := some t }
      match w.unitRead c uCOPY p pa 8 with
      | .ok bs w1 =>
        match w1.unitWrite c pa (leBytes 8 (BitVec.ofNat 64 (leNat bs) + completionAdd st).toNat) with
        | .ok () w2 => .ok ({ k with cwDone := true }, w2)
        | .refused r => .error (w.faultCopy c p k ⟨r, 0⟩ true k.crec.cw)
        | .wait => .error w
        | .failing _ => .error w
      | .refused r => .error (w.faultCopy c p k ⟨r, 0⟩ true k.crec.cw)
      | .wait => .error w
      | .failing a => .ok ({ k with cwDone := true }, w.eccReport c uCOPY a true p)

/-- The landing token at the destination memory element; none while its port has no slot. A record whose LPORT names no
port, or whose DST lies in no memory element, has none. -/
def World.sendLanding (w : World) (c : Nat) (k : Copy) (st : BitVec 32) : Option World :=
  if k.crec.lport = 0 || 8 < k.crec.lport || k.landed then some w
  else
    match w.padOf c k.crec.asid k.crec.ptroot k.crec.dst with
    | none => some w
    | some e =>
      let d : Endpoint := .grid e (k.crec.lport - 1) k.crec.ltag
      let t : Token := { plainToken kCTRL with
        valid := 2, data := payloadOf [st, BitVec.ofNat 32 k.written] }
      w.enterLink c d t ((w.eng c).linkFmt d 0) (w.cycle + 1)

/-- Note a copy's status among its stream's orders. -/
def CopyOrder.resolve (ord : Nat) (st : BitVec 32) : CopyOrder → CopyOrder
  | .copy o none => if o = ord then .copy o (some st) else .copy o none
  | x => x

/-- COPY_COMPLETE: the completion word, the landing token, the end token in trigger order, the place. -/
def World.copyComplete (w : World) (c p : Nat) : World :=
  match (w.eng c).copy p with
  | none => w
  | some k =>
    match k.status with
    | none => w
    | some st =>
      if k.state == .faulted then w
      else
        match w.addCompletion c p k st with
        | .error w' => w'
        | .ok (k, w) =>
          match w.sendLanding c k st with
          | none => w.setEng c ((w.eng c).setCopy p k)
          | some w =>
            let w := w.setEng c ((w.eng c).freeCopy p)
            match k.from' with
            | none => w
            | some (s, ord) =>
              let x := w.stream c s
              (w.setStream c s { x with orders := x.orders.map (CopyOrder.resolve ord st) }).flushOrders c s 64

/-- The 64 KiB pages that a copy writes, row by row. A page lies in one bank at most (R277). -/
def CopyRec.pages (r : CopyRec) : List Word :=
  if r.len = 0 then []
  else ((List.range r.rows).map (fun i =>
    let a := (rowAddr r.dst r.dstr i 0).toNat
    (List.range ((a % 65536 + r.len + 65535) / 65536)).map (fun j =>
      BitVec.ofNat 64 (a / 65536 * 65536 + 65536 * j)))).flatten

/-- The memory elements, by core and element, that a copy of core `c` targets. -/
def World.copyTargets (w : World) (c : Nat) (k : Copy) : List (Nat × Nat) :=
  if k.crec.dch then [] else k.crec.pages.filterMap (w.padAt c k.crec.asid k.crec.ptroot)

/-- Does a copy of core `k` target a memory element of a region of core `c`? -/
def World.copyInto (w : World) (k : Nat) (x : Copy) (c : Nat) (inside : Nat → Bool) : Bool :=
  (w.copyTargets k x).any (fun t => t.1 = c && inside t.2)

/-- Is a copy of any core under way into a region of core `c`? -/
def World.inbound (w : World) (c : Nat) (inside : Nat → Bool) : Bool :=
  w.engs.any (fun q => q.2.copies.any (fun x => w.copyInto q.1 x.2 c inside))

/-- End a copy as CANCELLED: a walk of it, or a refusal, is of no account any more. -/
def Eng.cancelCopy (g : Eng) (p : Nat) (x : Copy) : Eng :=
  { g.setCopy p { x with status := some csCANCELLED, state := .running, refused := none } with
    walks := g.walks.filter (fun k => k.who != .copySrc p && k.who != .copyDst p) }

/-- End the copies that target elements of a region of core `c`, as CANCELLED (R259, R369). -/
def World.cancelCopies (w : World) (c : Nat) (inside : Nat → Bool) : World :=
  w.engs.foldl (fun w' q =>
    w'.setEng q.1 (q.2.copies.foldl (fun g x =>
      if x.2.status.isNone && w.copyInto q.1 x.2 c inside then g.cancelCopy x.1 x.2 else g) (w'.eng q.1))) w

end Sys2Proof.Machine
end

