-- ==== Sys2Proof/Machine/HashUnit.lean ====
section
/-! DEFINITION. The key unit: projections and signatures, the hoop pool, the KEYST and BGATH modes of a stream (R305 to
R320, R270, R271). -/

namespace Sys2Proof.Machine

/-! Projections (R306, R307). -/

/-- Mix (R306). -/
def mix (seed : BitVec 32) (t i j : Nat) : BitVec 32 :=
  let x := seed ^^^ (BitVec.ofNat 32 t * 0x9E3779B9) ^^^ (BitVec.ofNat 32 i * 0x85EBCA6B) ^^^
    (BitVec.ofNat 32 j * 0xC2B2AE35)
  let x := x ^^^ (x >>> 16)
  let x := x * 0x7FEB352D
  let x := x ^^^ (x >>> 15)
  let x := x * 0x846CA68B
  x ^^^ (x >>> 16)

/-- Is a projection entry −1? -/
def projNeg (seed : BitVec 32) (t i j : Nat) : Bool := (mix seed t i j).getLsbD 0

/-- Bit i of a signature: the exact sum of a row is negative (R307). -/
def sigBit (seed : BitVec 32) (t i : Nat) (k : List Val) : Bool :=
  let (s, _) := exactSum (k.zipIdx.map (fun q => if projNeg seed t i q.2 then q.1.neg else q.1)) .rne
  s.isNeg && !s.isZero && !s.isNan

/-- The signature of a vector: the bucket number. -/
def signature (seed : BitVec 32) (t m : Nat) (k : List Val) : Nat :=
  ((List.range m).map (fun i => if sigBit seed t i k then 2 ^ i else 0)).sum

/-! Hash state (R305). -/

def HashTable.m (x : HashTable) : Nat := (x.desc.extractLsb' 12 4).toNat + 1
def HashTable.d (x : HashTable) : Nat := 16 * ((x.desc.extractLsb' 16 4).toNat + 1)
def HashTable.limit (x : HashTable) : Nat := (x.desc.extractLsb' 20 8).toNat

def Hash.seed (h : Hash) (head : Nat) : BitVec 32 := Tbl.get h.seeds 0 head

/-- A defined table: its base is not 0 (R322). -/
def Hash.table (h : Hash) (head t : Nat) : Option HashTable := (Tbl.find h.tables (4 * head + t)).filter (·.base != 0)

def Hash.setTable (h : Hash) (head t : Nat) (x : HashTable) : Hash :=
  { h with tables := Tbl.put h.tables (4 * head + t) x }

/-- The defined tables of a head, ascending. -/
def Hash.tablesOf (h : Hash) (head : Nat) : List (Nat × HashTable) :=
  (List.range 4).filterMap (fun t => (h.table head t).map (fun x => (t, x)))

/-- The key length of a head. -/
def Hash.keyLen (h : Hash) (head : Nat) : Nat := ((h.tablesOf head).head?.map (·.2.d)).getD 0

/-- Tokens of a key of d elements (R312). -/
def keyTokens (d : Nat) (fmt : BitVec 4) : Nat := (d + fullToken fmt - 1) / fullToken fmt

/-- The elements of a list of tokens of a key, in element order; a lane at or above VALID counts as +0; a marker between them
ends the group of their scales (R75). -/
def keyElems (fmt : BitVec 4) : Option ScaleGroup → List Token → List Val
  | _, [] => []
  | g, t :: rest =>
    if t.kind != kDATA then keyElems fmt (groupPast fmt g t) rest
    else
      let n := (tokElems fmt t.data t.valid.toNat).length
      let vs := (tokElems fmt t.data 16).zipIdx.map (fun q =>
        if q.2 < n then (exact (fmtOfCode fmt) (scaleAt g q.2) q.1).1 else Val.fin false 0 0)
      vs ++ keyElems fmt (groupAfter g n) rest

/-- The block scale in force behind the tokens of a key. -/
def scaleAfter (fmt : BitVec 4) (g : Option ScaleGroup) (ts : List Token) : Option ScaleGroup :=
  ts.foldl (groupPast fmt) g

/-! Accesses in sequence. -/

def StreamIo.bind {α β : Type} (r : StreamIo α) (k : α → World → StreamIo β) : StreamIo β :=
  match r with
  | .ok a w => k a w
  | .stop w => .stop w
  | .failing a w => .failing a w

/-- Read a little-endian number of the stream's memory. -/
def World.streamNat (w : World) (c s : Nat) (va : Word) (n : Nat) : StreamIo Nat :=
  (w.streamRead c s va n).bind (fun bs w => .ok (leNat bs) w)

/-! The pool (R308 to R310). -/

def hoopAddr (h : Hash) (i : Nat) : Word := h.pool + BitVec.ofNat 64 (64 * i)
def hoopWord (count next : Nat) : Nat := count % 32 * 2 ^ 27 + next % 2 ^ 27

/-- A bucket entry (R309). -/
structure Bucket where
  sat : Bool
  len : Nat
  last : Nat
  first : Nat

def Bucket.ofNat (n : Nat) : Bucket := ⟨n / 2 ^ 63 % 2 == 1, n / 2 ^ 55 % 256, n / 2 ^ 27 % 2 ^ 27, n % 2 ^ 27⟩
def Bucket.toNat (b : Bucket) : Nat :=
  (if b.sat then 2 ^ 63 else 0) + b.len % 256 * 2 ^ 55 + b.last % 2 ^ 27 * 2 ^ 27 + b.first % 2 ^ 27

/-- TINFO0 and the event of HOOP_EXHAUST (R315). -/
def hoopInfo (table head s : Nat) : Nat := table * 2 ^ 16 + head * 2 ^ 8 + s

/-- Alloc (R310): a hoop number, 0 when there is none; the first failure since HPOOL raises HOOP_EXHAUST. -/
def World.alloc (w : World) (c s table head idx sig : Nat) : Nat × World :=
  let g := w.eng c
  let h := g.hash
  if h.next < h.slots then (h.next, w.setEng c { g with hash := { h with next := h.next + 1 } })
  else if h.exh then (0, w)
  else
    let i := hoopInfo table head s
    (0, ((w.setEng c { g with hash := { h with exh := true } }).raise c
      ⟨cHOOP, s, ⟨BitVec.ofNat 64 i, BitVec.ofNat 64 idx, BitVec.ofNat 64 sig, 0⟩⟩).emit c uKEY tHOOP (BitVec.ofNat 32 i))

/-- Has a key stream of a higher number asked for a hoop in this cycle (R310)? -/
def Hash.outOfTurn (h : Hash) (now s : Nat) : Bool := match h.allocAt with | some (t, k) => t == now && s < k | none => false

/-- The hoop of an insertion: the one it has already, or a new one, which stays with it (R313). -/
def World.insertHoop (w : World) (c s table head idx sig : Nat) : StreamIo Nat :=
  let x := w.stream c s
  let g := w.eng c
  if x.hoop != 0 then .ok x.hoop w
  else if g.hash.outOfTurn w.cycle s then .stop w
  else
    let (h, w) := (w.setEng c { g with hash := { g.hash with allocAt := some (w.cycle, s) } }).alloc c s table head idx sig
    .ok h (w.setStream c s { w.stream c s with hoop := h })

/-- The counters of a table. -/
def World.countInsert (w : World) (c head t : Nat) (lost : Bool) : World :=
  let g := w.eng c
  match g.hash.table head t with
  | none => w
  | some x =>
    let x := if lost then { x with lost := satInc x.lost } else { x with inserted := x.inserted + 1 }
    w.setEng c { g with hash := g.hash.setTable head t x }

/-- A new hoop with one index, as one 64-byte write. -/
def newHoop (idx : Nat) : List Byte := leBytes 4 (hoopWord 1 0) ++ leBytes 4 idx ++ List.replicate 56 0

/-- Insert (R313) of index `idx` into table `t` of a head at bucket `sig`. -/
def World.insert (w : World) (c s head t : Nat) (x : HashTable) (idx sig : Nat) : StreamIo Unit :=
  let ea := x.base + BitVec.ofNat 64 (8 * sig)
  let hs := (w.eng c).hash
  let put (w : World) (b : Bucket) : StreamIo Unit := w.streamWrite c s ea 8 (leBytes 8 b.toNat)
  let lose (w : World) (b : Bucket) : StreamIo Unit :=
    (put w { b with sat := true }).bind (fun _ w => .ok () (w.countInsert c head t true))
  (w.streamNat c s ea 8).bind (fun n w =>
    let b := Bucket.ofNat n
    if b.first = 0 then
      (w.insertHoop c s t head idx sig).bind (fun h w =>
        if h = 0 then lose w b
        else
          (w.streamWrite c s (hoopAddr hs h) 64 (newHoop idx)).bind (fun _ w =>
            (put w ⟨b.sat, 1, h, h⟩).bind (fun _ w => .ok () (w.countInsert c head t false))))
    else
      let la := hoopAddr hs b.last
      (w.streamNat c s la 4).bind (fun n w =>
        let cnt := n / 2 ^ 27
        let nxt := n % 2 ^ 27
        if cnt < 15 then
          (w.streamWrite c s (la + BitVec.ofNat 64 (4 * (cnt + 1))) 4 (leBytes 4 idx)).bind (fun _ w =>
            (w.streamWrite c s la 4 (leBytes 4 (hoopWord (cnt + 1) nxt))).bind (fun _ w =>
              .ok () (w.countInsert c head t false)))
        else
          (w.insertHoop c s t head idx sig).bind (fun h w =>
            if h = 0 then lose w b
            else
              (w.streamWrite c s (hoopAddr hs h) 64 (newHoop idx)).bind (fun _ w =>
                (w.streamWrite c s la 4 (leBytes 4 (hoopWord 15 h))).bind (fun _ w =>
                  (put w { b with last := h, len := min (b.len + 1) 255 }).bind (fun _ w =>
                    .ok () (w.countInsert c head t false)))))))

/-- Note the key stream whose insertion is under way (R316). -/
def World.setInserting (w : World) (c : Nat) (k : Option Nat) : World :=
  let g := w.eng c
  w.setEng c { g with hash := { g.hash with inserting := k } }

/-- Does an insertion of another key stream that runs stand half done (R316)? -/
def Eng.insertHeld (g : Eng) (s : Nat) : Bool :=
  match g.hash.inserting with
  | some k => k != s && (g.stream k).busy
  | none => false

/-! KEYST (R311 to R314). -/

def StreamCfg.head (c : StreamCfg) : Nat := (c.keyField 0x14).toNat % 256
def StreamCfg.ioff (c : StreamCfg) : Nat := (c.keyField 0x15).toNat + 65536 * (c.keyField 0x16).toNat
def StreamCfg.kmax (c : StreamCfg) : Nat := (c.keyField 0x15).toNat
def StreamCfg.recStride (c : StreamCfg) : Nat := (c.keyField 0x16).toNat
def StreamCfg.qfmt (c : StreamCfg) : BitVec 4 := (c.keyField 0x17).extractLsb' 0 4
def StreamCfg.auto (c : StreamCfg) : Bool := (c.keyField 0x14).getLsbD 15

/-- The tokens of a key that hold its elements. -/
def keyData (ts : List Token) : List Token := ts.filter (fun t => t.kind == kDATA || t.kind == kERR)

/-- The tables of the head that the key still has to enter; the insertions of a core come one at a time (R316). -/
def World.insertTables (c s idx : Nat) (key : List Val) (seed : BitVec 32) (head : Nat) :
    List (Nat × HashTable) → World → StreamIo Unit
  | [], w => .ok () w
  | (t, x) :: rest, w =>
    if t < (w.stream c s).table then w.insertTables c s idx key seed head rest
    else if (w.eng c).insertHeld s then .stop w
    else
      ((w.setInserting c (some s)).insert c s head t x idx (signature seed t x.m key)).bind (fun _ w =>
        ((w.setInserting c none).setStream c s { w.stream c s with table := t + 1, hoop := 0 }).insertTables c s idx key
          seed head rest)

/-- The key is done: the next one begins. -/
def World.nextKey (w : World) (c s : Nat) (fmt : BitVec 4) (bad : Bool) : World :=
  let x := w.stream c s
  let x := if bad then x.skip 1 else x
  w.setStream c s { x with
    pos := x.pos + 1, scale := scaleAfter fmt x.scale x.toks, toks := [], lane := 0, table := 0, hoop := 0 }

/-- Write the tokens of a key from the one reached on. -/
def World.writeKey (c s : Nat) (at' : Word) : List Token → Nat → World → StreamIo Unit
  | [], _, w => .ok () w
  | t :: rest, i, w =>
    if i < (w.stream c s).lane then w.writeKey c s at' rest (i + 1)
    else
      (w.streamWrite c s (at' + BitVec.ofNat 64 (64 * i)) 64 (leBytes 64 t.data.toNat)).bind (fun _ w =>
        (w.setStream c s { w.stream c s with lane := i + 1 }).writeKey c s at' rest (i + 1))

/-- A complete key: written, then inserted into the tables of its head (R312, R314). -/
def World.storeKey (w : World) (c s : Nat) : World :=
  let x := w.stream c s
  let cfg := (w.eng c).streamCfg s
  let fmt := ltagFmt (cfg.tag 0)
  let h := (w.eng c).hash
  let ts := keyData x.toks
  let n := keyTokens (h.keyLen cfg.head) fmt
  if ts.any (·.kind == kERR) then w.nextKey c s fmt true
  else
    match w.writeKey c s (x.base + BitVec.ofNat 64 (64 * n * x.pos)) ts 0 with
    | .stop w' => w'
    | .failing _ w' => w'
    | .ok () w' =>
      if ts.any (·.p) then w'.nextKey c s fmt true
      else
        let key := (keyElems fmt x.scale x.toks).take (h.keyLen cfg.head)
        match w'.insertTables c s ((cfg.ioff + x.pos) % 2 ^ 32) key (h.seed cfg.head) cfg.head (h.tablesOf cfg.head) with
        | .ok () w'' => w''.nextKey c s fmt false
        | .stop w'' => w''
        | .failing a w'' => ((w''.setInserting c none).eccReport c uKEY a false s).nextKey c s fmt true

/-- KEYST_KEY: finish the key at hand, or take the next token. -/
def World.keystEvent (w : World) (c s : Nat) : World :=
  let x := w.stream c s
  let cfg := (w.eng c).streamCfg s
  let fmt := ltagFmt (cfg.tag 0)
  let need := keyTokens ((w.eng c).hash.keyLen cfg.head) fmt
  let full (x : Stream) : Bool := need != 0 && need ≤ (keyData x.toks).length
  if x.state != .running || x.saved || cfg.modeOf != mKEYST then w
  else if full x then w.storeKey c s
  else
    match w.headToken c s 0 with
    | none => w
    | some t =>
      let w := w.dropToken c s 0
      let x := w.stream c s
      if t.kind == kEOS then
        let x := if (keyData x.toks).isEmpty then x else x.skip 1
        (w.setStream c s { x with toks := [], lane := 0, scale := none }).sinkEos c s
      else if t.kind == kDATA || t.kind == kERR then
        if x.count != 0 && x.count ≤ x.pos then w.setStream c s (x.skip 1)
        else
          let x := { x with toks := x.toks ++ [t] }
          let w := w.setStream c s x
          if full x then w.storeKey c s else w
      else if t.kind == kSCALE || t.isMarker then w.setStream c s { x with toks := x.toks ++ [t] }
      else w

/-! BGATH (R318 to R320). -/

/-- Put an index into an ascending list without repeats. -/
def insertIdx (i : Nat) : List Nat → List Nat
  | [] => [i]
  | j :: t => if i < j then i :: j :: t else if i = j then j :: t else j :: insertIdx i t

def minCond (a : Option Nat) (b : Nat) : Option Nat :=
  match a with
  | none => some b
  | some x => some (min x b)

/-- The indices of one hoop. -/
def hoopIdxs (bs : List Byte) (n : Nat) : List Nat :=
  (List.range n).map (fun i => leNat ((bs.drop (4 * i)).take 4))

/-- Walk a chain from hoop `h`, `fuel` hoops at most: the candidates and the condition (R319). -/
def World.walkChain (c s : Nat) (hs : Hash) : Nat → Nat → List Nat → Option Nat → World →
    StreamIo (List Nat × Option Nat)
  | 0, h, cs, cond, w => .ok (cs, if h = 0 then cond else minCond cond 1) w
  | fuel + 1, h, cs, cond, w =>
    if h = 0 then .ok (cs, cond) w
    else if hs.slots ≤ h then .ok (cs, minCond cond 1) w
    else
      (w.streamNat c s (hoopAddr hs h) 4).bind (fun n w =>
        let cnt := min (n / 2 ^ 27) 15
        let rest (bs : List Byte) (w : World) :=
          w.walkChain c s hs fuel (n % 2 ^ 27) ((hoopIdxs bs cnt).foldl (fun l i => insertIdx i l) cs) cond
        if cnt = 0 then rest [] w
        else ((List.range cnt).foldl (fun (r : StreamIo (List Byte)) i =>
          r.bind (fun bs w => (w.streamRead c s (hoopAddr hs h + BitVec.ofNat 64 (4 * (i + 1))) 4).bind
            (fun b w => .ok (bs ++ b) w))) (.ok [] w)).bind rest)

/-- The tables of the head, one after another. -/
def World.walkTables (c s : Nat) (hs : Hash) (seed : BitVec 32) (q : List Val) : List (Nat × HashTable) → List Nat →
    Option Nat → World → StreamIo (List Nat × Option Nat)
  | [], cs, cond, w => .ok (cs, cond) w
  | (t, x) :: rest, cs, cond, w =>
    (w.streamNat c s (x.base + BitVec.ofNat 64 (8 * signature seed t x.m q)) 8).bind (fun n w =>
      let b := Bucket.ofNat n
      let cond := if b.sat then minCond cond 0 else cond
      if x.limit != 0 && x.limit < b.len then w.walkTables c s hs seed q rest cs (minCond cond 1)
      else
        (w.walkChain c s hs 256 b.first cs cond).bind (fun r w => w.walkTables c s hs seed q rest r.1 r.2))

/-- Read the words of a query record: its tokens, then its position. -/
def World.readQuery (c s : Nat) (at' : Word) : Nat → Nat → List Token → World → StreamIo (List Token × Nat)
  | 0, i, ts, w => (w.streamNat c s (at' + BitVec.ofNat 64 (64 * i)) 4).bind (fun p w => .ok (ts, p) w)
  | n + 1, i, ts, w =>
    (w.streamRead c s (at' + BitVec.ofNat 64 (64 * i)) 64).bind (fun bs w =>
      w.readQuery c s at' n (i + 1)
        (ts ++ [{ plainToken kDATA with valid := 16, data := BitVec.ofNat 512 (leNat bs) }]))

/-- A query's candidates at or below its position, and its condition (R319). -/
def World.query (w : World) (c s : Nat) : StreamIo (Nat × List Nat × Option Nat) :=
  let x := w.stream c s
  let cfg := (w.eng c).streamCfg s
  let hs := (w.eng c).hash
  let d := hs.keyLen cfg.head
  let at' := x.base + BitVec.ofNat 64 (64 * cfg.recStride * x.pos)
  (w.readQuery c s at' (keyTokens d cfg.qfmt) 0 []).bind (fun r w =>
    let q := (keyElems cfg.qfmt none r.1).take d
    (w.walkTables c s hs (hs.seed cfg.head) q (hs.tablesOf cfg.head) [] none).bind (fun cs w =>
      let below := cs.1.filter (fun i => i ≤ r.2)
      .ok (r.2, below, if cfg.kmax < below.length then minCond cs.2 2 else cs.2) w))

/-- Index tokens of a list of candidates, then the query's EOD. -/
def idxTokens : Nat → List Nat → List Token
  | 0, _ => []
  | n + 1, is =>
    if is.isEmpty then [eodOf 1]
    else
      let h := is.take 16
      { plainToken kDATA with
        valid := BitVec.ofNat 5 h.length, data := payloadOf (h.map (BitVec.ofNat 32)) } :: idxTokens n (is.drop 16)

def candTokens (is : List Nat) : List Token := idxTokens (is.length / 16 + 2) is

/-- Emit the next token of a query answered with every index (R271, R320). -/
def World.denseToken (w : World) (c s next last : Nat) : World :=
  let x := w.stream c s
  if last < next then w.setStream c s { x with dense := none, out := [eodOf 1] }
  else
    let n := min 16 (last + 1 - next)
    let t : Token := { plainToken kDATA with
      valid := BitVec.ofNat 5 n, data := payloadOf ((List.range n).map (fun i => BitVec.ofNat 32 (next + i))) }
    w.setStream c s { x with dense := some (next + n, last), out := [t] }

/-- A query with a condition: AUTO answers it whole, TRAP holds it and raises DENSE (R270, R320). -/
def World.fallback (w : World) (c s pos : Nat) (cands : List Nat) (cond : Nat) : World :=
  let x := w.stream c s
  if ((w.eng c).streamCfg s).auto then
    let w := w.emit c (addrStream s) tDENSEAUTO (BitVec.ofNat 32 (cond * 2 ^ 30 + pos % 2 ^ 30))
    w.setStream c s { x with dense := some (0, pos), pos := x.pos + 1 }
  else
    let h : HeldQuery := ⟨pos, cands, BitVec.ofNat 2 cond, x.pos, none⟩
    let t0 := cands.length * 2 ^ 32 + cond * 2 ^ 8 + s
    (w.setStream c s { x with held := some h }).raise c
      ⟨cDENSE, s, ⟨BitVec.ofNat 64 t0, BitVec.ofNat 64 pos, BitVec.ofNat 64 x.pos, 0⟩⟩

/-- BGATH_QUERY. -/
def World.bgathEvent (w : World) (c s : Nat) : World :=
  let x := w.stream c s
  let cfg := (w.eng c).streamCfg s
  if x.state != .running || x.saved || cfg.modeOf != mBGATH then w
  else if !x.out.isEmpty then w.pump c s
  else
    match x.dense, x.held with
    | some (a, b), _ => (w.denseToken c s a b).pump c s
    | none, some h =>
      match h.released with
      | none => w
      | some whole =>
        let x := { x with held := none, pos := x.pos + 1 }
        let x := if whole then { x with dense := some (0, h.pos) }
          else { x with out := candTokens (h.cands.take cfg.kmax) }
        (w.setStream c s x).pump c s
    | none, none =>
      if x.pressed then w
      else if x.count ≤ x.pos then (w.setStream c s { x with out := [eosToken], last := true }).pump c s
      else
        match w.query c s with
        | .stop w' => w'
        | .failing a w' =>
          let w' := w'.eccReport c (addrStream s) a false s
          let y := w'.stream c s
          (w'.setStream c s { y with out := [memoryErr s, eodOf 1], pos := y.pos + 1 }).pump c s
        | .ok (pos, cands, cond) w' =>
          match cond with
          | some k => w'.fallback c s pos cands k
          | none =>
            let y := w'.stream c s
            (w'.setStream c s { y with out := candTokens cands, pos := y.pos + 1 }).pump c s

/-- The release of a held query by an ERET (R271): `whole` is TINFO3[0]; a query released already is held no more. -/
def World.releaseQuery (w : World) (c s : Nat) (whole : Bool) : World :=
  let x := w.stream c s
  match x.held with
  | some h => if h.released.isSome then w else w.setStream c s { x with held := some { h with released := some whole } }
  | none => w

end Sys2Proof.Machine
end

