-- ==== Sys2Proof/Machine/PlaneLoad.lean ====
section
/-! DEFINITION. Loading a culture plane: the words of a configuration stream, its framing, and the event that reads it
(R51, R61, R226, R255, R264). -/

namespace Sys2Proof.Machine

/-! The vat controller's own fields (R264). -/

/-- Is a word to a field of a vat controller legal? -/
def ctlWordOk (f : Nat) (v : BitVec 16) : Bool :=
  match f with
  | 0 => v.extractLsb' 1 15 == 0
  | 1 => v.extractLsb' 8 8 == 0 && v != 0
  | 2 => v.extractLsb' 11 5 == 0 && (v.extractLsb' 7 4 - 1).toNat < 8
  | n => n ≤ 0x0A

/-- Where a plane notes that its controller is BLOCKED. -/
def ctlBlockedKey : Nat := 64

def Plane.field (p : Plane) (f : Nat) : BitVec 16 := Tbl.get p.ctl 0 f
def Plane.ctlBlocked (p : Plane) : Bool := (Tbl.find p.ctl ctlBlockedKey).isSome
def Plane.block (p : Plane) : Nat := (p.field 1).toNat
/-- The grid element and the input port (0 to 7) where records enter. -/
def Plane.entryElem (p : Plane) : Nat := ((p.field 2).extractLsb' 0 7).toNat
def Plane.entryPort (p : Plane) : Nat := ((p.field 2).extractLsb' 7 4).toNat - 1
/-- A base of four fields from `f` up. -/
def Plane.base4 (p : Plane) (f : Nat) : Word := p.field (f + 3) ++ p.field (f + 2) ++ p.field (f + 1) ++ p.field f
def Plane.btb (p : Plane) : Word := p.base4 3
def Plane.qb (p : Plane) : Word := p.base4 7

def Plane.ctlWord (p : Plane) (f : Nat) (v : BitVec 16) : Plane :=
  if ctlWordOk f v then { p with ctl := Tbl.put p.ctl f v }
  else if p.ctlBlocked then p
  else { p with ctl := Tbl.put p.ctl ctlBlockedKey (BitVec.ofNat 16 f) }

/-! Words (R50, R51, R61). -/

/-- A load in progress: the units with their culture planes, what the plane holds, the words since BEGIN, the words a
BCAST still covers and their classes, whether an address error arose. -/
structure Load where
  g : Eng
  p : Plane
  n : Nat
  left : Nat
  mask : BitVec 2
  addrError : Bool

/-- Note the first framing error in the order of the stream, at the ADDR of its word: a framing word's own ADDR, 0x3FC to
0x3FF, names no element and is the model's choice (log 24). -/
def Load.framing (l : Load) (a : Nat) : Load :=
  { l with p := { l.p with framing := some (l.p.framing.getD (BitVec.ofNat 10 a)) } }

/-- The grid elements of a rectangle. -/
def rectElems (r : BitVec 16) : List Nat := (List.range 128).filter (inRect r)

def Load.elemWord (l : Load) (e : Nat) (f : BitVec 6) (v : BitVec 16) : Load :=
  let c := Tbl.get l.g.culture ElemCfg.empty e
  { l with g := { l.g with culture := Tbl.put l.g.culture e (c.apply (BitVec.ofNat 7 e) f v) } }

/-- An edge unit's culture plane is empty before its first word (R378). -/
def Load.touch (l : Load) (a : Nat) : Load :=
  if l.p.units.contains a then l
  else
    let g := l.g
    let g :=
      if a < 0x90 then
        let s := 2 * (a - 0x80)
        { g with agCulture := Tbl.put (Tbl.put g.agCulture s StreamCfg.empty) (s + 1) StreamCfg.empty }
      else if a < 0x94 then { g with mxCulture := Tbl.put g.mxCulture (a - 0x90) MxCfg.empty }
      else { g with epCulture := Tbl.put g.epCulture (a - 0x98) EpCfg.empty }
    { l with g := g, p := { l.p with units := l.p.units ++ [a] } }

/-- A word to an edge unit. -/
def Load.edgeWord (l : Load) (a : Nat) (f : BitVec 6) (v : BitVec 16) : Load :=
  let l := l.touch a
  let g := l.g
  if a < 0x90 then
    let s := 2 * (a - 0x80) + f.toNat / 32
    let c := Tbl.get g.agCulture StreamCfg.empty s
    { l with g := { g with agCulture := Tbl.put g.agCulture s (c.apply (f.toNat % 32) f v) } }
  else if a < 0x94 then
    let c := Tbl.get g.mxCulture MxCfg.empty (a - 0x90)
    { l with g := { g with mxCulture := Tbl.put g.mxCulture (a - 0x90) (c.apply f v) } }
  else
    let c := Tbl.get g.epCulture EpCfg.empty (a - 0x98)
    { l with g := { g with epCulture := Tbl.put g.epCulture (a - 0x98) (c.apply f v) } }

/-- One word after BEGIN that is not END, in the load of slot `v`. What R61 leaves open here is the model's choice (log
24): a word among those that a BCAST covers whose ADDR is not 0 is a framing error, is discarded with an address error, and
writes no identifier bits where it is an ID word; after a faulty BCAST the words are ordinary words. -/
def Load.word (l : Load) (slot : Nat) (w : BitVec 32) : Load :=
  let a := cfgAddr w
  let f := cfgField w
  let v := cfgValue w
  let l := { l with n := l.n + 1 }
  if l.left != 0 then
    let l := { l with left := l.left - 1 }
    if a != 0 then { l.framing a with addrError := true }
    else
      ((rectElems l.p.rect).filter (fun e =>
        if isCe (BitVec.ofNat 7 e) then l.mask.getLsbD 0 else l.mask.getLsbD 1)).foldl (fun l e => l.elemWord e f v) l
  else if a = 0x3FC then l.framing a
  else if a = 0x3FE then
    if f = 0 then { l with p := { l.p with id := half32 l.p.id false v } }
    else if f = 1 then { l with p := { l.p with id := half32 l.p.id true v } }
    else l.framing a
  else if a = 0x3FF then
    if f.extractLsb' 2 4 != 0 || v.extractLsb' 4 12 != 0 || v.extractLsb' 0 4 == 0 then l.framing a
    else { l with left := (v.extractLsb' 0 4).toNat, mask := f.extractLsb' 0 2 }
  else if addrReserved a then { l with addrError := true }
  else if a < 128 then
    if inRect l.p.rect a then l.elemWord a f v else { l.framing a with addrError := true }
  else if 0xA0 ≤ a then
    if a = addrVat slot then { l with p := l.p.ctlWord f.toNat v } else { l with addrError := true }
  else l.edgeWord a f v

/-- END: the count is checked, and then the rules that relate several words of a unit (R61). An END among the words that a
BCAST covers ends the stream as any other, with no framing error of its own: the model's choice (log 24). -/
def Load.finish (l : Load) (w : BitVec 32) : Load :=
  let l := if cfgField w != 0 || cfgValue w != BitVec.ofNat 16 l.n then l.framing 0x3FD else l
  let g := l.g
  let g := (rectElems l.p.rect).foldl (fun g e =>
    { g with culture := Tbl.put g.culture e ((Tbl.get g.culture ElemCfg.empty e).checked (BitVec.ofNat 7 e)) }) g
  let g := l.p.units.foldl (fun g a =>
    if a < 0x90 then
      let s := 2 * (a - 0x80)
      let c0 := (Tbl.get g.agCulture StreamCfg.empty s).checked 0
      let c1 := (Tbl.get g.agCulture StreamCfg.empty (s + 1)).checked 32
      { g with agCulture := Tbl.put (Tbl.put g.agCulture s c0) (s + 1) c1 }
    else if a < 0x94 then g
    else { g with epCulture := Tbl.put g.epCulture (a - 0x98) (Tbl.get g.epCulture EpCfg.empty (a - 0x98)).checked }) g
  { l with g := g }

/-- The load at a BEGIN word: every element of the rectangle is empty (R185). A BEGIN whose VALUE [1:0] is not zero is a
framing error at 0x3FC: the model's choice (log 24). -/
def Load.begin (g : Eng) (w : BitVec 32) (va : Word) : Load :=
  let v := cfgValue w
  let (x0, y0, x1, y1) := rectOf v
  let p : Plane := ⟨v, 0, va, [], none, []⟩
  let g := (rectElems v).foldl (fun g e => { g with culture := Tbl.put g.culture e ElemCfg.empty }) g
  let g := { g with cultureRead := g.cultureRead.filter (fun q => !inRect v q.1) }
  let l : Load := ⟨g, p, 0, 0, 0, false⟩
  if x1 < x0 || y1 < y0 || v.extractLsb' 0 2 != 0 || cfgField w != 0 then l.framing 0x3FC else l

/-- Read and apply the words behind BEGIN, at most `fuel` of them (R255): the load, and whether END came. -/
def World.loadWords (c slot : Nat) (k : Command) : Nat → Word → World → Load → Bool × Load × World
  | 0, _, w, l => (false, l, w)
  | fuel + 1, va, w, l =>
    match w.commandRead c (addrVat slot) uCP k.asid k.ptroot k.priv k.xoff va 4 with
    | (.error _, w) => (false, l, w)
    | (.ok bs, w) =>
      let x := BitVec.ofNat 32 (leNat bs)
      let l := { l with g := w.eng c }
      if cfgAddr x = 0x3FD then
        let l := l.finish x
        (true, l, w.setEng c l.g)
      else
        let l := l.word slot x
        (w.setEng c l.g).loadWords c slot k fuel (va + 4) l

/-! The event. -/

/-- Codes of R260. -/
def cdBLOCKED : BitVec 4 := 1
def cdFRAMING : BitVec 4 := 2
def cdROUTE : BitVec 4 := 3
def cdPOOL : BitVec 4 := 4
def cdDANGLING : BitVec 4 := 5
def cdLOOP : BitVec 4 := 6
def cdREPL : BitVec 4 := 7
def cdRESIDUE : BitVec 4 := 8
def cdOVERLAP : BitVec 4 := 9
def cdCFGREAD : BitVec 4 := 10
def cdNOPLANE : BitVec 4 := 11

/-- A VAT_FAULT that has no failing element: its ADDR is a free value (log 10). -/
def World.vatFaultNowhere (w : World) (c v vcause : Nat) (code : BitVec 4) : World :=
  let (x, w) := w.fresh
  w.vatFault c v vcause code.toNat (x.extractLsb' 0 10).toNat 0 0 0

/-- The most words of a stream, BEGIN and END among them (R255). -/
def streamWords : Nat := 65536

/-- The culture plane is INCOMPLETE, with what has been written into it, its identifier among it (R61, R255): a stream that
overlaps another slot writes nothing. -/
def World.incomplete (w : World) (c v : Nat) (p : Option Plane) (code : BitVec 4) (at' : Option Nat) : World :=
  let g := w.eng c
  let x := g.vat v
  let w := w.setEng c (g.setVat v { x with
    cst := .incomplete, cstCode := code, code := code, culture := p, loadAt := none
    faddr := match at' with | some a => BitVec.ofNat 10 a | none => x.faddr })
  match at' with
  | some a => w.vatFault c v vcCFG code.toNat a 0 0 0
  | none => w.vatFaultNowhere c v vcCFG code

/-- The lowest element of a rectangle that the active plane of another slot holds, the slot being none of FREE, RETIRED
and KILLED (R255). -/
def Eng.loadOverlap (g : Eng) (v : Nat) (rect : BitVec 16) : Option Nat :=
  (rectElems rect).find? (fun e => (List.range 8).any (fun u =>
    let x := g.vat u
    u != v && x.state != .free && x.state != .retired && x.state != .killed && x.has e))

/-- CULTURE_PLANE_LOAD (R255): read the stream that a CFG of the slot named. -/
def World.planeLoad (w : World) (c v : Nat) : World :=
  let x := (w.eng c).vat v
  match x.loadAt with
  | none => w
  | some k =>
    match w.commandRead c (addrVat v) uCP k.asid k.ptroot k.priv k.xoff k.x 4 with
    | (.error _, w) => w.incomplete c v x.culture cdCFGREAD none
    | (.ok bs, w) =>
      let b := BitVec.ofNat 32 (leNat bs)
      if cfgAddr b != 0x3FC then w.incomplete c v x.culture cdCFGREAD none
      else
        let g := w.eng c
        match g.loadOverlap v (cfgValue b) with
        | some e => w.incomplete c v x.culture cdOVERLAP (some e)
        | none =>
          let l := Load.begin g b k.x
          match (w.setEng c l.g).loadWords c v k (streamWords - 1) (k.x + 4) l with
          | (ended, l, w) =>
            let g := w.eng c
            let y := g.vat v
            let y := { y with addrError := y.addrError || l.addrError }
            if ended then
              w.setEng c (g.setVat v { y with cst := .loaded, cstCode := 0, culture := some l.p, loadAt := none })
            else (w.setEng c (g.setVat v y)).incomplete c v (some l.p) cdCFGREAD none

/-- CULTURE_PLANE_LOAD. -/
def execCulturePlaneLoad (v : BitVec 3) (s : State) : Host.Outcome State Fault Refusal :=
  s.onWorld (fun w => if (w.eng s.cur).pressing then w else w.planeLoad s.cur v.toNat)

end Sys2Proof.Machine
end

