-- ==== Sys2Proof/Machine/Arm.lean ====
section
/-! DEFINITION. The checks of ARM over the active plane of a slot, in their order (R61, R175, R184, R253, R380, R382). -/

namespace Sys2Proof.Machine

/-! What leads where. -/

/-- Does some link end at an endpoint, from a grid port, a stream, a node or an edge port? -/
def Eng.linked (g : Eng) (d : Endpoint) : Bool :=
  (g.senderOf d).isSome ||
    (List.range 32).any (fun s => (streamLink g.cfg s).any (fun l => l.1 == d)) ||
    (List.range 4).any (fun n => (matrixLink g.cfg n).any (fun l => l.1 == d)) ||
    (List.range 8).any (fun p => (edgeLink g.cfg p).any (fun l => l.1 == d))

/-- The configuration seen inside a rectangle: outside it nothing is delivered or passed on. -/
def Eng.inside (g : Eng) (r : BitVec 16) (e : Nat) : ElemCfg := if inRect r e then g.cfg e else ElemCfg.empty

/-- Is stage `k` of element `e` a replica of another element's stage, in an active plane (R183)? -/
def Eng.isReplica (g : Eng) (r : BitVec 16) (e k : Nat) : Bool :=
  (rectElems r).any (fun a =>
    let c := g.cfg a
    a != e && c.replSet && c.replStage == k && (replicasOf c a).contains e)

/-- The stages of an element that a check looks at. -/
def Eng.ownStages (g : Eng) (r : BitVec 16) (e : Nat) : List Nat :=
  (List.range 6).filter (fun k => ((g.cfg e).stage k).configured && !g.isReplica r e k)

/-! BLOCKED (R51, R175, R264, R380, R382). -/

/-- Does a configured stage lack the OP word of a phase up to its last? -/
def StageCfg.gap (s : StageCfg) : Bool :=
  s.configured && (List.range (s.last.toNat + 1)).any (fun q => !(s.phase (BitVec.ofNat 2 q)).written)

/-- Does a matrix node that no word has BLOCKED break a rule that spans its fields (R380, R382)? -/
def Eng.nodeBad (g : Eng) (n : Nat) : Bool :=
  let c := g.mxCfg n
  c.blocked.isNone && (!c.spanOk || (g.linked (.matrix n 2) && !g.linked (.matrix n 1)))

def Eng.unitBlocked (g : Eng) (p : Plane) (v a : Nat) : Bool :=
  if a < 128 then
    (g.cfg a).blocked.isSome || (g.ownStages p.rect a).any (fun k => ((g.cfg a).stage k).gap)
  else if a < 0x90 then (g.streamCfg (2 * (a - 0x80))).blocked.isSome || (g.streamCfg (2 * (a - 0x80) + 1)).blocked.isSome
  else if a < 0x94 then (g.mxCfg (a - 0x90)).blocked.isSome
  else if a < 0xA0 then (g.epCfg (a - 0x98)).blocked.isSome
  else a = addrVat v && p.ctlBlocked

/-- The addresses of a plane in ascending order: its elements, its edge units, its controller. -/
def Plane.addrs (p : Plane) (v : Nat) : List Nat :=
  rectElems p.rect ++ (List.range 0x20).filterMap (fun i =>
    if p.units.contains (0x80 + i) then some (0x80 + i) else none) ++ [addrVat v]

/-! ROUTE. -/

/-- Does an element route a track or a port twice (R175)? -/
def routeBad (c : ElemCfg) : Bool :=
  (List.range 4).any (fun f => (List.range 4).any (fun t =>
    1 < (forwards c f t).length + (deliveries c f t).length)) ||
    (List.range 8).any (fun p => 1 < (portTracks c p).length)

/-! POOL. -/

def reserved (tags : List (BitVec 16)) : Nat := ((tags.filter ltagEn).map ltagRsv).sum

def Eng.poolBad (g : Eng) (a : Nat) : Bool :=
  if a < 128 then
    (List.range 8).any (fun p => ((g.cfg a).inPort p).slots.toNat < reserved ((g.cfg a).inPort p).tags.toList)
  else if a < 0x90 then
    [2 * (a - 0x80), 2 * (a - 0x80) + 1].any (fun s =>
      let c := g.streamCfg s
      c.slots.toNat < reserved [c.tag 0, c.tag 1])
  else false

/-! DANGLING. -/

/-- The destination bits of a phase: DST, and the else list of STEER and of operations that have one (R58, R208). -/
def PhaseCfg.dests (p : PhaseCfg) : BitVec 16 :=
  match p.stageOp with
  | some o => if o.row.arg == .elseList then p.dst ||| p.arg else p.dst
  | none => 0

/-- All that a phase sends to: PRUNE's metadata port too (R218). -/
def PhaseCfg.sendsTo (p : PhaseCfg) : BitVec 16 :=
  if p.stageOp == some .prune then p.dests ||| (1 <<< (7 + prunePort p.arg)) else p.dests

def Eng.danglingStage (g : Eng) (e k : Nat) : Bool :=
  let c := g.cfg e
  (c.stage k).phases.toList.any (fun p =>
    let d := p.dests
    (List.range 6).any (fun j => d.getLsbD j && !(c.stage j).configured) ||
      (List.range 8).any (fun q => d.getLsbD (8 + q) && (portTracks c q).isEmpty) ||
      (p.stageOp.isSome && p.portsNamed.any (fun q => 1 ≤ q && q ≤ 8 &&
        !(List.range 8).any (fun t => ltagEn ((c.inPort (q - 1)).tag t)))))

/-- Does an output port that feeds a track lead nowhere within the rectangle? -/
def Eng.danglingPort (g : Eng) (r : BitVec 16) (e p : Nat) : Bool :=
  !(portTracks (g.cfg e) p).isEmpty && (linkOf (g.inside r) e p).isNone

def Eng.danglingElem (g : Eng) (r : BitVec 16) (e : Nat) : Bool :=
  (g.ownStages r e).any (fun k => g.danglingStage e k) || (List.range 8).any (fun p => g.danglingPort r e p)

/-! LOOP. -/

/-- The operands that a phase reads. -/
def PhaseCfg.sels (p : PhaseCfg) : List (BitVec 4) :=
  match p.stageOp with
  | none => []
  | some o =>
    match o.row.arity with
    | .none => []
    | .reg | .a | .aOrNone => [p.selA]
    | .ab => [p.selA, p.selB]
    | .abc => [p.selA, p.selB, p.selC]

/-- The stages of an element that read an input port; one that no stage names is read by stage 0 where one of its operands
is the stage before it (R174). -/
def readersOf (c : ElemCfg) (p : Nat) : List Nat :=
  (List.range 6).filter (fun k => (c.stage k).phases.toList.any (fun q =>
    q.portsNamed.contains (p + 1) || (k == 0 && !c.portsNamed.contains (p + 1) && q.sels.contains 0)))

/-- The number by which LOOP names a stream among the elements. -/
def loopStream (s : Nat) : Nat := 0x100 + s

/-- What reads the end of a link of no slot: stages, or a stream. -/
def Eng.tightEnd (g : Eng) (l : Option (Endpoint × Nat)) : List (Nat × Nat) :=
  match l with
  | some (.grid e q _, _) =>
    if ((g.cfg e).inPort q).slots == 0 then (readersOf (g.cfg e) q).map (fun k => (e, k)) else []
  | some (.stream s _, _) => if (g.streamCfg s).slots == 0 then [(loopStream s, 0)] else []
  | _ => []

/-- What a stage or a stream sends to through destinations and links of no slot. -/
def Eng.tightNext (g : Eng) (r : BitVec 16) (x : Nat × Nat) : List (Nat × Nat) :=
  if loopStream 0 ≤ x.1 then g.tightEnd (streamLink (g.inside r) (x.1 - loopStream 0))
  else
    let d := (((g.cfg x.1).stage x.2).phases.toList.map (·.sendsTo)).foldl (· ||| ·) 0
    ((List.range 6).filter (fun j => d.getLsbD j)).map (fun j => (x.1, j)) ++
      (((List.range 8).filter (fun p => d.getLsbD (8 + p))).map (fun p =>
        g.tightEnd (linkOf (g.inside r) x.1 p))).flatten

/-- All that is reached from a frontier, `fuel` rounds at most. -/
def reach (next : Nat × Nat → List (Nat × Nat)) : Nat → List (Nat × Nat) → List (Nat × Nat) → List (Nat × Nat)
  | 0, _, seen => seen
  | fuel + 1, front, seen =>
    match front with
    | [] => seen
    | x :: rest =>
      let new := ((next x).filter (fun y => !seen.contains y)).eraseDups
      reach next fuel (rest ++ new) (seen ++ new)

/-- What lies at an address of a plane and may be part of a cycle: the stages of an element, the streams of an address
generator. -/
def Eng.loopParts (g : Eng) (r : BitVec 16) (a : Nat) : List (Nat × Nat) :=
  if a < 128 then (g.ownStages r a).map (fun k => (a, k))
  else if a < 0x90 then [(loopStream (2 * (a - 0x80)), 0), (loopStream (2 * (a - 0x80) + 1), 0)]
  else []

/-- Does a unit lie on a cycle that no slot breaks? -/
def Eng.looped (g : Eng) (r : BitVec 16) (a : Nat) : Bool :=
  (g.loopParts r a).any (fun x => (reach (g.tightNext r) 1024 [x] []).contains x)

/-! REPL (R184). -/

/-- Every position of an anchor's rectangle. -/
def ElemCfg.replPlaces (c : ElemCfg) (a : Nat) : List Nat :=
  ((List.range (c.replH + 1)).map (fun dy => (List.range (c.replW + 1)).map (fun dx =>
    8 * (a / 8 + dy) + a % 8 + dx))).flatten

/-- Does an anchor's rectangle break a rule? -/
def Eng.replBad (g : Eng) (r : BitVec 16) (a : Nat) : Bool :=
  let c := g.cfg a
  c.replSet &&
    (let others := (replicasOf c a).filter (· != a)
     7 < a % 8 + c.replW || 15 < a / 8 + c.replH || (c.replPlaces a).any (fun e => !inRect r e) ||
       others.any (fun e => (g.cfg e).replSet ||
         (g.ownStages r e).any (fun k => ((g.cfg e).stage k).phases.toList.any (fun p => p.dests.getLsbD c.replStage)) ||
         (rectElems r).any (fun b => b != a && (g.cfg b).replSet && (replicasOf (g.cfg b) b).contains e)))

/-! The checks in order. -/

/-- The lowest unit of the active plane that another slot's live vat holds too (R253). -/
def Eng.armOverlap (g : Eng) (v : Nat) (p : Plane) : Option Nat :=
  (p.addrs v).find? (fun a => (List.range 8).any (fun u => u != v && (g.vat u).state.live && (g.vat u).has a))

/-- The first check that fails: its CODE and FADDR. -/
def Eng.armFault (g : Eng) (v : Nat) (p : Plane) : Option (BitVec 4 × BitVec 10) :=
  let at' (code : BitVec 4) (a : Option Nat) : Option (BitVec 4 × BitVec 10) :=
    a.map (fun a => (code, BitVec.ofNat 10 a))
  let es := rectElems p.rect
  at' cdOVERLAP (g.armOverlap v p) <|>
    at' cdBLOCKED ((p.addrs v).find? (fun a => 0x90 ≤ a && a < 0x94 && g.nodeBad (a - 0x90))) <|>
    at' cdBLOCKED ((p.addrs v).find? (g.unitBlocked p v)) <|>
    p.framing.map (fun a => (cdFRAMING, a)) <|>
    at' cdROUTE (es.find? (fun e => routeBad (g.cfg e))) <|>
    at' cdPOOL ((p.addrs v).find? g.poolBad) <|>
    at' cdDANGLING (es.find? (g.danglingElem p.rect)) <|>
    at' cdLOOP ((p.addrs v).find? (g.looped p.rect)) <|>
    at' cdREPL (es.find? (g.replBad p.rect))

end Sys2Proof.Machine
end

