-- ==== Sys2Proof/Machine/VatCtl.lean ====
section
/-! DEFINITION. The vat controllers: SWAP, ARM, DRAIN, VKILL as they are performed, retirement, the words of VSTAT, the
stall watchdogs (R124, R226 to R231, R251 to R260, R398, R399). -/

namespace Sys2Proof.Machine

/-! Quiet regions (R227). -/

/-- Does a stage still hold results on their way to a later stage or to its hold register? -/
def StageState.underway (st : StageState) (now : Nat) : Bool :=
  st.inq.any (fun q => q.2.any (fun t => now < t.1)) || st.holdNext.any (fun q => now < q.1)

/-- Does a token in flight stand on a track of a plane's region: its consumer, its sender or a router on its way lies
there? -/
def Eng.onTracks (g : Eng) (has : Nat → Bool) (f : Flight) : Bool :=
  has f.dest.addr || (g.routeTo f.dest).any has ||
    (match g.senderOf f.dest with
     | some (.port e _) => has e
     | some (.unit a) => has a
     | none => false)

/-- Does a stage of a region fire in this cycle? -/
def World.firesIn (w : World) (c : Nat) (p : Plane) : Bool :=
  (w.planned c).any (fun q => p.has q.who.elem) ||
    (rectElems p.rect).any (fun e => ((w.eng c).elem e).stages.toList.any (fun st =>
      st.lastFire == some w.cycle || st.sentAt w.cycle))

/-- The second condition of R227 for a plane, `also` naming units that count with its own: no stage of the region fires,
and no token is on a track or in a router's conversion. -/
def World.quietWith (w : World) (c : Nat) (p : Plane) (also : Nat → Bool) : Bool :=
  let g := w.eng c
  let has (a : Nat) : Bool := p.has a || also a
  !g.flights.any (g.onTracks has) &&
    g.elems.all (fun q => !has q.1 || (q.2.outs.all (fun o => o.2.elems.isEmpty && o.2.waiting.isEmpty) &&
      q.2.stages.toList.all (fun st => !st.underway w.cycle))) &&
    !w.firesIn c p

def World.quiet (w : World) (c : Nat) (p : Plane) : Bool := w.quietWith c p (fun _ => false)

/-! Reports on a link (R124, R230). -/

/-- The input port code of a link: 1 to 8 in the grid; the low four bits of the edge unit's own numbering are 0 (log
24). -/
def Endpoint.portCode : Endpoint → Nat
  | .grid _ p _ => p + 1
  | .stream _ _ | .edge _ => 0
  | .matrix _ p => p

/-- TINFO1 of a report on a link, whose consumer is stage `k`. -/
def Eng.linkInfo (g : Eng) (d : Endpoint) (k : Nat) : Word :=
  let (slots, tags) := g.poolShape d
  let occ := (tags.map (fun t => min (g.claimed t.2) 15 * 2 ^ (32 + 4 * t.2.tag))).sum
  let rsv := ((tags.find? (fun t => t.2 == d)).map (·.1)).getD 0
  BitVec.ofNat 64 (occ + slots % 16 * 2 ^ 28 + rsv % 16 * 2 ^ 24 + d.tag * 2 ^ 18 + d.portCode * 2 ^ 14 + k * 2 ^ 11 +
    2 ^ 10 + d.addr)

/-- The sending stage of an output port: the lowest whose destinations name it. -/
def Eng.sendingStage (g : Eng) (e p : Nat) : Nat :=
  ((List.range 6).find? (fun k => ((g.cfg e).stage k).phases.toList.any (fun q => q.dests.getLsbD (8 + p)))).getD 0

/-- TINFO2 of a report on a link: its sender, a stage's output port or an edge unit, which has no port code and no stage
(log 24). VALID is set where the sender lies among some units. -/
def Eng.senderInfo (g : Eng) (has : Nat → Bool) (d : Endpoint) : Word :=
  let valid (a : Nat) : Nat := if has a then 2 ^ 10 else 0
  match g.senderOf d with
  | none => 0
  | some (.port e q) => BitVec.ofNat 64 ((q + 1) * 2 ^ 14 + g.sendingStage e q * 2 ^ 11 + valid e + e)
  | some (.unit a) => BitVec.ofNat 64 (valid a + a)

/-- The lowest stage that reads a link, 0 when none does. -/
def Eng.readingStage (g : Eng) (d : Endpoint) : Nat :=
  match d with
  | .grid e p _ => ((List.range 6).find? (fun k =>
      ((g.cfg e).stage k).phases.toList.any (fun q => q.portsNamed.contains (p + 1)))).getD 0
  | _ => 0

/-! SWAP (R226 to R231, R253, R256). -/

/-- Exchange an entry of two tables. -/
def tblSwap {α : Type} (a b : Tbl α) (dflt : α) (i : Nat) : Tbl α × Tbl α :=
  (Tbl.put a i (Tbl.get b dflt i), Tbl.put b i (Tbl.get a dflt i))

/-- Exchange what two tables hold at a key, if they hold anything there. -/
def tblMove {α : Type} (a b : Tbl α) (i : Nat) : Tbl α × Tbl α :=
  let give (t : Tbl α) (x : Option α) : Tbl α :=
    match x with
    | some y => Tbl.put t i y
    | none => t.filter (fun q => q.1 != i)
  (give a (Tbl.find b i), give b (Tbl.find a i))

/-- Exchange the planes of one unit. -/
def Eng.exchangeUnit (g : Eng) (a : Nat) : Eng :=
  if a < 128 then
    let (x, y) := tblSwap g.active g.culture ElemCfg.empty a
    let (r, s) := tblMove g.activeRead g.cultureRead a
    { g with active := x, culture := y, activeRead := r, cultureRead := s }
  else if a < 0x90 then
    let s := 2 * (a - 0x80)
    let (x, y) := tblSwap g.agActive g.agCulture StreamCfg.empty s
    let (x, y) := tblSwap x y StreamCfg.empty (s + 1)
    { g with agActive := x, agCulture := y }
  else if a < 0x94 then
    let (x, y) := tblSwap g.mxActive g.mxCulture MxCfg.empty (a - 0x90)
    { g with mxActive := x, mxCulture := y }
  else
    let (x, y) := tblSwap g.epActive g.epCulture EpCfg.empty (a - 0x98)
    { g with epActive := x, epCulture := y }

def StageState.clearHold (st : StageState) : StageState := { st with hold := 0, holdNext := [] }
def Elem.clearHolds (x : Elem) : Elem :=
  { x with stages := x.stages.map StageState.clearHold, blockedFrom := none }

/-- Does one of two planes hold a unit? -/
def eitherHas (p : Plane) (q : Option Plane) (a : Nat) : Bool :=
  p.has a || (match q with | some q => q.has a | none => false)

/-- Exchange the planes of a slot (R226). -/
def Eng.exchange (g : Eng) (v : Nat) (x : Vat) (p : Plane) : Eng :=
  let has := eitherHas p x.active
  let as := (List.range 0xA0).filter has
  let g := as.foldl (fun g a => g.exchangeUnit a) g
  let g := (as.filter (· < 128)).foldl (fun g e => g.setElem e (g.elem e).clearHolds) g
  let g := g.emptyPools has
  g.setVat v { x with
    active := some p, culture := x.active, cst := if x.active.isSome then .loaded else .empty
    state := .loaded, code := 0, faddr := 0, quietFrom := none }

/-- TINFO2 of a residue, whose VALID is 1 (R230). A token that no link has brought has no sender: the other fields are then a
free value (log 10, log 24). -/
def World.residueSender (w : World) (c : Nat) (d : Endpoint) : Word × World :=
  match (w.eng c).senderOf d with
  | some _ => ((w.eng c).senderInfo (fun _ => true) d, w)
  | none => let (x, w) := w.fresh; ((x.extractLsb' 0 18 ||| 0x400).setWidth 64, w)

/-- A residue (R229 to R231): the event has the time of the test. -/
def World.residueFault (w : World) (c v : Nat) (x : Vat) (ds : List Endpoint) (d : Endpoint) : World :=
  let g := w.eng c
  let toks := (ds.map g.claimed).sum
  let (t2, w) := w.residueSender c d
  let w := (w.setEng c (g.setVat v { x with state := .residue, code := cdRESIDUE, quietFrom := none })).emit c (addrVat v)
    tVATRESIDUE (BitVec.ofNat 32 (v * 2 ^ 29 + min ds.length 15 * 2 ^ 25 + g.claimed d % 16 * 2 ^ 21 + d.tag * 2 ^ 18 +
      d.portCode * 2 ^ 14 + d.addr))
  w.vatFault c v vcRESIDUE 0 d.addr (g.linkInfo d (g.readingStage d)) t2
    (BitVec.ofNat 64 (toks % 65536 * 65536 + ds.length % 65536))

/-- The third test of SWAP (R228): the planes are exchanged, unless a link of a unit whose plane would change holds a
token. -/
def World.swapNow (w : World) (c v : Nat) (p : Plane) : World :=
  let g := w.eng c
  let x := g.vat v
  match g.residue (eitherHas p x.active) with
  | d :: ds => w.residueFault c v x (d :: ds) d
  | [] => w.setEng c (g.exchange v x p)

/-- Note, at the end of a cycle, whether the region of a slot whose SWAP waits is quiet (R228). Before a first exchange
the region is that of the plane to come. -/
def World.noteQuiet (c : Nat) (w : World) (v : Nat) : World :=
  let g := w.eng c
  let x := g.vat v
  match x.culture with
  | some p =>
    let now := !x.state.live && w.quietWith c (x.active.getD p) p.has
    w.setEng c (g.setVat v { x with quietFrom := if now then some (x.quietFrom.getD w.cycle) else none })
  | none => w

/-- SWAP of a slot (R253, R256): done, or still waiting. The third test comes in a cycle after one that found the region
quiet, and in which its event can be raised (R414). -/
def World.performSwap (w : World) (c v : Nat) : Option World :=
  let g := w.eng c
  let x := g.vat v
  if x.state == .residue then some (w.setEng c (g.setVat v { x with code := cdRESIDUE }))
  else if x.state.live then none
  else
    match x.cst, x.culture with
    | .loading, _ => none
    | .incomplete, _ =>
      let w := w.setEng c (g.setVat v { x with code := x.cstCode })
      some (if x.cstCode == cdOVERLAP then w.vatFault c v vcCFG x.cstCode.toNat x.faddr.toNat 0 0 0
        else w.vatFaultNowhere c v vcCFG x.cstCode)
    | .loaded, some p =>
      match x.quietFrom with
      | some t =>
        if t < w.cycle && !w.mustFollow c (addrVat v) tVATRESIDUE then some (w.swapNow c v p) else none
      | none => none
    | _, _ => some ((w.setEng c (g.setVat v { x with code := cdNOPLANE })).vatFaultNowhere c v vcCFG cdNOPLANE)

/-! ARM (R256). -/

/-- A stage as ARM leaves it: everything fresh, the generators seeded, the hold register kept. -/
def StageState.armed (st : StageState) (seed : BitVec 32) (now : Nat) : StageState :=
  { StageState.reset with hold := st.holdAt now, sr := Vector.ofFn (fun (l : Fin 16) => srInit seed l.val) }

/-- The configuration of an element at ARM: a replicated stage is its anchor's (R183). -/
def Eng.armCfg (g : Eng) (r : BitVec 16) (e : Nat) : ElemCfg :=
  (rectElems r).foldl (fun c a =>
    let k := (g.cfg a).replStage
    if a != e && (g.cfg a).replSet && (replicasOf (g.cfg a) a).contains e then c.setStage k ((g.cfg a).stage k) else c)
    (g.cfg e)

def Eng.armElem (r : BitVec 16) (now : Nat) (g : Eng) (e : Nat) : Eng :=
  let x := g.elem e
  let c := g.armCfg r e
  let g := g.alter e c
  g.setElem e { x with
    outs := []
    stages := Vector.ofFn (fun (k : Fin 6) => (x.stages.get k).armed (c.stage k.val).seed now)
    next := 0
    cfgSeq := 0
    cfgDone := []
    blockedFrom := none
    pressed := false
    saved := false }

/-- A stream as ARM leaves it (R285, R292). -/
def Stream.armed (x : Stream) (asid : BitVec 16) (ptroot : Word) : Stream :=
  { Stream.reset with
    reason := x.reason, errcnt := x.errcnt, posted := x.posted, defined := x.defined, asid := asid, ptroot := ptroot }

/-- A matrix node at the arming of its section (R380 to R390): a load replaces the weight buffer whole, under a new tag. -/
def MxNode.armed (x : MxNode) (c : MxCfg) : MxNode :=
  let y := { MxNode.reset with
    weights := x.weights, masks := x.masks, lines := x.lines, spoiled := x.spoiled, wPoison := x.wPoison, wFails := x.wFails
    wCorrects := x.wCorrects, tag := x.tag, tiles := x.tiles, state := .running, left := c.load }
  let y := if c.load = 0 then y
    else
      { y with
        weights := [], masks := [], lines := 0, spoiled := false, wPoison := false, wFails := false, wCorrects := false
        tag := x.tag + 1 }
  if c.accin then y
  else { y with tiles := y.tiles.map (fun t => { t with flags := 0, fcol := 0xFF, frow := 0xFF, ftile := 0 }) }

/-- The egress ports, by core and port, of live vats that name an ingress port of this package (R395). -/
def World.namers (w : World) (core port : Nat) : List (Nat × Nat) :=
  ((List.range 96).map (fun c => ((List.range 8).filter (fun p =>
    let e := (w.eng c).epCfg p
    ((w.eng c).vatOf (addrEdge p)).isSome && e.isEgress && e.dstCore.toNat = core && e.dstPort.toNat = port &&
      (e.scope != 3 || e.dstNode == (w.eng core).node))).map (fun p => (c, p)))).flatten

/-- Credits of an ingress port for the egress ports of this package that name it (R395). -/
def World.homeCredits (w : World) (c p n : Nat) : World := { w with credits := w.credits ++ List.replicate n ⟨c, p⟩ }

/-- Credits of an ingress port for its sender in another package, whose node no register gives: frames to a node that is a free
value (R395; log 10, log 11). -/
def World.awayCredits (w : World) (c p n : Nat) : World :=
  (List.range n).foldl (fun w _ => let (x, w) := w.fresh; w.sendFrame (bitsNat x 0 14) (8 * c + p) (w.eng c).partid []) w

/-- One ingress port's window as its vat is armed (R395). DESIGN CHOICE: the window stands ready for a sender in this package,
armed by then or not; under SCOPE fab, where no egress port of this package names the port, it goes out as frames too (log
11). -/
def World.grantWindow (w : World) (c p n : Nat) : World :=
  let w := w.homeCredits c p n
  if ((w.eng c).epCfg p).scope == 3 && (w.namers c p).isEmpty then w.awayCredits c p n else w

/-- Credits for tokens that the consumer of an ingress port has taken go back to where its tokens come from, if that is a
windowed path: from another die or another package (R395). -/
def World.returnCredit (w : World) (c p n : Nat) : World :=
  match (Tbl.get (w.eng c).ports EpState.reset p).from' with
  | none => w
  | some k => if 96 ≤ k then w.awayCredits c p n else if dieOf k != dieOf c then w.homeCredits c p n else w

/-- The arming of an edge port: an ingress port grants its window afresh (R395). -/
def World.armPort (w : World) (c p : Nat) : World :=
  let g := w.eng c
  let x := Tbl.get g.ports EpState.reset p
  let cfg := g.epCfg p
  let w := w.setEng c { g with ports := Tbl.put g.ports p { x with
    ctrl := none, from' := none, inbox := [], dead := false, pressed := false, saved := false
    credits := if cfg.isIngress then 0 else x.credits } }
  if cfg.isIngress then
    { w with credits := w.credits.filter (fun k => !(k.core = c && k.port = p)) }.grantWindow c p cfg.win
  else w

/-- What ARM does to the units of the plane. -/
def World.armUnits (w : World) (c : Nat) (p : Plane) (asid : BitVec 16) (ptroot : Word) : World :=
  let g := w.eng c
  let g := (rectElems p.rect).foldl (Eng.armElem p.rect w.cycle) g
  let ss := (List.range 32).filter (fun s => p.has (addrStream s))
  let g := ss.foldl (fun g s => g.setStream s ((g.stream s).armed asid ptroot)) g
  let g := { g with walks := g.walks.filter (fun k => !ss.any (fun s => k.who == .stream s)) }
  let g := ((List.range 4).filter (fun n => p.has (addrMatrix n))).foldl (fun g n =>
    { g with mx := Tbl.put g.mx n ((Tbl.get g.mx MxNode.reset n).armed (g.mxCfg n)) }) g
  ((List.range 8).filter (fun q => p.has (addrEdge q))).foldl (fun w q => w.armPort c q) (w.setEng c g)

/-- The VAT_ARM event (R415). -/
def World.armEvent (w : World) (c v : Nat) : World :=
  let x := (w.eng c).vat v
  w.emit c (addrVat v) tVATARM (BitVec.ofNat 32 (v * 2 ^ 29 + x.code.toNat * 2 ^ 25 + x.faddr.toNat))

/-- A vat whose checks passed (R256). -/
def Vat.armed (x : Vat) (k : Command) (nbv now : Nat) : Vat :=
  { x with
    state := .armed, code := 0, faddr := 0, nbv := nbv, cw := k.x, reported := []
    firstFlag := Vector.replicate 6 0x3FF, firstAt := Vector.replicate 6 0, lastFire := now, stallReported := false, quietFrom := none
    asid := k.asid, ptroot := k.ptroot, priv := k.priv, xoff := k.xoff, pressed := false, saved := false }

/-- ARM of a slot under version `nbv`: done, or still waiting (R253, R256). -/
def World.performArm (w : World) (c v nbv : Nat) (k : Command) : Option World :=
  let g := w.eng c
  let x := g.vat v
  if x.state == .residue then some (w.setEng c (g.setVat v { x with code := cdRESIDUE }))
  else if x.state.live then none
  else
    match x.state, x.active with
    | .free, _ | _, none =>
      some (((w.setEng c (g.setVat v { x with code := cdNOPLANE })).vatFaultNowhere c v vcARM cdNOPLANE).armEvent c v)
    | _, some p =>
      match g.armFault v p with
      | some (code, a) =>
        some (((w.setEng c (g.setVat v { x with state := .blocked, code := code, faddr := a })).vatFault c v vcARM
          code.toNat a.toNat 0 0 0).armEvent c v)
      | none =>
        let w := w.armUnits c p k.asid k.ptroot
        let g := w.eng c
        let g := { g with sched := { g.sched with
          tables := if p.scheduled then some ⟨v, p.btb, p.qb, k.asid, k.ptroot, k.priv, k.xoff⟩ else g.sched.tables
          injecting := g.sched.injecting.filter (fun q => q.1 != v)
          stopped := g.sched.stopped.filter (· != v) } }
        some ((w.setEng c (g.setVat v ((g.vat v).armed k nbv w.cycle))).armEvent c v)

/-! Completion (R252, R259). -/

/-- The release store of a value to the completion word: the slot's window word, or the address given to ARM; a refused
store is dropped, and the refusal kept for another store of the same action. -/
def World.storeCompletion (w : World) (c v : Nat) (val : Word) : World :=
  let g := w.eng c
  let x := g.vat v
  if x.cw == 0 then w.setEng c (g.setVat v { x with window := val })
  else
    match w.commandSeek c (addrVat v) x.asid x.ptroot x.priv x.xoff .write x.cw with
    | (.error _, w) => w
    | (.ok pa, w) =>
      w.releaseStore c pa (leBytes 8 val.toNat)

/-- Is every copy that writes one of the region's memory elements complete (R252)? -/
def World.copiesDone (w : World) (c : Nat) (p : Plane) : Bool :=
  !w.inbound c p.has

/-- Does R252 hold? -/
def World.mayRetire (w : World) (c v : Nat) : Bool :=
  let g := w.eng c
  let x := g.vat v
  match x.active with
  | none => false
  | some p =>
    x.state.live && !g.pressed v && (g.sinksOf x).all (fun s => x.reported.contains s) && w.quiet c p && w.copiesDone c p

/-- Retirement, with the refusal of its store kept. -/
def World.retiring (w : World) (c v : Nat) : World :=
  let g := w.eng c
  let x := g.vat v
  let n := x.vseq + 1
  ((w.setEng c (g.setVat v { x with state := .retired, vseq := n })).storeCompletion c v n).emit c (addrVat v)
    tVATRETIRE (BitVec.ofNat 3 v ++ n.extractLsb' 0 29)

/-- The controller of a slot is told that its completion word is refused. -/
def World.collectVat (w : World) (c v : Nat) : World :=
  let x := (w.eng c).vat v
  w.collect c (addrVat v) x.asid x.cw

/-- Retirement (R252). -/
def World.retire (w : World) (c v : Nat) : World := (w.retiring c v).collectVat c v

/-! DRAIN and VKILL (R257, R259). -/

/-- DRAIN. -/
def World.performDrain (w : World) (c v : Nat) : World :=
  let g := w.eng c
  let x := g.vat v
  if x.state == .armed || x.state == .running then
    let g := ((List.range 32).filter (fun s => x.has (addrStream s))).foldl (fun g s =>
      let y := g.stream s
      let m := (g.streamCfg s).modeOf
      if (y.state == .running || y.state == .faulted) && (m == mREAD || m == mGATHER) then g.setStream s { y with drain := true } else g) g
    w.setEng c (g.setVat v { x with state := .draining })
  else w

/-- A stream that VKILL stops (R259, R285). -/
def Stream.killed (x : Stream) : Stream :=
  { Stream.reset with
    state := .ended, reason := x.reason, errcnt := x.errcnt, base := x.base, count := x.count, pos := x.pos
    posted := x.posted, asid := x.asid, ptroot := x.ptroot, defined := x.defined, fired := x.fired }

/-- A stage that VKILL stops: what it had on the way is gone, its hold register keeps its content. -/
def StageState.killed (st : StageState) (now : Nat) : StageState :=
  { st with inq := [], hold := st.holdAt now, holdNext := [], branch := [], told := 0, detached := 0 }

/-- The copies of killed streams run to completion; their end tokens, and what they send into a channel, are discarded
(R369). -/
def Copy.orphaned (k : Copy) (gone : Nat → Bool) : Copy :=
  match k.from' with
  | some (s, _) => if gone s then { k with from' := none } else k
  | none => k

def Trigger.orphaned (t : Trigger) (gone : Nat → Bool) : Trigger :=
  match t.from' with
  | some (s, _) => if gone s then { t with from' := none } else t
  | none => t

/-- Discard every token of a region and stop its units. -/
def Eng.killRegion (g : Eng) (now : Nat) (has : Nat → Bool) : Eng :=
  let g := ((List.range 128).filter has).foldl (fun g e =>
    let x := g.elem e
    g.setElem e { x with
      outs := [], pressed := false, saved := false, stages := x.stages.map (fun st => st.killed now) }) g
  let g := g.emptyPools has
  let gone (s : Nat) : Bool := has (addrStream s)
  let g := ((List.range 32).filter gone).foldl (fun g s => g.setStream s (g.stream s).killed) g
  let g := ((List.range 4).filter (fun n => has (addrMatrix n))).foldl (fun g n =>
    let y := Tbl.get g.mx MxNode.reset n
    { g with mx := Tbl.put g.mx n { y with
      state := .ended, a := [], aBad := [], aScale := none, outs := [], out := [], refused := none, pressed := false
      saved := false } }) g
  let g := ((List.range 8).filter (fun p => has (addrEdge p))).foldl (fun g p =>
    let y := Tbl.get g.ports EpState.reset p
    { g with ports := Tbl.put g.ports p { y with
      ctrl := none, dead := false, pressed := false, saved := false } }) g
  { g with
    flights := g.flights.filter (fun f => !g.onTracks has f)
    walks := g.walks.filter (fun k => match k.who with
      | .stream s => !gone s
      | .node n => !has (addrMatrix n)
      | _ => true)
    copies := g.copies.map (fun q => (q.1, q.2.orphaned gone))
    queues := g.queues.map (fun q => (q.1, { q.2 with triggers := q.2.triggers.map (fun t => t.orphaned gone) }))
    sched := { g.sched with forming := g.sched.forming.filter (fun q => !has (q.1 / 8)) } }

/-- A contribution not yet present that a unit of a killed region has made is discarded (R106): on its way, or pending at
a closed partial. -/
def Eng.dropContribs (g : Eng) (has : Nat → Bool) : Eng :=
  let ofUnit (b : BitVec 16) : Bool :=
    let u := b.extractLsb' 0 12
    match (bindKind b).toNat with
    | 1 => has u.toNat
    | 2 => has (addrStream u.toNat)
    | 3 => has (addrMatrix u.toNat)
    | 4 => has (addrEdge u.toNat)
    | _ => false
  { g with
    entering := g.entering.filter (fun k => !has k.addr)
    curds := g.curds.map (fun q => (q.1, if q.2.declared then (List.finRange 8).foldl (fun c j =>
      if ofUnit (c.binds.get j) then c.setPart j { c.part j with pending := none } else c) q.2 else q.2)) }

/-- The units that VKILL clears: those of the active plane, or, after a residue that the first SWAP found, those of the
plane to come (R229). -/
def Vat.region (x : Vat) (a : Nat) : Bool :=
  match x.active, x.culture with
  | some p, q => if x.state == .residue then eitherHas p q a else p.has a
  | none, some q => x.state == .residue && q.has a
  | none, none => false

/-- VKILL (R253, R259). -/
def World.performKill (w : World) (c v : Nat) : World :=
  let w := if w.mayRetire c v then w.retiring c v else w
  let x := (w.eng c).vat v
  if x.state == .free then w
  else
    let has := x.region
    let w := w.cancelCopies c has
    let g := ((w.eng c).killRegion w.cycle has).dropContribs has
    let n := x.vseq + 1
    let g := { g with
      sched := { g.sched with injecting := g.sched.injecting.filter (fun q => q.1 != v) }
      walks := g.walks.filter (fun k => k.who != Walker.unit uSCHED) }
    let g := g.setVat v { x with
      state := .killed, vseq := n, code := if x.code == cdRESIDUE then 0 else x.code, quietFrom := none, pressed := false, saved := false }
    (((w.setEng c g).storeCompletion c v (n ||| 0x8000000000000000)).emit c (addrVat v) tVATKILL
      (BitVec.ofNat 3 v ++ n.extractLsb' 0 29)).collectVat c v

/-! VSTAT (R260). -/

def VatState.code : VatState → Nat
  | .free => 0
  | .loaded => 1
  | .armed => 2
  | .running => 3
  | .draining => 4
  | .drained => 5
  | .retired => 6
  | .killed => 7
  | .blocked => 8
  | .residue => 9

def Cst.code : Cst → Nat
  | .empty => 0
  | .loading => 1
  | .loaded => 2
  | .incomplete => 3

/-- The flags of the partials that the CONTRIB stages of a vat feed (R225). -/
def Eng.contribFlags (g : Eng) (v : Vat) : FlagSet :=
  ((List.range 128).filter v.has).foldl (fun fl e =>
    ((g.cfg e).stages.toList.map (fun s => s.phases.toList)).flatten.foldl (fun fl p =>
      if p.stageOp == some .contrib then
        let c := g.curd (p.arg.extractLsb' 0 6).toNat
        match c.position (bindCe (BitVec.ofNat 7 e)) with
        | some j => fl ||| (c.part j).flags
        | none => fl
      else fl) fl) 0

/-- The flags that units of a vat raised since ARM. -/
def Vat.raised (v : Vat) : FlagSet :=
  (List.finRange 6).foldl (fun fl i => if v.firstFlag.get i == 0x3FF then fl else fl ||| (1 <<< i.val)) 0

/-- VSTAT word 0. -/
def Eng.statWord (g : Eng) (v : Vat) : Word :=
  let id : BitVec 32 := match v.active with | some p => p.id | none => 0
  BitVec.ofNat 4 v.state.code ++ BitVec.ofNat 4 v.cst.code ++ v.code ++ (v.raised ||| g.contribFlags v) ++
    (0 : BitVec 4) ++ v.faddr ++ id

/-- VSTAT word 2. -/
def Eng.sinkWord (g : Eng) (v : Vat) : Word :=
  let id : BitVec 32 := match v.culture with | some p => p.id | none => 0
  let sinks := g.sinksOf v
  id ++ BitVec.ofNat 16 sinks.length ++ BitVec.ofNat 16 (sinks.filter (fun s => v.reported.contains s)).length

/-- A word of VSTAT. -/
def Eng.vstat (g : Eng) (v sel : Nat) : Word :=
  let x := g.vat v
  if sel = 0 then g.statWord x else if sel = 1 then x.flagWord else g.sinkWord x

/-! Watchdogs. -/

/-- The port and tag that an operand code selects: a port's tag 0, or one of the ports of s0's input multiplexer
(R174). -/
def Fire.portsOf (x : Fire) (sel : BitVec 4) (tag : Nat) : List (Nat × Nat) :=
  let n := sel.toNat
  if 1 ≤ n && n ≤ 8 then [(n - 1, tag)]
  else if n = 0 && x.k = 0 then
    let named := x.cfg.portsNamed
    ((List.range 8).filter (fun p => !named.contains (p + 1) && ltagEn ((x.cfg.inPort p).tag 0))).map (fun p => (p, 0))
  else []

/-- The inputs that an operand lacks a token of: none where it is there. -/
def Fire.lacks (x : Fire) (sel : BitVec 4) (tag : Nat) : List (Nat × Nat) :=
  if (x.read sel tag).missing then x.portsOf sel tag else []

/-- The inputs whose tokens the next firing of a stage waits for (R124). An ordered MERGE waits for its control token,
then for the input that it selects, or for both. -/
def Fire.needs (x : Fire) : List (Nat × Nat) :=
  if x.op == .merge then
    let a := x.lacks x.pc.selA (x.pc.low.extractLsb' 3 3).toNat
    let b := x.lacks x.pc.selB (x.pc.low.extractLsb' 0 3).toNat
    if Sys2Proof.Machine.mergeAny x.pc.arg then a ++ b
    else
      match x.read (mergePort x.pc.arg) 0 with
      | .tok g =>
        if x.isData g.tok then
          let k := (x.read (mergeK x.pc.arg) 0).opnd
          let c := (cmpPat x.pc.fmt (mergeCmp x.pc.arg) ((Opnd.ofToken g.tok).elem0 x.pc.fmt) (k.elem0 x.pc.fmt)).1
          if c then b else a
        else a ++ b
      | _ => x.portsOf (mergePort x.pc.arg) 0
  else
    let a := if x.handler.isSome then [] else x.lacks x.pc.selA 0
    match x.op.row.arity with
    | .none | .reg => []
    | .a | .aOrNone => a
    | .ab => a ++ x.lacks x.pc.selB 0
    | .abc => a ++ x.lacks x.pc.selB 0 ++ x.lacks x.pc.selC 0

/-- A starved consumer among the stages of a region (R124): stage and link. -/
def World.starved (w : World) (c : Nat) (p : Plane) : Option (Nat × Endpoint) :=
  let g := w.eng c
  (rectElems p.rect).findSome? (fun e => (List.range 6).findSome? (fun k =>
    match w.viewAt c e k with
    | none => none
    | some x =>
      if (planOf x.op x).isSome then none
      else
        let needs := x.needs
        (((List.range 8).map (fun q => (List.range 8).map (fun t => (q, t)))).flatten.find? (fun i =>
          needs.contains i && (g.pool (.grid e i.1 i.2)).toks.isEmpty &&
            (let (slots, tags) := g.poolShape (.grid e i.1 i.2)
             slots ≤ (tags.map (fun t => g.claimed t.2)).sum))).map (fun i => (k, Endpoint.grid e i.1 i.2))))

def stallLimit : Nat := 65536

/-- VAT_STALL (R124): tokens present and no firing for 65,536 cycles, the last of which is cycle `last`. DESIGN CHOICE: one
stall raises it once, until a stage fires (log 24). -/
def World.vatStall (w : World) (c v last : Nat) : World :=
  let g := w.eng c
  let x := g.vat v
  match x.active with
  | none => w
  | some p =>
    if x.state.live && w.tokensPresent c p.has && !x.stallReported && stallLimit ≤ last - x.lastFire then
      let (t1, t2) := match w.starved c p with
        | some (k, d) => (g.linkInfo d k, g.senderInfo p.has d)
        | none => ((0 : Word), (0 : Word))
      let w := w.setEng c (g.setVat v { x with stallReported := true })
      w.report c ⟨addrVat v, tVATSTALL, BitVec.ofNat 32 (v * 2 ^ 29),
        some ⟨cVATSTALL, v, ⟨BitVec.ofNat 64 (stallLimit * 2 ^ 16 + v), t1, t2, 0⟩⟩⟩
    else w

def branchLimit : Nat := 16384

/-- Detach a branch: the stage discards what it would send there and is poisoned, and the tokens that the link and the
port's router hold are delivered with P (R399). -/
def Eng.detach (g : Eng) (v e k p now : Nat) : Eng :=
  let x := g.elem e
  let st := x.stage k
  let o := Tbl.get x.outs OutConv.empty p
  let o' : OutConv := { o with
    elems := o.elems.map (fun s => { s with p := true }), waiting := o.waiting.map (fun t => { t with p := true }) }
  let x := if o = o' then x else { x with outs := Tbl.put x.outs p o' }
  let g := g.setElem e (x.setStage k { st with
    detached := st.detached ||| (1 <<< p), branch := st.branch.filter (fun q => q.1 != p) })
  let g := g.raiseStage v e k flagPoison now
  match linkOf g.cfg e p with
  | none => g
  | some (d, _) =>
    let q := g.pool d
    let g := g.setPool d { q with toks := q.toks.map (fun t => { t with p := true }) }
    { g with flights := g.flights.map (fun f => if f.dest == d then { f with tok := { f.tok with p := true } } else f) }

/-- The stage of an element whose counter at an output port has reached the limit and has not been reported (R398). -/
def Eng.branchDue (g : Eng) (e port : Nat) : Option Nat :=
  (List.range 6).find? (fun k =>
    let st := (g.elem e).stage k
    !st.told.getLsbD port && branchLimit ≤ Tbl.get st.branch 0 port)

/-- MCAST_STALL (R398) at one output port of an element, with the detachment that MCPOL asks for (R399). -/
def World.mcastStall (w : World) (c e port tag : Nat) : World :=
  let g := w.eng c
  match g.vatOf e, linkOf g.cfg e port, g.branchDue e port with
  | some v, some (d, _), some k =>
    if d.tag != tag then w
    else
      let det := g.mcpol.getLsbD 0
      let t0 := (if det then 2 ^ 20 else 0) + v * 2 ^ 17 + tag * 2 ^ 14 + (port + 1) * 2 ^ 10 + e
      let st := (g.elem e).stage k
      let g := g.setElem e ((g.elem e).setStage k { st with told := st.told ||| (1 <<< port) })
      let g := if det then g.detach v e k port w.cycle else g
      (w.setEng c g).report c ⟨addrVat v, tMCAST, BitVec.ofNat 32 t0,
        some ⟨cMCAST, v, ⟨BitVec.ofNat 64 t0, BitVec.ofNat 64 branchLimit, 0, 0⟩⟩⟩
  | _, _, _ => w

/-- Is an instruction SWAP of this slot? -/
def isSwapOf (v : Nat) : Instr → Bool
  | .swap u => u.toNat == v
  | _ => false

/-- A vat retires in the first cycle in which it may (R252), unless the trace fabric holds its controller up or its completion
store waits for a walk (R301, R420). -/
def World.retireDue (c : Nat) (w : World) (v : Nat) : World :=
  if w.mayRetire c v && !w.heldUnit c (addrVat v) then w.unlessHeld (w.retire c v) else w

/-- What the vat controllers of a core do at the end of a cycle: stalls, branches at their limit, quiet regions,
retirements. -/
def World.watchVats (w : World) (c : Nat) : World :=
  let w := (List.range 8).foldl (fun w v => w.vatStall c v w.cycle) w
  let ports := ((w.eng c).elems.map (fun q =>
    if q.2.stages.toList.any (fun st => st.branch.any (fun b => branchLimit ≤ b.2)) then
      (List.range 8).map (fun p => (q.1, p)) else [])).flatten
  let w := ports.foldl (fun w q =>
    match linkOf (w.eng c).cfg q.1 q.2 with
    | some (d, _) => w.mcastStall c q.1 q.2 d.tag
    | none => w) w
  let slots := (List.range 8).filter (fun v => (w.eng c).commands.any (fun k => isSwapOf v k.instr))
  (List.range 8).foldl (World.retireDue c) (slots.foldl (World.noteQuiet c) w)

/-! The events. -/

/-- VAT_RETIRE (R252). -/
def execVatRetire (v : BitVec 3) (s : State) : Host.Outcome State Fault Refusal :=
  s.onWorld (fun w => if w.mayRetire s.cur v.toNat then w.retire s.cur v.toNat else w)

/-- VAT_STALL (R124), judged by the cycles that are complete. -/
def execVatStall (v : BitVec 3) (s : State) : Host.Outcome State Fault Refusal :=
  s.onWorld (fun w => w.vatStall s.cur v.toNat (w.cycle - 1))

/-- MCAST_STALL (R398, R399). -/
def execMcastStall (e : BitVec 7) (port tag : BitVec 3) (s : State) : Host.Outcome State Fault Refusal :=
  s.onWorld (fun w => w.mcastStall s.cur e.toNat port.toNat tag.toNat)

end Sys2Proof.Machine
end

