-- ==== Sys2Proof/Machine/Mx.lean ====
section
/-! DEFINITION. Matrix nodes: the weight buffer, the rows of A, a tile of products, the four epilogues (R377 to R393). -/

namespace Sys2Proof.Machine

def Eng.mxn (g : Eng) (n : Nat) : MxNode := Tbl.get g.mx MxNode.reset n
def Eng.setNode (g : Eng) (n : Nat) (x : MxNode) : Eng := { g with mx := Tbl.put g.mx n x }
def World.node (w : World) (c n : Nat) : MxNode := (w.eng c).mxn n
def World.setNode (w : World) (c n : Nat) (x : MxNode) : World := w.setEng c ((w.eng c).setNode n x)

/-- The node runs a section of a live vat. -/
def World.nodeLive (w : World) (c n : Nat) : Bool :=
  (w.node c n).state == .running && ((w.eng c).vatOf (addrMatrix n)).isSome

/-- Take one token from an input port; the ports w, a0 and a1 read in the section's format (R377, R455), with INV for a lane
of a 6-bit format that is at fault (R63). -/
def Eng.nodeTake (g : Eng) (n port : Nat) : Option (Token × FlagSet × Eng) :=
  let d : Endpoint := .matrix n port
  let q := g.pool d
  (q.take q.fmt (if port = 3 then q.fmt else (g.mxCfg n).fmt) (port != 3) true).map (fun t =>
    let six := if port != 3 && t.tok.kind == kDATA then sixBitFlag (g.mxCfg n).fmt t.tok.data t.tok.valid.toNat else 0
    (t.tok, t.flags ||| six, g.setPool d { q with toks := t.left, taken := t.taken, scale := t.scale }))

/-- The flags a node has just raised go to its vat under the node's address (R390). -/
def World.nodeFlags (w : World) (c n : Nat) (fl : FlagSet) : World :=
  let g := w.eng c
  match g.vatOf (addrMatrix n) with
  | some v => w.setEng c (g.setVat v ((g.vat v).record fl (addrMatrix n) w.cycle))
  | none => w

/-! The weight buffer (R383, R384, R386). -/

def weightLines : Nat := 32768

/-- The lines that `k` metadata tokens fill, `e` bits each (R383). -/
def maskLines (k e : Nat) : Nat := (k * e + 511) / 512

/-- A token's payload with the lanes that hold no data zero. -/
def Token.cleared (t : Token) : Payload := payloadOf ((lanes t.data).take t.valid.toNat)

/-- Metadata tokens that a load expects. -/
def MxCfg.maskCount (c : MxCfg) : Nat := if c.sparse then c.klen * c.cols / (16 * perLane c.fmt) else 0

/-- Lines the buffer uses. -/
def MxNode.used (x : MxNode) (c : MxCfg) : Nat := x.lines + maskLines x.masks.length (16 * perLane c.fmt)

/-- Put one token into the buffer: a token of zeros takes no line, what is too much is discarded. -/
def MxNode.keep (x : MxNode) (c : MxCfg) (t : Token) : MxNode :=
  if t.kind != kSCALE && t.data == 0 then { x with weights := x.weights ++ [t] }
  else if x.used c < weightLines then { x with weights := x.weights ++ [t], lines := x.lines + 1 }
  else
    { x with
      spoiled := true
      weights := if t.kind == kSCALE then x.weights else x.weights ++ [{ t with data := 0 }] }

/-- A value token of the load. -/
def MxNode.weight (x : MxNode) (c : MxCfg) (t : Token) : MxNode :=
  let x := { x with wPoison := x.wPoison || t.p || t.kind == kERR }
  if t.isMarker then { x with left := 0 }
  else if t.kind == kSCALE then (if c.scaled then x.keep c t else x)
  else if t.kind == kERR || (t.kind == kDATA && t.p) then
    { x with weights := x.weights ++ [{ plainToken t.kind with valid := 16, p := true }], left := x.left - 1 }
  else if t.kind == kDATA then
    { x.keep c { plainToken kDATA with valid := 16, data := t.cleared } with left := x.left - 1 }
  else x

/-- A metadata token of the load; at a marker the rest reads as zero bits. -/
def MxNode.mask (x : MxNode) (c : MxCfg) (t : Token) : MxNode :=
  let x := { x with wPoison := x.wPoison || t.p || t.kind == kERR }
  if t.isMarker then { x with masks := x.masks ++ List.replicate (c.maskCount - x.masks.length) 0 }
  else if t.kind == kERR || (t.kind == kDATA && t.p) then { x with masks := x.masks ++ [0] }
  else if t.kind == kDATA then
    let y := { x with masks := x.masks ++ [t.cleared] }
    if y.used c ≤ weightLines then y else { x with masks := x.masks ++ [0], spoiled := true }
  else x

/-- Does a load still expect metadata? -/
def MxNode.wantsMask (x : MxNode) (c : MxCfg) : Bool := c.load != 0 && x.masks.length < c.maskCount

/-- MX_WEIGHT_TOKEN: a token of the load, or a marker behind it. -/
def World.weightToken (w : World) (c n : Nat) : World :=
  let g := w.eng c
  let x := g.mxn n
  let cfg := g.mxCfg n
  if !w.nodeLive c n || x.pressed then w
  else
    match g.nodeTake n 0 with
    | none => w
    | some (t, fl, g') =>
      if x.left != 0 then (w.setEng c (g'.setNode n (x.weight cfg t))).nodeFlags c n fl
      else if t.isMarker then w.setEng c g'
      else w

/-- MX_METADATA_TOKEN. -/
def World.metadataToken (w : World) (c n : Nat) : World :=
  let g := w.eng c
  let x := g.mxn n
  let cfg := g.mxCfg n
  if !w.nodeLive c n || x.pressed then w
  else
    match g.nodeTake n 3 with
    | none => w
    | some (t, fl, g') =>
      if x.wantsMask cfg then (w.setEng c (g'.setNode n (x.mask cfg t))).nodeFlags c n fl
      else if t.isMarker then w.setEng c g'
      else w

/-- The elements of the stored tokens, with their scales where the section is scaled (R383, R385). An ERR token is no data
token of a group (R75); its elements and those of a token with P are +0, whatever the scale (R386). -/
def weightElems (c : MxCfg) : List Token → Option ScaleGroup → List SrcElem
  | [], _ => []
  | t :: rest, g =>
    if t.kind == kSCALE then weightElems c rest (some (ScaleGroup.of t))
    else
      srcElems c.fmt (if t.kind == kERR || t.p then none else g) t ++ weightElems c rest (groupPast c.fmt g t)

/-- An element's scale in a section: 0x7F outside every group (R75), none where the section is not scaled. -/
def MxCfg.scaleOf (c : MxCfg) (s : SrcElem) : Option Byte := if c.scaled then some (s.scale.getD 0x7F) else none

/-- Bit `d` of the metadata. -/
def maskBit (c : MxCfg) (masks : List Payload) (d : Nat) : Bool :=
  let e := 16 * perLane c.fmt
  (masks.getD (d / e) 0).getLsbD (d % e)

def zeroElem (fmt : BitVec 4) (p : Bool) : SrcElem := ⟨0, fmt, none, p, false, 0, false⟩

/-- The dense elements of a sparse B group by group: absent elements are none, a value that is missing is +0 (R386); and
whether some group was wrong (R384). -/
def sparseElems (c : MxCfg) (masks : List Payload) : Nat → Nat → List SrcElem → List (Option SrcElem) × Bool
  | 0, _, _ => ([], false)
  | n + 1, j, vs =>
    let bits := (List.range c.grp).map (fun i => maskBit c masks (j * c.grp + i))
    let (rest, bad) := sparseElems c masks n (j + 1) (vs.drop c.keep)
    if bits.countP id = c.keep then
      ((bits.zipIdx.map (fun b =>
        if b.1 then some (vs.getD ((bits.take b.2).countP id) (zeroElem c.fmt false)) else none)) ++ rest, bad)
    else (List.replicate c.grp none ++ rest, true)

/-- B as dense elements by n·K + k, with whether elements are missing or a group is wrong. -/
def MxNode.dense (x : MxNode) (c : MxCfg) : List (Option SrcElem) × Bool :=
  let vs := weightElems c x.weights none
  if c.sparse then
    let (ds, bad) := sparseElems c x.masks (c.klen * c.cols / (max c.grp 1)) 0 vs
    (ds, bad || vs.length < c.klen * c.cols * c.keep / (max c.grp 1))
  else (vs.map some, vs.length < c.klen * c.cols)

/-! The rows of A (R382, R386). -/

def MxCfg.tileElems (c : MxCfg) : Nat := c.rows * c.klen

/-- Has the section no further tile to start? -/
def MxNode.over (x : MxNode) (c : MxCfg) : Bool :=
  (c.tiles != 0 && c.tiles ≤ x.tile) || (x.aEnded && x.a.length < c.klen)

/-- Add elements to the rows, marked bad where they raise POISON alone. -/
def MxNode.feed (x : MxNode) (es : List SrcElem) (bad : Bool) : MxNode :=
  { x with a := x.a ++ es, aBad := x.aBad ++ es.map (fun _ => bad) }

/-- A token of A. -/
def MxNode.takeA (x : MxNode) (c : MxCfg) (t : Token) : MxNode :=
  let x := { x with aTaken := x.aTaken + 1 }
  let x := if x.over c then x else { x with aPoison := x.aPoison || t.p || t.kind == kERR }
  if x.over c then x
  else if t.isMarker then
    let part := x.a.length % c.klen
    let x := if part = 0 then x else x.feed (List.replicate (c.klen - part) (zeroElem c.fmt false)) true
    { x with aScale := none, aEnded := x.aEnded || t.kind == kEOS }
  else if t.kind == kSCALE then { x with aScale := some (ScaleGroup.of t) }
  else if t.kind == kDATA then
    let es := srcElems c.fmt x.aScale t
    let g := groupAfter x.aScale es.length
    { x.feed (if t.p then es.map (fun _ => zeroElem c.fmt true) else es) false with aScale := g }
  else if t.kind == kERR then
    x.feed (List.replicate (min t.valid.toNat 16 * perLane c.fmt) (zeroElem c.fmt true)) false
  else x

/-- The port the next token of A comes from: both ports in turn where a1 is linked too. -/
def Eng.portA (g : Eng) (n : Nat) : Nat :=
  if g.linked (.matrix n 2) && (g.mxn n).aTaken % 2 = 1 then 2 else 1

/-- MX_A_TOKEN: take a token while the rows of the next tile are not complete; behind the EOS that ends the section, and behind
its last tile, markers alone (R386), beside CFG tokens, which the node takes to no effect (R186). -/
def World.aToken (w : World) (c n : Nat) : World :=
  let g := w.eng c
  let x := g.mxn n
  let cfg := g.mxCfg n
  let port := g.portA n
  let marked := [1, 2].any (fun p => (g.pool (.matrix n p)).marker.isSome)
  let held := g.edgeHolds (addrMatrix n) (sinkMatrix n) (g.pool (.matrix n port)).toks.head?
  if !w.nodeLive c n || x.pressed || marked || held then w
  else
    match g.nodeTake n port with
    | none => w
    | some (t, fl, g') =>
      let row := x.a.length % (max cfg.klen 1) = 0
      if ((x.over cfg || x.aEnded) && !(t.isMarker || t.kind == kCFG)) ||
          (!x.over cfg && cfg.tileElems ≤ x.a.length && !(t.isMarker && row)) then w
      else
        (w.setEng c ((g'.formEdge (addrMatrix n) (sinkMatrix n) t).setNode n (x.takeA cfg t))).nodeFlags c n fl

/-! A tile (R387 to R390). -/

/-- The block size of a version (R387). -/
def blockSize (nbv : Nat) : Nat := if nbv = 1 then 8 else if nbv = 2 then 16 else 32

/-- Round into an accumulator field: FA48, or f32 held in one (R86). -/
def accRound (nbv : Nat) (v : Val) : BitVec 48 × FlagSet :=
  if nbv = 1 then
    let (p, fl) := round (.float f32Fmt) .rne 0 v
    let (q, _) := round (.float fa48Fmt) .rne 0 (decodeFloat f32Fmt p)
    (BitVec.ofNat 48 q, fl)
  else
    let (p, fl) := round (.float fa48Fmt) .rne 0 v
    (BitVec.ofNat 48 p, fl)

/-- A product of one k, where B's element is present. -/
def MxCfg.product (c : MxCfg) (q : SrcElem × Option SrcElem) : Option (Val × FlagSet) :=
  match q.2 with
  | none => none
  | some b =>
    let (u, f1) := exact (fmtOfCode c.fmt) (c.scaleOf q.1) q.1.pat
    let (v, f2) := exact (fmtOfCode c.fmt) (c.scaleOf b) b.pat
    let (p, f3) := u.mul v
    some (p, f1 ||| f2 ||| f3 ||| flagIf (q.1.inv || b.inv) flagInv)

/-- Accumulate a row and a column in the float path. -/
def floatBlocks (c : MxCfg) (nbv : Nat) : Nat → List (SrcElem × Option SrcElem) → BitVec 48 × FlagSet →
    BitVec 48 × FlagSet
  | 0, _, r => r
  | fuel + 1, ks, (acc, fl) =>
    if ks.isEmpty then (acc, fl)
    else
      let ps := (ks.take (blockSize nbv)).filterMap c.product
      let (s, f1) := exactSum (decodeFloat fa48Fmt acc.toNat :: ps.map (·.1)) .rne
      let (a, f2) := accRound nbv s
      floatBlocks c nbv fuel (ks.drop (blockSize nbv)) (a, ps.foldl (fun f p => f ||| p.2) (fl ||| f1 ||| f2))

/-- Accumulate in the integer path (R388). -/
def intBlocks (c : MxCfg) (nbv : Nat) : Nat → List (SrcElem × Option SrcElem) → BitVec 48 × FlagSet →
    BitVec 48 × FlagSet
  | 0, _, r => r
  | fuel + 1, ks, (acc, fl) =>
    if ks.isEmpty then (acc, fl)
    else
      let wd := elemBits c.fmt
      let s := ((ks.take (blockSize nbv)).map (fun q =>
        match q.2 with
        | some b => patInt wd q.1.pat * patInt wd b.pat
        | none => 0)).sum
      let (p, f) := wrapInt 48 (acc.toInt + s)
      intBlocks c nbv fuel (ks.drop (blockSize nbv)) (BitVec.ofNat 48 p, fl ||| f)

/-- Unscaled i8 and i4 (R388). -/
def MxCfg.isInt (c : MxCfg) : Bool := (c.fmt == 9 || c.fmt == 10) && !c.scaled

/-- The output of a tile value (R389). -/
def MxCfg.output (c : MxCfg) (v : BitVec 48) : Nat × FlagSet :=
  match fmtOfCode c.outFmt with
  | .int k =>
    let (z, f) := satInt k v.toInt
    (intPat k z, f)
  | .float f => round (.float f) (rmodeOf c.ornd) 0 (decodeFloat fa48Fmt v.toNat)

/-- Record the flags of one value (R390). -/
def MxTile.record (t : MxTile) (fl : FlagSet) (tile r col : Nat) : MxTile :=
  if fl = 0 then t
  else if t.flags = 0 then
    { t with flags := fl, fcol := BitVec.ofNat 8 col, frow := BitVec.ofNat 8 r, ftile := BitVec.ofNat 16 tile }
  else { t with flags := t.flags ||| fl }

/-- One value of a tile: accumulated, stored, its flags recorded. -/
def MxTile.value (t : MxTile) (c : MxCfg) (nbv tile r col : Nat) (extra : FlagSet) (row : List SrcElem)
    (b : List (Option SrcElem)) : MxTile :=
  let i := 128 * r + col
  let acc0 : BitVec 48 := if c.accin then Tbl.get t.vals 0 i else 0
  let zero := zeroElem c.fmt false
  let ks := (List.range c.klen).map (fun k =>
    let e := b[col * c.klen + k]?
    (row.getD k zero, match e with
      | some e => e
      | none => if c.sparse then none else some zero))
  let (v, fl) := if c.isInt then intBlocks c nbv c.klen ks (acc0, 0) else floatBlocks c nbv c.klen ks (acc0, 0)
  ({ t with vals := Tbl.put t.vals i v, dirty := true }.record (fl ||| (c.output v).2 ||| extra) tile r col)

/-- The accumulator of tile `t`. -/
def MxCfg.accOf (c : MxCfg) (t : Nat) : Nat := ((if c.tsel then 1 else 0) + t) % 2

/-- Compute the next tile of `rows` rows. -/
def MxNode.compute (x : MxNode) (c : MxCfg) (nbv rows : Nat) : MxNode :=
  let as := x.a.take (rows * c.klen)
  let bads := x.aBad.take (rows * c.klen)
  let (b, short) := x.dense c
  let p := as.any (·.p) || x.aPoison || x.wPoison || x.spoiled || x.wFails
  let base := flagIf (p || short) flagPoison
  let k : Fin 2 := ⟨c.accOf x.tile, Nat.mod_lt _ (by decide)⟩
  let t := (List.range rows).foldl (fun t r =>
    let row := (as.drop (r * c.klen)).take c.klen
    let bad := ((bads.drop (r * c.klen)).take c.klen).any id
    (List.range c.cols).foldl (fun t col =>
      t.value c nbv x.tile r col (base ||| flagIf bad flagPoison) row b) t) (x.tiles.get k)
  { x with
    a := x.a.drop (rows * c.klen), aBad := x.aBad.drop (rows * c.klen), aPoison := false, tile := x.tile + 1
    outs := x.outs ++ [⟨x.tile, rows, 0, 0, p, false⟩], tiles := x.tiles.set k.val t k.isLt }

/-- A word of the weight buffer fails its check (R448): it has no address, which is a free value (log 10). -/
def World.weightsFail (w : World) (c n : Nat) : World :=
  let (x, w) := w.fresh
  w.eccFrom c (addrMatrix n) (32 + n) memWeights (bitsNat x 0 50) false (32 + n)

/-- MX_TILE: the next tile, once its weights, its rows and its accumulator are there. -/
def World.tileEvent (w : World) (c n : Nat) : World :=
  let g := w.eng c
  let x := g.mxn n
  let cfg := g.mxCfg n
  let nbv := match g.vatOf (addrMatrix n) with | some v => (g.vat v).nbv | none => 3
  let rows := min cfg.rows (x.a.length / (max cfg.klen 1))
  if !w.nodeLive c n || x.saved || x.over cfg || x.left != 0 || x.wantsMask cfg || 2 ≤ x.outs.length then w
  else if rows = cfg.rows || (x.aEnded && rows != 0) then
    let k : Fin 2 := ⟨cfg.accOf x.tile, Nat.mod_lt _ (by decide)⟩
    let bare := x.tiles.set k.val { x.tiles.get k with flags := 0 } k.isLt
    let new := (({ x with tiles := bare }.compute cfg nbv rows).tiles.get k).flags
    let w := (w.setNode c n (x.compute cfg nbv rows)).nodeFlags c n new
    let w := if x.wCorrects then
        (w.setNode c n { (w.eng c).mxn n with wCorrects := false }).eccCorrected c (addrMatrix n) memWeights (32 + n)
      else w
    if x.wFails then w.weightsFail c n else w
  else w

/-! The epilogue (R391 to R393). -/

/-- Tokens in one row of output. -/
def MxCfg.rowTokens (c : MxCfg) : Nat := (c.cols + fullToken c.outFmt - 1) / (max (fullToken c.outFmt) 1)

/-- The output token next due of a tile: its elements and the token. -/
def MxNode.outToken (x : MxNode) (c : MxCfg) (o : MxOut) : Nat × Token :=
  let per := fullToken c.outFmt
  let k : Fin 2 := ⟨c.accOf o.tile, Nat.mod_lt _ (by decide)⟩
  let cols := (List.range c.cols).drop (o.tok * per) |>.take per
  let ps := cols.map (fun col => (c.output (Tbl.get (x.tiles.get k).vals 0 (128 * o.row + col))).1)
  (cols.length, packToken c.outFmt ps false o.p)

/-- The address of an output token (R391). -/
def MxCfg.outAddr (c : MxCfg) (o : MxOut) : Word :=
  c.base + BitVec.ofInt 64 (((o.tile * c.rows + o.row : Nat) : Int) * c.stride.toInt + (64 * o.tok : Nat))

/-- Bytes that a token's elements fill. -/
def outBytes (fmt : BitVec 4) (n : Nat) (t : Token) : Nat :=
  if isSixBit fmt then 4 * t.valid.toNat else (n * elemBits fmt + 7) / 8

/-- The tile after its next token: the next token, the next row, or nothing left. -/
def MxOut.next (o : MxOut) (c : MxCfg) : Option MxOut :=
  if o.tok + 1 < c.rowTokens then some { o with tok := o.tok + 1 }
  else if o.row + 1 < o.rows then some { o with row := o.row + 1, tok := 0 }
  else none

/-- Move past the token of the tile at the head. -/
def MxNode.pop (x : MxNode) (c : MxCfg) : MxNode :=
  match x.outs with
  | [] => x
  | o :: rest =>
    match o.next c with
    | some o' => { x with outs := o' :: rest }
    | none => { x with outs := rest }

/-- Is what a node has contributed present: nothing of it enters or waits at a closed partial (R95, R393)? -/
def Eng.nodePresent (g : Eng) (n creg : Nat) : Bool :=
  let r := g.curd creg
  !g.entering.any (fun k => k.addr == addrMatrix n) &&
    (match r.bound (bindNode (BitVec.ofNat 2 n)) with
     | some j => (r.part j).pending.isNone
     | none => true)

/-- Report the section once it is over and all of it has gone out (R393). -/
def World.nodeReport (w : World) (c n : Nat) : World :=
  let x := w.node c n
  let cfg := (w.eng c).mxCfg n
  if x.over cfg && x.outs.isEmpty && x.out.isEmpty then
    if x.finished then w.reportSink c (addrMatrix n) (sinkMatrix n)
    else if cfg.epi == eFWD || cfg.epi == eRED then w.setNode c n { x with finished := true, out := [eosToken] }
    else if cfg.epi == eCTB && !(w.eng c).nodePresent n cfg.creg.toNat then w
    else (w.setNode c n { x with finished := true }).reportSink c (addrMatrix n) (sinkMatrix n)
  else w

/-- A node's store is refused (R391). -/
def World.faultNode (w : World) (c n : Nat) (r : Refused) (va : Word) (asid : BitVec 16) : World :=
  let x := w.node c n
  (w.setNode c n { x with state := .faulted, reason := r.reason, refused := some ⟨true, va⟩ }).streamXlate c va r true
    false (32 + n) asid

/-- Write bytes under the vat's latched address space, split where they cross 64 bytes. -/
def World.nodeWrite (c n : Nat) : Nat → World → Word → List Byte → StreamIo Unit
  | 0, w, _, _ => .ok () w
  | fuel + 1, w, va, bs =>
    if bs.isEmpty then .ok () w
    else
      let g := w.eng c
      let (asid, root) := match g.vatOf (addrMatrix n) with
        | some v => ((g.vat v).asid, (g.vat v).ptroot)
        | none => (0, 0)
      match w.unitTranslate c (.node n) (g.mxn n).entry asid root .write va with
      | .refused r => .stop (w.faultNode c n r va asid)
      | .wait w' => .stop w'
      | .ok pa t =>
        let w := w.setNode c n { w.node c n with entry := some t }
        let k := min bs.length (toBoundary va)
        match w.unitWrite c pa (bs.take k) with
        | .ok () w' => w'.nodeWrite c n fuel (va + BitVec.ofNat 64 k) (bs.drop k)
        | .refused r => .stop (w.faultNode c n ⟨r, 0⟩ va asid)
        | .wait => .stop w
        | .failing _ => .stop w

/-- ST of the next token. -/
def World.epiStore (w : World) (c n : Nat) (cfg : MxCfg) (o : MxOut) : World :=
  let (k, t) := (w.node c n).outToken cfg o
  match w.nodeWrite c n 3 (cfg.outAddr o) ((leBytes 64 t.data.toNat).take (outBytes cfg.outFmt k t)) with
  | .ok () w' => w'.setNode c n ((w'.node c n).pop cfg)
  | .stop w' => w'
  | .failing _ w' => w'

/-- CTB of the next token (R94, R391). The last one of a section that closes waits until it is known to be the last. -/
def World.epiContribute (w : World) (c n : Nat) (cfg : MxCfg) (o : MxOut) : World :=
  let g := w.eng c
  let x := g.mxn n
  let (_, t) := x.outToken cfg o
  let final := cfg.close && (o.next cfg).isNone && o.tile + 1 = x.tile
  if final && !x.over cfg && x.a.length < cfg.klen then w
  else
    let bind := bindNode (BitVec.ofNat 2 n)
    if g.contribRoom cfg.creg.toNat bind then
      let k := contribOf t.data t.valid.toNat cfg.outFmt (final && x.over cfg) t.p
      let e : Entering := ⟨cfg.creg, bind, addrMatrix n, none, g.vatOf (addrMatrix n), k⟩
      w.setEng c ((g.addEntering e).setNode n (x.pop cfg))
    else w

/-- The tokens of FWD and RED for the next token of a tile. -/
def MxNode.sendTokens (x : MxNode) (c : MxCfg) (o : MxOut) : List Token :=
  let (_, t) := x.outToken c o
  if c.epi == eRED then
    let a := c.outAddr o
    let head : Token := { plainToken kCTRL with
      level := 1, valid := 3
      data := payloadOf [a.extractLsb' 0 32, a.extractLsb' 32 32, c.rop.setWidth 32] }
    [head, t]
  else t :: (if (o.next c).isNone then [eodOf 1] else [])

/-- Send the first token owed on the node's output. A tile moves on once the tokens of its next step are sent (R387). -/
def World.epiSend (w : World) (c n : Nat) : World :=
  let x := w.node c n
  let g := w.eng c
  match x.out with
  | [] => w
  | t :: rest =>
    match w.sendEdge c (matrixLink g.cfg n) (g.mxCfg n).oport t with
    | none => w
    | some w' =>
      let y := { w'.node c n with out := rest }
      (w'.setNode c n (if rest.isEmpty then y.pop (g.mxCfg n) else y)).nodeReport c n

/-- MX_EPILOGUE_TOKEN. -/
def World.epilogueToken (w : World) (c n : Nat) : World :=
  let g := w.eng c
  let x := g.mxn n
  let cfg := g.mxCfg n
  if !w.nodeLive c n || x.saved then w
  else if !x.out.isEmpty then w.epiSend c n
  else
    match x.outs with
    | [] => (w.nodeReport c n).epiSend c n
    | o :: _ =>
      if cfg.epi == eST then (w.epiStore c n cfg o).nodeReport c n
      else if cfg.epi == eCTB then (w.epiContribute c n cfg o).nodeReport c n
      else (w.setNode c n { x with out := x.sendTokens cfg o }).epiSend c n

/-- A flag word as the window shows it (R390). -/
def MxTile.flagWord (t : MxTile) : Word :=
  (0 : BitVec 8) ++ t.fcol ++ t.frow ++ t.ftile ++ (0 : BitVec 18) ++ t.flags

/-! The events. -/

/-- MX_WEIGHT_TOKEN (R383). -/
def execMxWeightToken (n : BitVec 2) (s : State) : Host.Outcome State Fault Refusal :=
  s.onWorld (fun w => w.weightToken s.cur n.toNat)

/-- MX_METADATA_TOKEN (R384). -/
def execMxMetadataToken (n : BitVec 2) (s : State) : Host.Outcome State Fault Refusal :=
  s.onWorld (fun w => w.metadataToken s.cur n.toNat)

/-- MX_A_TOKEN (R382, R386). -/
def execMxAToken (n : BitVec 2) (s : State) : Host.Outcome State Fault Refusal :=
  s.onWorld (fun w => w.aToken s.cur n.toNat)

/-- MX_TILE (R387). -/
def execMxTile (n : BitVec 2) (s : State) : Host.Outcome State Fault Refusal :=
  s.onWorld (fun w => w.tileEvent s.cur n.toNat)

/-- MX_EPILOGUE_TOKEN (R391). -/
def execMxEpilogueToken (n : BitVec 2) (s : State) : Host.Outcome State Fault Refusal :=
  s.onWorld (fun w => w.epilogueToken s.cur n.toNat)

end Sys2Proof.Machine
end

