-- ==== Sys2Proof/Machine/Ep.lean ====
section
/-! DEFINITION. Edge ports: egress with its guard and its window, ingress, credits, reduce-stores (R392, R394, R395, R405
to R411). -/

namespace Sys2Proof.Machine

def Eng.port (g : Eng) (p : Nat) : EpState := Tbl.get g.ports EpState.reset p
def Eng.setPort (g : Eng) (p : Nat) (x : EpState) : Eng := { g with ports := Tbl.put g.ports p x }

/-- Does an edge port work: its vat is live, no word BLOCKED it, and no press has stopped it? -/
def Eng.portLive (g : Eng) (p : Nat) : Bool :=
  (g.vatOf (addrEdge p)).isSome && (g.epCfg p).blocked.isNone && !(g.port p).pressed

/-! The guard (R405 to R410, R450). -/

/-- The destination node of an egress port: this package's own but under SCOPE fab (R394). -/
def EpCfg.node (c : EpCfg) (own : BitVec 14) : BitVec 14 := if c.scope == 3 then c.dstNode else own

/-- Is a token of core `c` for a core of a node outside (R407)? No core: an address that no core holds. -/
def World.outside (w : World) (c : Nat) (node : BitVec 14) (core : Option Nat) : Bool :=
  let g := w.eng c
  let p := g.guardPart w.cycle
  g.fenced || (p != 0 &&
    (match core with
     | none => true
     | some k =>
       96 ≤ k || (if node == g.node then (w.eng k).guardPart w.cycle != p else !reaches w.guardReach p node.toNat k)))

/-- The guard number of a port (R405). -/
def guardNumber (c p : Nat) : Nat := 8 * c + p

/-- The guard drops a token (R408, R410). -/
def World.guardDrop (w : World) (c p : Nat) (sb : BitVec 24) : World :=
  let g := w.eng c
  let x := g.port p
  let first := x.dcnt == 0
  let w := w.setEng c (g.setPort p { x with
    dcnt := satInc x.dcnt, total := satInc x.total, firstSb := if first then sb else x.firstSb })
  if first then
    (w.raise c ⟨cGUARD, p, ⟨BitVec.ofNat 64 (guardNumber c p), 0, sb.setWidth 64, 0⟩⟩).emit c (addrEdge p) tGUARD
      (BitVec.ofNat 32 ((sb.extractLsb' 16 8).toNat * 2 ^ 24 + guardNumber c p))
  else w

/-! Windows (R395). -/

/-- Does the path from a core to a core of a node lie on one die? -/
def oneDie (own node : BitVec 14) (c k : Nat) : Bool := node == own && dieOf c == dieOf k

/-- Is an egress port's path windowed? -/
def Eng.windowed (g : Eng) (c p : Nat) : Bool :=
  let cfg := g.epCfg p
  cfg.isEgress && !oneDie g.node (cfg.node g.node) c cfg.dstCore.toNat

/-- Tokens under way from an egress port. -/
def World.underWay (w : World) (c p : Nat) : Nat := (w.nets.filter (fun n => n.srcCore = c && n.srcPort = p)).length

/-- How many tokens a path on one die holds (log 29). -/
def pathPlaces : Nat := 64

/-- The port that holds the credits of an egress port: the ingress port it names in this package, so that two that name one
share its window (R394); else the port itself. -/
def World.creditPort (w : World) (c p : Nat) : Nat × Nat :=
  let g := w.eng c
  let cfg := g.epCfg p
  if cfg.node g.node == g.node then (cfg.dstCore.toNat, cfg.dstPort.toNat) else (c, p)

/-- The credits of an egress port. -/
def World.creditsOf (w : World) (c p : Nat) : Nat :=
  let q := w.creditPort c p
  ((w.eng q.1).port q.2).credits

/-- One credit of a port less. -/
def World.spendCredit (w : World) (q : Nat × Nat) : World :=
  let g := w.eng q.1
  let x := g.port q.2
  w.setEng q.1 (g.setPort q.2 { x with credits := x.credits - 1 })

/-- Does an egress port without credit refuse its own link (R395)? A port whose tokens are outside needs none (R408), and
the pairs of RED mode need none. -/
def World.refusesLink (w : World) (c p : Nat) : Bool :=
  let g := w.eng c
  let cfg := g.epCfg p
  g.windowed c p && !cfg.red && w.creditsOf c p = 0 &&
    !w.outside c (cfg.node g.node) (some cfg.dstCore.toNat)

/-- Bring the refusals of a core's egress ports up to date. -/
def World.shutPorts (w : World) (c : Nat) : World :=
  (w.eng c).epActive.foldl (fun w q =>
    let g := w.eng c
    let x := g.port q.1
    let shut := w.refusesLink c q.1
    if x.shut == shut then w else w.setEng c (g.setPort q.1 { x with shut := shut })) w

/-- The endpoint that an ingress port feeds. -/
def Eng.ingressLink (g : Eng) (p : Nat) : Option Endpoint :=
  if (g.epCfg p).isIngress && (g.vatOf (addrEdge p)).isSome then (edgeLink g.cfg p).map (·.1) else none

/-- Credits for the tokens that the consumers behind core c's ingress ports took between two worlds (R395). -/
def World.returnCredits (w0 w : World) (c : Nat) : World :=
  (w.eng c).epActive.foldl (fun w q =>
    match (w0.eng c).ingressLink q.1, (w.eng c).ingressLink q.1 with
    | some d, some d' =>
      let n := (w0.eng c).claimed d - (w.eng c).claimed d
      if d == d' && n != 0 then w.returnCredit c q.1 n else w
    | _, _ => w) w

/-- What every step settles at the edge ports of its core. -/
def World.settlePorts (w0 w : World) (c : Nat) : World := (w0.returnCredits w c).shutPorts c

/-! Egress (R392, R394, R395). -/

/-- The bytes by which a token leaves for another package: its sideband and its payload (log 11). -/
def tokenBytes (t : Token) : List Byte := leBytes 4 t.sideband.toNat ++ leBytes 64 t.data.toNat

/-- Put a token on its way through the die network. -/
def World.sendNet (w : World) (c p : Nat) (cfg : EpCfg) (fmt : BitVec 4) (t : Token) : World :=
  { w with nets := w.nets ++
    [⟨c, p, cfg.dstCore.toNat, cfg.dstPort.toNat, (w.eng c).partid, t, fmt, w.cycle + 1, false⟩] }

/-- The head of an egress pool goes to the destination that EDSTH and EDSTL name. -/
def World.egressToken (w : World) (c p : Nat) (cfg : EpCfg) (fmt : BitVec 4) (t : Token) (g : Eng) : World :=
  let node := cfg.node g.node
  let waits := t.r && w.reduces.any (fun r => r.core = c && r.port = p)
  if w.outside c node (some cfg.dstCore.toNat) then (w.setEng c g).guardDrop c p t.sideband
  else if waits then w
  else if g.windowed c p then
    if w.creditsOf c p = 0 then w
    else
      let w := (w.setEng c g).spendCredit (w.creditPort c p)
      if node == g.node then w.sendNet c p cfg fmt t
      else w.sendFrame node.toNat (8 * cfg.dstCore.toNat + cfg.dstPort.toNat) g.partid (tokenBytes t)
  else if pathPlaces ≤ w.underWay c p then w
  else (w.setEng c g).sendNet c p cfg fmt t

/-- The fabric address that a CTRL token names (R391). -/
def ctrlAddr (k : Token) : Word := lane k.data 1 ++ lane k.data 0

/-- Is a CTRL token for an address outside (R407)? -/
def World.ctrlOutside (w : World) (c : Nat) (k : Token) : Bool :=
  let pa := physOfFabric (w.eng c).node (ctrlAddr k)
  w.outside c pa.node (regionOf pa.addr).core

/-- A token in RED mode: the CTRL half of a pair is judged and kept, the data token behind it is judged by the address of the
CTRL token when it is taken, and makes the reduce-store; any other token goes as through any port (R392, R407; log 29). -/
def World.egressPair (w : World) (c p : Nat) (cfg : EpCfg) (fmt : BitVec 4) (t : Token) (g : Eng) : World :=
  let x := g.port p
  if t.kind == kCTRL then
    let out := w.ctrlOutside c t
    let w := w.setEng c (g.setPort p { x with ctrl := some t })
    if out then w.guardDrop c p t.sideband else w
  else
    let g' := g.setPort p { x with ctrl := none }
    match x.ctrl with
    | none => w.egressToken c p cfg fmt t g
    | some k =>
      if t.kind != kDATA then w.egressToken c p cfg fmt t g'
      else
        let w := w.setEng c g'
        let pa := physOfFabric g.node (ctrlAddr k)
        if w.ctrlOutside c k then w.guardDrop c p t.sideband
        else if pa.remote then
          w.sendFrame pa.node.toNat pa.addr g.partid (leBytes 4 (lane k.data 2).toNat ++ tokenBytes t)
        else { w with reduces := w.reduces ++ [⟨c, p, ctrlAddr k, (lane k.data 2).extractLsb' 0 2, t⟩] }

/-- Does a press marker cross the link of an egress port: under a press of the partition, or to a port of its own core, in this
package? -/
def Eng.markerCrosses (g : Eng) (c : Nat) (cfg : EpCfg) : Bool :=
  ((match g.press with | some x => x.part | none => false) || cfg.dstCore.toNat = c) && cfg.node g.node == g.node

/-- A press marker at an egress port: under a press of the partition, and on its way to a port of its own core, it crosses the
link, unless the guard drops it; else it ends here (R363, R408). -/
def World.egressMarker (w : World) (c p : Nat) (cfg : EpCfg) : World :=
  let g := w.eng c
  let q := g.pool (.edge p)
  match q.marker with
  | none => w
  | some t =>
    let w := w.setEng c (g.setPort p { g.port p with pressed := true })
    if !g.markerCrosses c cfg then w
    else if w.outside c g.node (some cfg.dstCore.toNat) then w.guardDrop c p t.sideband
    else w.sendNet c p cfg 0 { t with tag := 0 }

/-- EP_EGRESS_TOKEN: the next token of the pool, or the marker behind the last. -/
def World.egress (w : World) (c p : Nat) : World :=
  let g := w.eng c
  let cfg := g.epCfg p
  if !g.portLive p || !cfg.isEgress then w
  else
    match g.popPool (.edge p) with
    | none => w.egressMarker c p cfg
    | some (t, g') =>
      let fmt := (g.pool (.edge p)).fmt
      if cfg.red then w.egressPair c p cfg fmt t g' else w.egressToken c p cfg fmt t g'

/-- Is what stands at the head of an egress port's pool one that its guard drops (R407): a token, or the marker behind the
last? -/
def World.headOutside (w : World) (c p : Nat) : Bool :=
  let g := w.eng c
  let cfg := g.epCfg p
  let q := g.pool (.edge p)
  let out := w.outside c (cfg.node g.node) (some cfg.dstCore.toNat)
  g.portLive p && cfg.isEgress &&
    (match q.toks.head? with
     | none => q.marker.isSome && g.markerCrosses c cfg && out
     | some t =>
       if cfg.red && t.kind == kCTRL then w.ctrlOutside c t
       else
         match cfg.red && t.kind == kDATA, (g.port p).ctrl with
         | true, some k => w.ctrlOutside c k
         | _, _ => out)

/-- The guard of a port takes the tokens outside at its head, up to a number of them. -/
def World.guardPort (c p : Nat) : Nat → World → World
  | 0, w => w
  | fuel + 1, w => if w.headOutside c p then (w.egress c p).guardPort c p fuel else w

/-- The guards of a core take the tokens outside in the cycle in which they are presented (R408). -/
def World.guardCycle (w : World) (c : Nat) : World :=
  (List.range 8).foldl (fun w p => w.guardPort c p (((w.eng c).pool (.edge p)).toks.length + 1)) w

/-! Ingress (R394, R408, R450). -/

/-- The format of a contribution that an ingress port makes (log 29): i32 to a register of integers, else f32. -/
def Curd.portFmt (r : Curd) : BitVec 4 := if isFloatCode r.fmtCode then 1 else 0

/-- An ingress port contributes a token; none while the register has no room. DESIGN CHOICE: the one an EOS makes has no P
bit (log 34). -/
def World.portContribute (w : World) (c p : Nat) (t : Token) : Option World :=
  let g := w.eng c
  let reg := (g.epCfg p).creg
  let r := g.curd reg.toNat
  let k :=
    if t.kind == kEOS then contribEmpty r.portFmt true false
    else contribOf t.data t.valid.toNat r.portFmt false t.p
  let bind := bindPort (BitVec.ofNat 3 p)
  if g.contribRoom reg.toNat bind then
    some (w.setEng c (g.addEntering ⟨reg, bind, addrEdge p, none, g.vatOf (addrEdge p), k⟩))
  else none

/-- The marker of an ingress port, behind what it has sent. -/
def World.ingressMarker (w : World) (c p : Nat) : World :=
  let g := w.eng c
  let g' := g.setPort p { g.port p with pressed := true }
  match edgeLink g.cfg p with
  | none => w.setEng c g'
  | some (d, hops) => w.setEng c (g'.launchMarker d (w.cycle + 1 + hops))

/-- A token as an ingress port delivers it: one whose parity check has failed is an ERR (R448). -/
def NetToken.token (n : NetToken) (p : Nat) : Token := if n.spoilt then spoiltErr (addrEdge p) n.tok else n.tok

/-- An ingress port takes one token off the network; none while it has to wait. -/
def World.ingressToken (w : World) (c p : Nat) (n : NetToken) : Option World :=
  let g := w.eng c
  let x := g.port p
  if g.fenced || (n.part != 0 && n.part != g.partid) then
    some (w.setEng c (g.setPort p { x with total := satInc x.total }))
  else
    let t := n.token p
    let w := w.setEng c (g.setPort p { x with from' := some n.srcCore })
    if t.kind == kPRESS then some (w.ingressMarker c p)
    else if (g.epCfg p).ctb then
      (if t.kind == kDATA || t.kind == kEOS then w.portContribute c p t else some w).map (fun w => w.returnCredit c p 1)
    else w.sendEdge c (edgeLink g.cfg p) (n.fmt.setWidth 16 <<< 8) t

/-- The oldest token frame that another package has sent to a port. -/
def World.frameToken (w : World) (c p : Nat) : World :=
  match w.tokensIn.findIdx? (fun f => f.core = c && f.port = p) with
  | none => w
  | some i =>
    match w.tokensIn[i]? with
    | none => w
    | some f =>
      match w.ingressToken c p ⟨96, 0, c, p, f.part, Token.ofSideband f.side f.data, f.fmt, w.cycle, false⟩ with
      | none => w
      | some w' => { w' with tokensIn := dropAt w'.tokensIn i }

/-- Does an ingress port take tokens: it works, or its core is fenced and it discards them (R450)? -/
def Eng.ingressTakes (g : Eng) (p : Nat) : Bool :=
  (g.epCfg p).isIngress && (g.fenced || (g.portLive p && !(g.port p).dead))

/-- EP_INGRESS_TOKEN: the oldest token for the port that has arrived; those that a press kept come first, then those of this
package, then those that other packages have sent. -/
def World.ingressEvent (w : World) (c p : Nat) : World :=
  let g := w.eng c
  if !g.ingressTakes p then w
  else
    match (g.port p).inbox with
    | n :: rest =>
      match w.ingressToken c p n with
      | none => w
      | some w' => w'.setEng c ((w'.eng c).setPort p { (w'.eng c).port p with inbox := rest })
    | [] =>
    match w.nets.findIdx? (fun n => n.dstCore = c && n.dstPort = p && n.arrive ≤ w.cycle) with
    | none => w.frameToken c p
    | some i =>
      match w.nets[i]? with
      | none => w
      | some n =>
        match w.ingressToken c p n with
        | none => w
        | some w' => { w' with nets := dropAt w'.nets i }

/-! Credits and reduce-stores. -/

/-- One credit for an egress port. -/
def World.addCredit (w : World) (c p : Nat) : World :=
  let g := w.eng c
  let x := g.port p
  w.setEng c (g.setPort p { x with credits := x.credits + 1 })

/-- EP_CREDIT: the n-th credit on its way reaches the window of the ingress port it comes from. A number past the list is a
credit from another node for port `(n - length) mod 8` of core `(n - length) / 8` (log 11). -/
def World.creditEvent (w : World) (n : Nat) : World :=
  match w.credits[n]? with
  | some k =>
    { w with credits := dropAt w.credits n }.addCredit k.core k.port
  | none =>
    let m := n - w.credits.length
    let c := m / 8
    let g := w.eng c
    let cfg := g.epCfg (m % 8)
    if c < 96 && cfg.isEgress && cfg.node g.node != g.node then w.addCredit c (m % 8) else w

/-- One lane of a reduce-store (R392): wrapped sum, or the f32 sum rounded to nearest. -/
def reduceLane (rop : BitVec 2) (x y : BitVec 32) : BitVec 32 :=
  if rop == 1 then
    BitVec.ofNat 32 (round (.float f32Fmt) .rne 0
      (exactSum [decodeFloat f32Fmt x.toNat, decodeFloat f32Fmt y.toNat] .rne).1).1
  else x + y

/-- The words that a reduce-store leaves at its address. -/
def World.reducedWords (w : World) (a : Nat) (r : Reduce) : List (BitVec 32) :=
  (List.range (min r.tok.valid.toNat 16)).map (fun l =>
    reduceLane r.rop (BitVec.ofNat 32 (memNat w.mem (a + 4 * l) 4)) (lane r.tok.data l))

/-- Perform a reduce-store at memory: an address that is neither DRAM nor a bank in RAM mode takes nothing, and a failing
word is reported and kept (log 29). -/
def World.performReduce (w : World) (r : Reduce) : World :=
  let a := bitsNat r.addr 0 50
  let ok := match regionOf a with
    | .dram _ => true
    | .pad k e _ => match ((w.eng k).cfg e).bankMode with | .ram => true | _ => false
    | _ => false
  if !ok then w
  else
    match w.failing a (4 * min r.tok.valid.toNat 16) with
    | some u => w.eccReport r.core (addrEdge r.port) u false 0
    | none => w.store a ((w.reducedWords a r).map (fun x => leBytes 4 x.toNat)).flatten

/-- REDUCE_STORE: the n-th on its way, once none before it goes to the same address. -/
def World.reduceEvent (w : World) (n : Nat) : World :=
  match w.reduces[n]? with
  | none => w
  | some r =>
    if (w.reduces.take n).any (fun q => q.addr == r.addr && q.core = r.core && q.port = r.port) then w
    else { w with reduces := dropAt w.reduces n }.performReduce r

/-- The n-th reduce-store that other packages have sent is performed, once none of its sender before it goes to the same
address. -/
def World.frameReduce (w : World) (n : Nat) : World :=
  match w.reducesIn[n]? with
  | none => w
  | some f =>
    let k := ((regionOf f.addr.toNat).core).getD 0
    if (w.reducesIn.take n).any (fun q => q.addr == f.addr && q.sender = f.sender) then w
    else { w with reducesIn := dropAt w.reducesIn n }.performReduce
      ⟨k, 0, f.addr.setWidth 64, f.rop.setWidth 2, Token.ofSideband f.side f.data⟩

/-! The events. -/

/-- EP_EGRESS_TOKEN (R395). -/
def execEpEgressToken (p : BitVec 3) (s : State) : Host.Outcome State Fault Refusal :=
  s.onWorld (fun w => w.egress s.cur p.toNat)

/-- EP_INGRESS_TOKEN (R394). -/
def execEpIngressToken (p : BitVec 3) (s : State) : Host.Outcome State Fault Refusal :=
  s.onWorld (fun w => w.ingressEvent s.cur p.toNat)

/-- EP_CREDIT (R395). -/
def execEpCredit (n : Nat) (s : State) : Host.Outcome State Fault Refusal := s.onWorld (fun w => w.creditEvent n)

/-- REDUCE_STORE (R392): the n-th of this package, and past these those that other packages have sent. -/
def execReduceStore (n : Nat) (s : State) : Host.Outcome State Fault Refusal :=
  s.onWorld (fun w => if n < w.reduces.length then w.reduceEvent n else w.frameReduce (n - w.reduces.length))

end Sys2Proof.Machine
end

