-- ==== Sys2Proof/Machine/Sched.lean ====
section
/-! DEFINITION. Dataflow threads: records at sinks and at the ingress port, the entry queues, injection, the selection of
a block (R249, R263 to R267). -/

namespace Sys2Proof.Machine

/-! Entry queues (R265). -/

def Sched.setQueue (d : Sched) (b : Nat) (q : List ThreadRec) : Sched := { d with queues := Tbl.put d.queues b q }

/-- Does the scheduler's own buffer hold one more record of a block: its first 16, for up to 8 queues? -/
def Sched.buffers (d : Sched) (b : Nat) : Bool :=
  (d.queue b).length < 16 && (d.queues.filter (fun q => q.1 != b && !q.2.isEmpty)).length < 8

/-- An entry of the block table, read under the address space of the vat whose table applies; zero where it cannot be
read (log 30). -/
def World.blockEntry (w : World) (c b : Nat) : Word × World :=
  match (w.eng c).sched.tables with
  | none => (0, w)
  | some x =>
    match w.commandRead c uSCHED uSCHED x.asid x.ptroot x.priv x.xoff (x.btb + BitVec.ofNat 64 (8 * b)) 8 with
    | (.ok bs, w) => (BitVec.ofNat 64 (leNat bs), w)
    | (.error _, w) => (0, w)

/-- `n` free words. -/
def World.freshWords : Nat → World → List Word × World
  | 0, w => ([], w)
  | n + 1, w =>
    let (x, w) := w.fresh
    let (t, w) := w.freshWords n
    (x :: t, w)

/-- A record goes to its ring. The layout of its 256 bytes is not given: they are free values (log 10). -/
def World.spill (w : World) (c b i : Nat) : World :=
  match (w.eng c).sched.tables with
  | none => w
  | some x =>
    let (ws, w) := w.freshWords 32
    let va := x.qb + BitVec.ofNat 64 (b * 0x10000 + 256 * (i % ringRecords))
    match w.commandXlat c uSCHED x.asid x.ptroot x.priv x.xoff .write va with
    | (.error _, w) => w
    | (.ok pa, w) =>
      w.releaseStore c pa ((ws.map (fun x => leBytes 8 x.toNat)).flatten)

/-- Raise THR_BLOCK: at the sinking element, or nowhere for a record of the ingress port (R265, R357). -/
def World.blockFault (w : World) (c v : Nat) (at' : Option Nat) (l : List Token) : World :=
  let t1 : Word := recordThread l ++ BitVec.ofNat 32 (recordBlock l)
  match at' with
  | some e => w.gridFault c v vcTHRBLOCK 0 e t1
  | none =>
    let (x, w) := w.fresh
    w.gridFault c v vcTHRBLOCK 0 (x.extractLsb' 0 10).toNat t1

/-- Park a record whose queue has a place (R265); a fault is that of slot `v`. -/
def World.park (w : World) (c v : Nat) (at' : Option Nat) (l : List Token) : World :=
  let b := recordBlock l
  let g := w.eng c
  if b = 0 then w.setEng c { g with sched := { g.sched with threadsEnded := g.sched.threadsEnded + 1 } }
  else
    match w.blockEntry c b with
    | (0, w) => w.blockFault c v at' l
    | (_, w) =>
      let g := w.eng c
      let d := g.sched
      let i := Tbl.get d.parked 0 b
      let d' := { (d.setQueue b (d.queue b ++ [⟨l, w.cycle⟩])) with parked := Tbl.put d.parked b (i + 1) }
      let w := w.setEng c { g with sched := d' }
      if d.buffers b then w else w.spill c b i

/-! Sinks (R265). -/

/-- ADDR of the unit of a sink. -/
def sinkAddr (key : Nat) : Nat :=
  if key < 4096 then key / 8 else if key < 4352 then addrStream ((key - 4096) % 32) else addrMatrix (key - 4352)

/-- Park the record that a sink has completed, if its ring has a place. -/
def World.parkFormed (w : World) (c key : Nat) : World :=
  let g := w.eng c
  let l := Tbl.get g.sched.forming [] key
  if recordWhole l && !g.sched.ringFull l then
    let w := w.setEng c { g with sched := { g.sched with forming := Tbl.put g.sched.forming key [] } }
    match g.vatOf (sinkAddr key) with
    | some v => w.park c v (some (sinkAddr key)) l
    | none => w
  else w

/-- Park, at the end of a cycle, the records completed in it. -/
def World.parkAll (w : World) (c : Nat) : World :=
  ((w.eng c).sched.forming.filter (fun q => recordWhole q.2)).foldl (fun w q => w.unlessHeld (w.parkFormed c q.1)) w

/-- A claimant acts, and the scheduler takes the record it has completed. Where the trace fabric holds the scheduler up,
the sink does not consume the token (R420). -/
def World.act (c : Nat) (w : World) (p : Planned) : World :=
  let w := w.setEng c ((w.eng c).actedOn p.who)
  w.unlessHeld (match p.who with
    | .stage e k => (w.fireNow c e k p.shared).parkFormed c (sinkStage e k)
    | .release e => w.releaseNow c e p.shared
    | .router e q => w.setEng c ((w.eng c).sendWaiting w.cycle e q p.shared))

/-- A firing of an operation: nothing happens where the stage does not fire in this cycle, has fired, has a claimant of
its element before it, or holds another operation (R173). -/
def World.fireStage (w : World) (op : StageOp) (c e k : Nat) : World :=
  match plannedFor (w.planned c) (.stage e k) with
  | none => w
  | some p =>
    let w' := w.beginGrid c
    match w'.fireAt c e k with
    | some x => if x.op = op then World.act c w' p else w
    | none => w

/-- MREORD_RELEASE (R223). -/
def World.release (w : World) (c e : Nat) : World :=
  match plannedFor (w.planned c) (.release e) with
  | none => w
  | some p => World.act c (w.beginGrid c) p

/-- TOKEN_DELIVERY: the n-th token in flight arrives, once its cycle has come and no token before it on its link is still
under way; a number past the flights names a converting router that sends its next token (log 17). -/
def World.deliver (w : World) (c n : Nat) : World :=
  let g := w.eng c
  if n < g.flights.length then (if g.mayArrive w.cycle n then w.setEng c (g.deliverOne w.cycle n) else w)
  else
    match (((w.planned c).filter (fun p => match p.who with | .router _ _ => true | _ => false))[n - g.flights.length]?) with
    | some p => World.act c (w.beginGrid c) p
    | none => w

/-! The ingress port (R249). -/

/-- The record at the head of the port's tokens, if it is complete, and the rest. -/
def headRecord (l : List Token) : Option (List Token × List Token) :=
  match l with
  | [] => none
  | h :: t => if h.level.toNat ≤ t.length then some (h :: t.take h.level.toNat, t.drop h.level.toNat) else none

/-- Is the next token in the middle of a record? -/
def midRecord : Nat → List Token → Bool
  | 0, _ => false
  | fuel + 1, l =>
    match headRecord l with
    | some (_, rest) => midRecord fuel rest
    | none => !l.isEmpty

/-- Hand complete records to the scheduler while their queues have a place; none under a press (R363), none before a
scheduled vat has been armed. -/
def World.handRecords (c : Nat) : Nat → World → World
  | 0, w => w
  | fuel + 1, w =>
    let g := w.eng c
    match g.sched.tables, headRecord g.ingress.toks with
    | some x, some (r, rest) =>
      if g.pressing || g.sched.ringFull r then w
      else
        let w' := (w.setEng c { g with ingress := { g.ingress with toks := rest } }).park c x.slot none r
        if w'.miss.isSome then w.unlessHeld w' else w'.handRecords c fuel
    | _, _ => w

/-- Free entries of the port. -/
def Ingress.space (x : Ingress) : Nat := 64 - x.toks.length

/-- A token pushed into a port that has an entry: kept, or dropped and counted. True when it was dropped. -/
def World.pushToken (w : World) (c : Nat) (t : Token) : Bool × World :=
  let g := w.eng c
  let x := g.ingress
  let fits := if midRecord 65 x.toks then t.kind != kTHR else t.kind == kTHR && t.level.toNat ≤ 3
  if fits then
    let t := if t.kind == kTHR then { t with r := true } else t
    (false, (w.setEng c { g with ingress := { x with toks := x.toks ++ [t] } }).handRecords c 65)
  else (true, w.setEng c { g with ingress := { x with drops := x.drops + 1 } })

/-! Injection and selection (R266). -/

/-- The scheduled slots in use: their active plane is scheduled. -/
def Eng.scheduledSlots (g : Eng) : List Nat :=
  (List.range 8).filter (fun v =>
    !g.sched.left.contains v && (match (g.vat v).active with | some p => p.scheduled | none => false))

/-- The block of a slot. -/
def Eng.slotBlock (g : Eng) (v : Nat) : Nat := match (g.vat v).active with | some p => p.block | none => 0

/-- SCHED_INJECT: one token of the slot's block enters, when the entry port's pool has a slot. -/
def World.inject (w : World) (c v : Nat) : World :=
  let w := w.handRecords c 65
  let g := w.eng c
  let x := g.vat v
  if g.pressing || !g.scheduledSlots.contains v || !(x.state == .armed || x.state == .running) then w
  else
    match x.active with
    | none => w
    | some p =>
      let part := Tbl.get g.sched.injecting [] v
      let q := g.sched.queue p.block
      let next : Option (Token × List Token × List ThreadRec) :=
        match part, q with
        | t :: rest, _ => some (t, rest, q)
        | [], r :: q' =>
          if g.sched.stopped.contains v then none
          else
            match r.toks with
            | t :: rest => some (t, rest, q')
            | [] => none
        | [], [] => none
      match next with
      | none => w
      | some (t, rest, q') =>
        let d : Endpoint := .grid p.entryElem p.entryPort 0
        match w.enterLink c d t (g.linkFmt d 0) (w.cycle + 1) with
        | none => w
        | some w =>
          let g := w.eng c
          w.setEng c { g with sched := { (g.sched.setQueue p.block q') with
            injecting := Tbl.put g.sched.injecting v rest } }

/-- The age at which a block is aged. -/
def ageLimit : Nat := 65536

/-- The age of a block with a waiting record. -/
def Sched.age (d : Sched) (now b : Nat) : Nat := match d.queue b with | r :: _ => now - r.at' | [] => 0

/-- The blocks with a waiting record. -/
def Sched.waiting (d : Sched) : List Nat := (List.range 256).filter (fun b => !(d.queue b).isEmpty)

def Sched.aged (d : Sched) (now b : Nat) : Bool := !(d.queue b).isEmpty && ageLimit ≤ d.age now b

/-- BLOCK_AGED: while an aged block is loaded in no slot, injection stops into the lowest scheduled slot whose block is
not aged. -/
def World.blockAged (w : World) (c v : Nat) : World :=
  let g := w.eng c
  let d := g.sched
  let slots := g.scheduledSlots
  let loaded := slots.map g.slotBlock
  let homeless := d.waiting.any (fun b => d.aged w.cycle b && !loaded.contains b)
  let low := slots.find? (fun u => !d.aged w.cycle (g.slotBlock u))
  if homeless && low == some v && !d.stopped.contains v then
    w.setEng c { g with sched := { d with stopped := d.stopped ++ [v] } }
  else w

/-- The best of some blocks under a measure: the largest, the lowest block among equals. -/
def pickMax (f : Nat → Nat) : List Nat → Option Nat
  | [] => none
  | b :: t =>
    match pickMax f t with
    | none => some b
    | some k => if f k ≤ f b then some b else some k

/-- The pick of R266 for a slot. -/
def Eng.pickBlock (g : Eng) (now v : Nat) : Option Nat :=
  let d := g.sched
  let others := (g.scheduledSlots.filter (· != v)).map g.slotBlock
  let cands := d.waiting.filter (fun b => !others.contains b)
  if cands.any (d.aged now) then pickMax (d.age now) cands else pickMax (fun b => (d.queue b).length) cands

/-- Is a scheduled slot drained: quiet, and no token in a link of its region? Its sinks take no EOS (log 30). -/
def World.slotDrained (w : World) (c v : Nat) : Bool :=
  let g := w.eng c
  match (g.vat v).active with
  | none => false
  | some p => w.quiet c p && (g.residue p.has).isEmpty && (Tbl.get g.sched.injecting [] v).isEmpty

/-- The SWAP of a slot that is drained already (R228): its plane is exchanged, or the SWAP has failed. -/
def World.swapDrained (w : World) (c v : Nat) : World :=
  let x := (w.eng c).vat v
  match x.cst, x.culture with
  | .loaded, some p => w.swapNow c v p
  | _, _ => (w.performSwap c v).getD w

/-- Load, exchange and arm a block's configuration in a slot, ARM under the version in force (R85). DESIGN CHOICE: the
completion word, the address space and the mode of these commands are those of the slot's last ARM (log 30): R266 names
none. -/
def World.switchBlock (w : World) (c nbv v b : Nat) : World :=
  let (e, w) := w.blockEntry c b
  let w := if ((w.eng c).vat v).state.live then w.retire c v else w
  let x := (w.eng c).vat v
  let k : Command := {
    instr := .cfg 0 (BitVec.ofNat 3 v), x := BitVec.ofNat 64 (bitsNat e 6 50 * 64), y := 0, asid := x.asid
    ptroot := x.ptroot, priv := x.priv, xoff := x.xoff }
  let w := w.setEng c ((w.eng c).setVat v { x with cst := .loading, loadAt := some k })
  let w := w.planeLoad c v
  let w := w.swapDrained c v
  let y := (w.eng c).vat v
  let loaded := y.state == .loaded && (match y.active with | some p => p.addr == k.x | none => false)
  let w := if loaded then (w.performArm c v nbv { k with x := x.cw }).getD w else w
  let g := w.eng c
  let d := { g.sched with stopped := g.sched.stopped.filter (· != v) }
  let d := if (g.vat v).state == .armed then d else { d with left := d.left ++ [v] }
  w.setEng c { g with sched := d }

/-- SCHED_SELECT: a drained slot whose queue is empty, or whose injection has stopped, gets a block. -/
def World.schedSelect (w : World) (c nbv v : Nat) : World :=
  let g := w.eng c
  let d := g.sched
  if g.pressing || !g.scheduledSlots.contains v || !w.slotDrained c v then w
  else if !((d.queue (g.slotBlock v)).isEmpty || d.stopped.contains v) then w
  else
    match g.pickBlock w.cycle v with
    | none => w
    | some b =>
      if b = g.slotBlock v then w.setEng c { g with sched := { d with stopped := d.stopped.filter (· != v) } }
      else w.switchBlock c nbv v b

/-! What DONE waits for and does (R267). -/

/-- Is the scheduler quiet: no waiting record, no thread token in a scheduled vat? -/
def World.schedQuiet (w : World) (c : Nat) : Bool :=
  let g := w.eng c
  g.sched.waiting.isEmpty && g.sched.injecting.all (fun q => q.2.isEmpty) && g.sched.forming.all (fun q => q.2.isEmpty) &&
    g.scheduledSlots.all (fun v => !(g.vat v).state.live || w.slotDrained c v)

/-- Retire the scheduled vats. -/
def World.retireScheduled (w : World) (c : Nat) : World :=
  (w.eng c).scheduledSlots.foldl (fun w v => if ((w.eng c).vat v).state.live then w.retire c v else w) w

/-! The events. -/

/-- SCHED_SELECT (R266). -/
def execSchedSelect (v : BitVec 3) (s : State) : Host.Outcome State Fault Refusal :=
  s.onWorld (fun w => w.schedSelect s.cur s.cp.nbv.toNat v.toNat)

/-- SCHED_INJECT (R266). -/
def execSchedInject (v : BitVec 3) (s : State) : Host.Outcome State Fault Refusal :=
  s.onWorld (fun w => w.inject s.cur v.toNat)

/-- BLOCK_AGED (R266). -/
def execBlockAged (v : BitVec 3) (s : State) : Host.Outcome State Fault Refusal :=
  s.onWorld (fun w => w.blockAged s.cur v.toNat)

end Sys2Proof.Machine
end

