-- ==== Sys2Proof/Machine/Report.lean ====
section
/-! DEFINITION. Responses to hosts and the reports the device writes to the host's ring (R438, R442). -/

namespace Sys2Proof.Machine

/-! Responses (R438). -/

def respOK : BitVec 2 := 0
def respDECODE : BitVec 2 := 1
def respPERM : BitVec 2 := 2
def respBUSY : BitVec 2 := 3

/-- Note the response to a host's access. -/
def World.respond (w : World) (r : BitVec 2) : World := { w with resp := r }

/-! Reports (R442). -/

def rpWDOG : Nat := 1
def rpLPB : Nat := 2
def rpINGRESS : Nat := 3
def rpMSG : Nat := 4
def rpPRESS : Nat := 5
def rpLINK : Nat := 6
def rpECC : Nat := 7
def rpFENCED : Nat := 8
def rpTHERMAL : Nat := 9

def HostBlock.reportsOn (h : HostBlock) : Bool := h.hrcfg.getLsbD 8
def HostBlock.ringSize (h : HostBlock) : Nat := 2 ^ (bitsNat h.hrcfg 0 5)

/-- Is there a place in the ring? -/
def HostBlock.hasPlace (h : HostBlock) : Bool := h.reportsOn && (h.hrwidx - h.hrridx).toNat != h.ringSize

/-- The 32 bytes of a report. -/
def reportBytes (code core time : Nat) (i0 i1 : Word) : List Byte :=
  leBytes 8 (code * 2 ^ 56 + core) ++ leBytes 8 time ++ leBytes 8 i0.toNat ++ leBytes 8 i1.toNat

/-- The device writes to a fabric address: local memory, or a frame to another node, under no partition: PARTID 0 in its frame
is the model's choice (log 32). -/
def World.deviceWrite (w : World) (a : Word) (bs : List Byte) : World :=
  let pa := physOfFabric (w.eng 0).node a
  if pa.remote then w.sendFrame pa.node.toNat pa.addr 0 bs
  else
    match regionOf pa.addr with
    | .dram _ | .pad _ _ _ => w.store pa.addr bs
    | _ => w

/-- A report: written, or counted and discarded; true when it was written. -/
def World.hostReport (w : World) (code core : Nat) (i0 i1 : Word) : Bool × World :=
  let h := w.host
  if h.hasPlace then
    let a := h.hrbase + BitVec.ofNat 64 (32 * (h.hrwidx.toNat % h.ringSize))
    let w := w.deviceWrite a (reportBytes code core w.time i0 i1)
    (true, { w with host := { w.host with hrwidx := h.hrwidx + 1 } })
  else (false, { w with host := { h with hrlost := satInc h.hrlost } })

/-- A report whose fate nothing depends on. -/
def World.tell (w : World) (code core : Nat) (i0 i1 : Word) : World := (w.hostReport code core i0 i1).2

/-! The ingress port's writes (R249). -/

/-- INGRESS_PAYLOAD_WRITE: one 64-byte write at offset 0; a push into a full port is held. -/
def World.ingressPayload (w : World) (c off : Nat) (data : Payload) : World :=
  if off != 0 then w.respond respDECODE
  else
    let x := (w.eng c).ingress
    if x.space = 0 then w
    else
      match w.pushToken c (Token.ofSideband x.sideband data) with
      | (false, w) => w.respond respOK
      | (true, w) =>
        let g := w.eng c
        let (sent, w) := w.hostReport rpINGRESS c (x.sideband.setWidth 64) (BitVec.ofNat 64 g.ingress.drops)
        let g := w.eng c
        (if sent then w.setEng c { g with ingress := { g.ingress with drops := 0 } } else w).respond respOK

/-- INGRESS_SIDEBAND_WRITE. -/
def World.ingressSideband (w : World) (c : Nat) (v : Word) : World :=
  if v.extractLsb' 24 40 != 0 then w.respond respPERM
  else
    let g := w.eng c
    (w.setEng c { g with ingress := { g.ingress with sideband := v.extractLsb' 0 24 } }).respond respOK

/-- A host reads a register of the ingress port: SPACE alone answers, an aligned access of 8 bytes; any other answers an
error (R249). -/
def World.ingressRead (w : World) (c off n : Nat) : Word × World :=
  if off = 0x048 && n = 8 then (BitVec.ofNat 64 (w.eng c).ingress.space, w.respond respOK) else (0, w.respond respDECODE)

/-- INGRESS_PAYLOAD_WRITE (R249). -/
def execIngressPayloadWrite (off : BitVec 12) (data : BitVec 512) (s : State) : Host.Outcome State Fault Refusal :=
  s.onWorld (fun w => w.ingressPayload s.cur off.toNat data)

/-- INGRESS_SIDEBAND_WRITE (R249). -/
def execIngressSidebandWrite (val : BitVec 64) (s : State) : Host.Outcome State Fault Refusal :=
  s.onWorld (fun w => w.ingressSideband s.cur val)

end Sys2Proof.Machine
end

