-- ==== Sys2Proof/Machine/Job.lean ====
section
/-! DEFINITION. Jobs: launch blocks, selection, the start of a work unit, retirement, message launches (R240 to R250). -/

namespace Sys2Proof.Machine

/-! The job unit of a partition. -/

def World.job (w : World) (p : Nat) : JobUnit := Tbl.get w.jobs JobUnit.reset p
def World.setJob (w : World) (p : Nat) (j : JobUnit) : World := { w with jobs := Tbl.put w.jobs p j }

/-- The partition of a core. -/
def World.partOf (w : World) (c : Nat) : Nat := (w.eng c).partid.toNat

/-- The cores of a partition that are not fenced, ascending (R243). -/
def World.partCores (w : World) (p : Nat) : List Nat :=
  (List.range 96).filter (fun c => w.partOf c = p && !(w.eng c).fenced)

def JobUnit.queue (j : JobUnit) (q : Nat) : List JobRef := Tbl.get j.queues [] q
def JobUnit.setQueue (j : JobUnit) (q : Nat) (l : List JobRef) : JobUnit := { j with queues := Tbl.put j.queues q l }

/-- Append a block to a queue (R439): a new head may be eligible at once. -/
def JobUnit.append (j : JobUnit) (q : Nat) (r : JobRef) : JobUnit :=
  { j.setQueue q (j.queue q ++ [r]) with reread := 0 }

/-- Put a block at the head of a queue (R247, R250). -/
def JobUnit.insertHead (j : JobUnit) (q : Nat) (r : JobRef) : JobUnit :=
  { j.setQueue q (r :: j.queue q) with reread := 0 }

/-! Reads and writes of the job unit: local addresses (log 30). -/

def localAddr (a : Word) : PhysAddr := ⟨false, 0, a.toNat⟩

def World.jobRead (w : World) (c : Nat) (a : Word) (n : Nat) : Option (List Byte) × World :=
  match w.unitReadAs false c uCP 0 (localAddr a) n with
  | .ok bs w => (some bs, w)
  | _ => (none, w)

def World.jobWrite (w : World) (c : Nat) (a v : Word) : World :=
  w.releaseStore c (localAddr a) (leBytes 8 v.toNat)

/-! Launch blocks (R240 to R242). -/

abbrev Block := Vector Word 8

def Block.word (b : Block) (i : Nat) : Word := b.toList.getD i 0
def Block.units (b : Block) : Nat := bitsNat (b.word 0) 32 32
def Block.prio (b : Block) : Nat := bitsNat (b.word 0) 18 2
def Block.nbv (b : Block) : Nat := bitsNat (b.word 0) 16 2
def Block.entry (b : Block) : Word := b.word 1
def Block.cwa (b : Block) : Word := b.word 2
def Block.depp (b : Block) : Word := b.word 3

/-- Step 2 of R242 passes. -/
def Block.fieldsOk (b : Block) : Bool :=
  bitsNat (b.word 0) 24 8 == 0 && bitsNat (b.word 0) 0 16 == 0 && b.nbv != 0 && b.entry.toNat % 4 == 0 &&
    bitsNat b.entry 56 8 == 0 && b.cwa.toNat % 8 == 0 && b.depp.toNat % 32 == 0

/-- A block at the head of a queue as the job unit finds it: unreadable, or its words, and whether it is eligible. -/
structure HeadInfo where
  block : Option Block
  eligible : Bool

/-- A dependence is met (R241); a word that cannot be read meets none (log 30). -/
def World.depMet (w : World) (c : Nat) (a thr : Word) : Bool × World :=
  if a == 0 then (true, w)
  else if a.toNat % 8 != 0 then (false, w)
  else
    match w.jobRead c a 8 with
    | (some bs, w) => (BitVec.sle thr (BitVec.ofNat 64 (leNat bs)), w)
    | (none, w) => (false, w)

/-- The words of a referenced block. -/
def World.readBlock (w : World) (c : Nat) (r : JobRef) : Option Block × World :=
  let (b, w) : Option Block × World :=
    match r.copied with
    | some b => (some b, w)
    | none =>
      match w.jobRead c r.addr 64 with
      | (some bs, w) => (some (Vector.ofFn (fun i => (wordsOf bs 8).getD i.val 0)), w)
      | (none, w) => (none, w)
  (match r.arg0 with
   | some a => b.map (fun b => b.set 4 a)
   | none => b, w)

/-- Read a head. One that cannot be read is selected, and reported then (R242 step 1); a record at a misaligned address
is not read, and the block fails step 2. -/
def World.readHead (w : World) (c : Nat) (r : JobRef) : HeadInfo × World :=
  match w.readBlock c r with
  | (none, w) => (⟨none, true⟩, w)
  | (some b, w) =>
    if b.depp == 0 || b.depp.toNat % 32 != 0 then (⟨some b, true⟩, w)
    else
      match w.jobRead c b.depp 32 with
      | (none, w) => (⟨none, true⟩, w)
      | (some bs, w) =>
        let d := wordsOf bs 4
        let (m0, w) := w.depMet c (d.getD 0 0) (d.getD 1 0)
        let (m1, w) := w.depMet c (d.getD 2 0) (d.getD 3 0)
        (⟨some b, m0 && m1⟩, w)

/-- Read the heads of all queues: the queue, its head and what was found. -/
def World.readHeads (c : Nat) (j : JobUnit) : List Nat → World → List (Nat × JobRef × HeadInfo) × World
  | [], w => ([], w)
  | q :: qs, w =>
    match j.queue q with
    | [] => w.readHeads c j qs
    | r :: _ =>
      let (h, w) := w.readHead c r
      let (t, w) := w.readHeads c j qs
      ((q, r, h) :: t, w)

def HeadInfo.prio (h : HeadInfo) : Nat := match h.block with | some b => b.prio | none => 0

/-- The queue that selection takes (R248). -/
def pickQueue (last : Nat) (hs : List (Nat × JobRef × HeadInfo)) : Option (Nat × JobRef × HeadInfo) :=
  let cands := hs.filter (fun h => h.2.2.eligible)
  let p := (cands.map (fun h => h.2.2.prio)).foldl max 0
  ((List.range 16).map (fun i => (last + 1 + i) % 16)).findSome? (fun q =>
    cands.find? (fun h => h.1 = q && h.2.2.prio = p))

/-! Retirement (R247). -/

/-- Cycles between two readings of unmet dependence words (R248). -/
def rereadCycles : Nat := 1024

/-- A job retires. -/
def World.retireJob (w : World) (c p : Nat) (x : Job) : World :=
  let cwa := Block.cwa x.block
  let w :=
    if cwa == 0 then w
    else
      match w.jobRead c cwa 8 with
      | (some bs, w) => w.jobWrite c cwa (BitVec.ofNat 64 (leNat bs) + 1)
      | (none, w) => w
  let j := w.job p
  let j := { j with job := none, reread := 0 }
  w.setJob p (match x.child with
    | some r => { j.insertHead j.last r with childAt := some (w.cycle, j.last, r) }
    | none => j)

/-- A completion error (R242): the store of the error to CWA wherever CWA is not zero; a misaligned one byte by byte
(log 30). -/
def World.completionError (w : World) (c : Nat) (b : Block) (code : Nat) : World :=
  let v : Word := 0x8000000000000000 ||| BitVec.ofNat 64 code
  if b.cwa == 0 then w
  else if b.cwa.toNat % 8 = 0 then w.jobWrite c b.cwa v
  else (leBytes 8 v.toNat).zipIdx.foldl (fun w q => w.releaseStore c (localAddr (b.cwa + BitVec.ofNat 64 q.2)) [q.1]) w

/-- Start a selected block: its checks, and the job with a unit for each core (R242, R243). -/
def World.startJob (w : World) (c p : Nat) (r : JobRef) (b : Block) : World :=
  if !b.fieldsOk then w.completionError c b 2
  else if 2 ^ 24 ≤ b.units then w.completionError c b 1
  else
    let cores := w.partCores p
    let x : Job := {
      addr := r.addr, block := b, units := b.units, cores := cores
      nextUnit := (cores.take b.units).zipIdx, begun := false, ended := 0, child := none }
    if b.units = 0 then w.retireJob c p x
    else
      let j := w.job p
      w.setJob p { j with job := some x }

/-- Selection (R248). -/
def World.select (w : World) (c : Nat) : World :=
  let p := w.partOf c
  let j := w.job p
  let (hs, w) := w.readHeads c j (List.range 16)
  match pickQueue j.last hs with
  | none =>
    if hs.isEmpty then w else w.setJob p { j with reread := w.cycle + rereadCycles }
  | some (q, r, h) =>
    let j := { j.setQueue q ((j.queue q).drop 1) with last := q, reread := 0 }
    let w := w.setJob p j
    match h.block with
    | none => w.tell rpLPB 0 r.addr (BitVec.ofNat 64 q)
    | some b => w.startJob c p r b

/-- JOB_SELECT: no job runs, and no re-reading is awaited. -/
def World.jobSelect (w : World) (c : Nat) : World :=
  let j := w.job (w.partOf c)
  if j.job.isSome || j.reread != 0 then w else w.select c

/-- DEPENDENCE_REREAD: 1,024 cycles after the last reading. -/
def World.reread (w : World) (c : Nat) : World :=
  let j := w.job (w.partOf c)
  if j.job.isSome || j.reread = 0 || w.cycle < j.reread then w else w.select c

/-- JOB_RETIRE: every unit has ended. -/
def World.jobRetire (w : World) (c : Nat) : World :=
  let p := w.partOf c
  match (w.job p).job with
  | some x => if x.ended = x.units then w.retireJob c p x else w
  | none => w

/-! Work units (R130, R244). -/

/-- What of an element outlasts the start of a work unit: the content of its bank's FIFO and window. -/
def Elem.fresh (x : Elem) : Elem := { Elem.reset with fifo := x.fifo, fifoAt := x.fifoAt, window := x.window, next := x.next }

/-- The units of a core at the start of a work unit (R244, R409); the stores that its control processor has buffered stay. -/
def Eng.startUnit (g : Eng) (u : Nat) : Eng :=
  { g with
    commands := [], curds := [], entering := [], active := [], culture := [], activeRead := [], cultureRead := [], agActive := [], agCulture := []
    mxActive := [], mxCulture := [], epActive := [], epCulture := []
    elems := g.elems.map (fun q => (q.1, q.2.fresh)), pools := [], flights := [], vats := [], streams := []
    templates := [], queues := [], copies := [], walks := [], hash := Hash.reset
    mx := g.mx.map (fun q => (q.1, { MxNode.reset with
      wFails := q.2.wFails, wCorrects := q.2.wCorrects, weights := q.2.weights, masks := q.2.masks, lines := q.2.lines, spoiled := q.2.spoiled, wPoison := q.2.wPoison
      tag := q.2.tag, tiles := q.2.tiles }))
    ports := [], sched := Sched.reset, triggers := [], jmask := 0
    masksWas := g.masksWas.map (fun q => (q.1, q.2.1, 0)), marking := none, wake := false, press := none
    unit := some u }

/-- The control processor at the start of a work unit (R130, R137, R244). -/
def Cp.startUnit (c : Cp) (x : Job) (u : Nat) : Cp :=
  let arg (i : Nat) : Word := Block.word x.block (4 + i)
  let g : Vector Word 32 := Vector.replicate 32 0
  { c with
    gpr := (((g.set 1 (arg 0)).set 2 (arg 1)).set 3 (arg 2)).set 4 (arg 3)
    pc := Block.entry x.block
    mode := .running
    mstat := 2
    nbv := BitVec.ofNat 64 (Block.nbv x.block)
    unitid := BitVec.ofNat 24 u
    joblpb := x.addr
    locked := false
    waitFrom := none }

/-- May the control processor take a work unit: it is neither held, stopped nor in the boot ROM (R139, R446)? -/
def CpMode.takesUnit : CpMode → Bool
  | .running | .idling | .between => true
  | .rom | .held | .stopped => false

/-- The unit that a core may begin now: the job of its partition and the number. The block has passed the check of R242, so
its ENTRY is a multiple of 4. -/
def State.unitDue (s : State) (c : Nat) : Option (Job × Nat) :=
  let g := s.w.eng c
  match (s.w.job (s.w.partOf c)).job with
  | none => none
  | some x =>
    match Tbl.find x.nextUnit c with
    | none => none
    | some u =>
      if g.fenced || g.unit.isSome || x.units ≤ u || !(cpOf s.cps c).mode.takesUnit ||
          (Block.entry x.block).extractLsb' 0 2 != 0 then none
      else some (x, u)

/-- A core begins its next unit, if it may. -/
def State.beginUnit (s : State) (c : Nat) : State :=
  match s.unitDue c with
  | none => s
  | some (x, u) =>
    let s := { s with
      w := s.w.setEng c ((s.w.eng c).startUnit u), cps := Tbl.put s.cps c ((cpOf s.cps c).startUnit x u) }
    s.withWorld (s.w.emit c uCP tUNITSTART (BitVec.ofNat 32 u))

/-- WORK_UNIT_START: this core's next unit. With the first unit of a job every core of the partition begins its first
(R243). -/
def State.workUnitStart (s : State) : State :=
  match s.unitDue s.cur with
  | none => s
  | some (x, _) =>
    if x.begun then s.beginUnit s.cur
    else
      let p := s.w.partOf s.cur
      let j := s.w.job p
      x.cores.foldl State.beginUnit (s.withWorld (s.w.setJob p { j with job := some { x with begun := true } }))

/-! Message launches (R250). -/

def Mle.armed (m : Mle) : Bool := m.w0.getLsbD 0
def Mle.empty : Mle := ⟨0, 0⟩

/-- A message's block goes to the head of a queue, behind a tail child that has come there in the same cycle (R439). -/
def JobUnit.insertMessage (j : JobUnit) (now q : Nat) (r : JobRef) : JobUnit :=
  match j.queue q with
  | h :: rest =>
    if j.childAt == some (now, q, h) then { j.setQueue q (h :: r :: rest) with reread := 0 } else j.insertHead q r
  | [] => j.insertHead q r

/-- LAUNCH_MESSAGE: the lowest armed entry with the tag fires; else the message is dropped, counted and reported. -/
def World.launchMessage (w : World) (node : BitVec 14) (part tag : BitVec 16) (payload : Word) : World :=
  if node != (w.eng 0).node then w
  else
    let p := part.toNat
    let j := w.job p
    match (List.range 8).find? (fun m =>
      let e := Tbl.get j.mles Mle.empty m
      e.armed && e.w1.extractLsb' 0 16 == tag) with
    | none => (w.setJob p { j with missed := j.missed + 1 }).tell rpMSG 0 (tag.setWidth 64) (part.setWidth 64)
    | some m =>
      let e := Tbl.get j.mles Mle.empty m
      let j := { j with mles := Tbl.put j.mles m { e with w0 := e.w0 &&& ~~~1 } }
      w.setJob p (j.insertMessage w.cycle 0 ⟨BitVec.ofNat 64 (bitsNat e.w0 6 50 * 64), none, some payload⟩)

/-! TAIL and DONE (R245, R246). -/

/-- Name a child of the job that core `c` runs: the answer of TAIL. -/
def World.nameChild (w : World) (c : Nat) (addr : Word) (block : Option Block) : Word × World :=
  let p := w.partOf c
  let j := w.job p
  match j.job with
  | none => (1, w)
  | some x =>
    if x.child.isSome then (1, w)
    else
      match block with
      | none => (2, w)
      | some b => (0, w.setJob p { j with job := some { x with child := some ⟨addr, some b, none⟩ } })

/-- A core's unit has ended: count it, and give the core its next one (R243). -/
def World.endUnit (w : World) (c : Nat) : World :=
  let p := w.partOf c
  let j := w.job p
  let g := w.eng c
  let w := w.setEng c { g with unit := none }
  match j.job, g.unit with
  | some x, some u =>
    w.setJob p { j with job := some { x with
      ended := x.ended + 1, nextUnit := Tbl.put x.nextUnit c (u + x.cores.length) } }
  | _, _ => w

/-! The events. -/

/-- JOB_SELECT (R248). -/
def execJobSelect (s : State) : Host.Outcome State Fault Refusal := s.onWorld (fun w => w.jobSelect s.cur)

/-- DEPENDENCE_REREAD (R248). -/
def execDependenceReread (s : State) : Host.Outcome State Fault Refusal := s.onWorld (fun w => w.reread s.cur)

/-- WORK_UNIT_START (R244). -/
def execWorkUnitStart (s : State) : Host.Outcome State Fault Refusal := .next s.workUnitStart

/-- JOB_RETIRE (R247). -/
def execJobRetire (s : State) : Host.Outcome State Fault Refusal := s.onWorld (fun w => w.jobRetire s.cur)

/-- LAUNCH_MESSAGE (R250). -/
def execLaunchMessage (node : BitVec 14) (partid tag : BitVec 16) (payload : BitVec 64) (s : State) :
    Host.Outcome State Fault Refusal :=
  s.onWorld (fun w => w.launchMessage node partid tag payload)

end Sys2Proof.Machine
end

