-- ==== Sys2Proof/Machine/TraceTime.lean ====
section
/-! DEFINITION. Trace and time: the commands of the trace and time unit, time triggers, package time, the trace sinks and
a stall by the trace fabric (R413 to R437, R452). -/

namespace Sys2Proof.Machine

/-! Commands (R433 to R435). -/

/-- TEV (R433): performed in a cycle in which its event can be raised; none while the control processor has raised another in
it (R414). -/
def World.performTev (w : World) (c : Nat) (x y : Word) : Option World :=
  let type := (x.extractLsb' 0 5).setWidth 8
  if w.mustFollow c uCP type then none else some (w.emit c uCP type (y.extractLsb' 0 32))

/-- TCTL (R435). -/
def World.performTctl (w : World) (c : Nat) (x : Word) : World :=
  w.setEng c ((w.eng c).setMasks w.cycle (w.eng c).tfilt x)

/-- Does some context of the die still hold an event of core `c` raised before a time, in sixteenths of a nanosecond? -/
def World.unsettled (w : World) (c m : Nat) : Bool :=
  (List.range 8).any (fun x =>
    let s := w.sink (sinkKey (c / 24) x)
    (s.buf ++ s.waiting).any (fun r =>
      (r.extractLsb' 54 2).toNat = c / 24 && (r.extractLsb' 49 5).toNat = c % 24 && (r.extractLsb' 64 64).toNat < m))

/-- Raise MARK with an earlier time (R434). -/
def World.emitMark (w : World) (c m : Nat) (x : Word) : World :=
  { { w with time := m }.emit c uCP tMARK (x.extractLsb' 0 32) with time := w.time }

/-! Time status (R428). -/

/-- The time status word. -/
def World.timeStatus (w : World) : Word :=
  w.timeState ++ (0 : BitVec 14) ++ w.utcOff ++ (if w.timeState == 0 then (0 : BitVec 32) else w.offset)

/-- The package time unit raises the first event it still has to raise, unless it has raised one in this cycle (R414). -/
def World.raiseTime (w : World) : World :=
  match w.timeEvents with
  | [] => w
  | st :: rest =>
    if w.timeRaised == some w.cycle then w
    else
      { w with timeEvents := rest, timeRaised := some w.cycle }.emitPackage 0 uPKGTIME tTIMESTATE (st.setWidth 32)

/-- A change of STATE emits TIME_STATE (R428). -/
def World.setTimeState (w : World) (st : BitVec 2) : World :=
  if w.timeState == st then w else { w with timeState := st, timeEvents := w.timeEvents ++ [st] }.raiseTime

/-- PTP_FRAME (R427): the state, the announced offsets; at the first lock since reset the time steps forward. -/
def World.ptpFrame (w : World) (st : BitVec 2) (time : Word) (utc : BitVec 16) (offset : BitVec 32) : World :=
  let w := { w with
    time := if st == 2 && !w.timeLocked then max w.time time.toNat else w.time
    timeLocked := w.timeLocked || st == 2
    utcOff := utc
    offset := if st == 0 then 0 else offset }
  w.setTimeState st

/-! Time triggers (R429 to R431, R437). -/

/-- The width that TSLOT holds. -/
def widthOf (v : Word) : Nat := bitsNat v 0 13

/-- The slot width that applies at an instant, in ns (R429). -/
def Eng.slotWidth (g : Eng) (t : Nat) : Nat := if t < g.slotFrom then g.slotOld else widthOf g.tslot

/-- The first multiple of `width` that is at least `t`. -/
def boundaryFrom (width t : Nat) : Nat := (t + width - 1) / width * width

/-- The first slot boundary at or after an instant: under the old width before the change, under the new one from it on. -/
def Eng.boundary (g : Eng) (t : Nat) : Nat :=
  let b := boundaryFrom g.slotOld t
  if b < g.slotFrom then b else boundaryFrom (widthOf g.tslot) (max t g.slotFrom)

/-- When a trigger is due: its target is `t` ns, the time `p` sixteenths (R431). -/
def Eng.dueOf (g : Eng) (t p : Nat) : Nat := if p ≤ 16 * t then g.boundary t else g.boundary (p / 16 + 1)

/-- A new width applies from the next boundary under the old one (R429), for the triggers armed as well. -/
def Eng.setSlot (g : Eng) (v : Word) (time : Nat) : Eng :=
  let t := time / 16
  let b := boundaryFrom (g.slotWidth t) (t + 1)
  { g with
    tslot := v, slotOld := g.slotWidth t, slotFrom := b
    triggers := g.triggers.map (fun q =>
      (q.1, if q.2.due < b then q.2 else { q.2 with due := boundaryFrom (widthOf v) (max q.2.target b) })) }

/-- Write the STATUS of a record: a release store; a refused one is dropped (log 32). -/
def World.writeStatus (w : World) (c : Nat) (k : TimeTrigger) (st : Word) : World :=
  match w.commandXlat c uTIME k.asid k.ptroot k.priv k.xoff .write (k.addr + 24) with
  | (.error _, w) => w
  | (.ok pa, w) =>
    w.releaseStore c pa (leBytes 8 st.toNat)

def stFIRED : Word := 0x8000000000000000
def stLATE : Word := 0x4000000000000000
def stCANCELLED : Word := 0x2000000000000000
def stERROR : Word := 0x1000000000000000
def stSKEW : Word := 0x0800000000000000

/-- Take a trigger off, with CANCELLED. -/
def World.cancelTrigger (w : World) (c n : Nat) : World :=
  let g := w.eng c
  match Tbl.find g.triggers n with
  | none => w
  | some k => (w.setEng c { g with triggers := g.triggers.filter (fun q => q.1 != n) }).writeStatus c k stCANCELLED

/-- The fields of a record are legal (R430, R437). -/
def tatFieldsOk (d0 d1 arg : Word) : Bool :=
  let kind := bitsNat d1 4 4
  bitsNat d0 60 4 == 0 && (kind != 0 || d0 == 0) && bitsNat d1 16 48 == 0 && kind ≤ 4 && (kind == 1 || bitsNat d1 11 5 == 0) &&
    (kind == 3 || bitsNat d1 8 3 == 0) && (if kind == 1 || kind == 3 then arg.toNat % 64 == 0 else arg == 0)

/-- Read what a record names: the payload and, for a token, its sideband doubleword. -/
def World.tatData (w : World) (c : Nat) (k : Command) (kind : Nat) (arg : Word) : Option (Payload × Word) × World :=
  if kind != 1 && kind != 3 then (some (0, 0), w)
  else
    match w.commandRead c uTIME uTIME k.asid k.ptroot k.priv k.xoff arg 64 with
    | (.error _, w) => (none, w)
    | (.ok bs, w) =>
      let d := BitVec.ofNat 512 (leNat bs)
      if kind = 3 then (some (d, 0), w)
      else
        match w.commandRead c uTIME uTIME k.asid k.ptroot k.priv k.xoff (arg + 64) 8 with
        | (.error _, w) => (none, w)
        | (.ok bs, w) => (some (d, BitVec.ofNat 64 (leNat bs)), w)

/-- Does TAT wait: its record, or the image or sideband that the record names, is to come from an empty FIFO (R277)? -/
def World.tatWaits (w : World) (c : Nat) (k : Command) : Bool :=
  let held (va : Word) : Bool := w.readWaits c uTIME k.asid k.ptroot k.priv k.xoff va
  held k.x ||
    (match w.commandRead c uTIME uTIME k.asid k.ptroot k.priv k.xoff k.x 24 with
     | (.ok bs, _) =>
       let d := wordsOf bs 3
       let kind := bitsNat (d.getD 1 0) 4 4
       tatFieldsOk (d.getD 0 0) (d.getD 1 0) (d.getD 2 0) && (kind == 1 || kind == 3) && held (d.getD 2 0)
     | (.error _, _) => false)

/-- TAT (R437). -/
def World.performTat (w : World) (c : Nat) (k : Command) : World :=
  let base : TimeTrigger := {
    addr := k.x, asid := k.asid, ptroot := k.ptroot, priv := k.priv, xoff := k.xoff, target := 0, kind := 0
    stream := 0, queue := 0, image := 0, side := 0, due := 0, late := false }
  match w.commandRead c uTIME uTIME k.asid k.ptroot k.priv k.xoff k.x 24 with
  | (.error _, w) => w.writeStatus c base stERROR
  | (.ok bs, w) =>
    let d := wordsOf bs 3
    let d0 := d.getD 0 0
    let d1 := d.getD 1 0
    let arg := d.getD 2 0
    let kind := bitsNat d1 4 4
    let n := bitsNat d1 0 4
    if !tatFieldsOk d0 d1 arg then w.writeStatus c base stERROR
    else
      match w.tatData c k kind arg with
      | (none, w) => w.writeStatus c base stERROR
      | (some (image, side), w) =>
        if kind = 1 && bitsNat side 24 40 != 0 then w.writeStatus c base stERROR
        else
          let w := w.cancelTrigger c n
          if kind = 0 then w
          else
            let g := w.eng c
            let t := bitsNat d0 0 60
            w.setEng c { g with triggers := Tbl.put g.triggers n { base with
              target := t, kind := BitVec.ofNat 4 kind, stream := d1.extractLsb' 11 5, queue := d1.extractLsb' 8 3
              image := image, side := side, due := g.dueOf t w.time, late := decide (16 * t < w.time) } }

/-- What a trigger's action comes to: done, refused with ERROR, or waiting. -/
inductive Acted where
  | done (w : World)
  | error
  | wait

/-- The action of a trigger (R430). -/
def World.actTrigger (w : World) (c n : Nat) (k : TimeTrigger) (late : Nat) : Acted :=
  let g := w.eng c
  if k.kind == 1 then
    let s := k.stream.toNat
    if (g.streamCfg s).modeOf != mCPIO || (streamLink g.cfg s).isNone then .error
    else
      match w.sendStream c s (Token.ofSideband (k.side.extractLsb' 0 24) k.image) with
      | some w => .done w
      | none => .wait
  else if k.kind == 2 then .done (w.setEng c { g with wake := true })
  else if k.kind == 3 then
    let q := g.queue k.queue.toNat
    if (g.armedRec w.cycle k.queue.toNat).isSome && q.triggers.length < 16 then
      .done (w.setEng c (g.setQueue k.queue.toNat (q.taking w.cycle k.image none)))
    else .wait
  else .done (w.raise c ⟨cTIMER, n, ⟨BitVec.ofNat 64 n, BitVec.ofNat 64 late, 0, 0⟩⟩)

/-- Is the package time in doubt for a slot width (R431)? -/
def World.skewed (w : World) (width : Nat) : Bool := w.timeState != 2 || width / 2 < w.offset.toInt.natAbs

/-- TRIGGER_FIRE: an armed trigger whose boundary has come (R431). -/
def World.fireTrigger (w : World) (c n : Nat) : World :=
  let g := w.eng c
  match Tbl.find g.triggers n with
  | none => w
  | some k =>
    if w.time < 16 * k.due then w
    else
      let lateness := min (w.time / 16 - k.target) (2 ^ 32 - 1)
      let late := k.late || decide (g.slotWidth (w.time / 16) ≤ lateness)
      let skew := w.skewed (g.slotWidth (w.time / 16))
      match w.actTrigger c n k lateness with
      | .wait => w
      | .error =>
        (w.setEng c { g with triggers := g.triggers.filter (fun q => q.1 != n) }).writeStatus c k stERROR
      | .done w =>
        let g := w.eng c
        let w := w.setEng c { g with triggers := g.triggers.filter (fun q => q.1 != n) }
        let st := stFIRED ||| (if late then stLATE else 0) ||| (if skew then stSKEW else 0) ||| BitVec.ofNat 64 lateness
        let w := w.writeStatus c k st
        let w := w.emit c uTIME tTATFIRE (BitVec.ofNat 32 (n * 2 ^ 28))
        let w := if late then
            w.emit c uTIME tTATLATE (BitVec.ofNat 32 (n * 2 ^ 28 + min lateness (2 ^ 28 - 1)))
          else w
        if skew then w.emit c uTIME tSKEW (if w.timeState == 0 then 0 else w.offset) else w

/-! Trace sinks (R416 to R419). -/

/-- Is there a place in the ring? -/
def Sink.hasPlace (s : Sink) : Bool := decide ((s.widx - s.ridx).toNat < 2 ^ s.log2n)

/-- Move one waiting event into the buffer, if it has a place. -/
def Sink.refill (s : Sink) : Sink :=
  match s.waiting with
  | [] => s
  | r :: rest => if s.buf.length < 64 then { s with buf := recInsert r s.buf, waiting := rest } else s

/-- Write one record to the ring. -/
def World.putRecord (w : World) (k : Nat) (s : Sink) (r : BitVec 128) : World :=
  let a := bitsNat s.base 12 38 * 4096 + 16 * (s.widx.toNat % 2 ^ s.log2n)
  let w := match regionOf a with
    | .dram _ => w.store a (leBytes 16 r.toNat)
    | _ => w
  w.setSink k ({ s with widx := s.widx + 1 }.refill)

/-- The least record of a context, and the context without it: the head of its buffer, unless an event still waiting at its
source is before it in the order of the ring (R422). -/
def Sink.next (s : Sink) : Option (BitVec 128 × Sink) :=
  match s.buf, s.waiting with
  | r :: rest, q :: more =>
    if recKey q < recKey r then some (q, { s with waiting := more }) else some (r, { s with buf := rest })
  | r :: rest, [] => some (r, { s with buf := rest })
  | [], q :: more => some (q, { s with waiting := more })
  | [], [] => none

/-- Does a MARK still to be raised belong before a record of a context: a TMARK of a core that it serves has taken an
earlier time (R422, R434)? -/
def World.markBefore (w : World) (die k : Nat) (r : BitVec 128) : Bool :=
  (List.range 24).any (fun i =>
    let c := 24 * die + i
    match (w.eng c).marking with
    | some (m, false) => w.contextOf c == some k && !w.filtered c tMARK && m * 65536 + sourceOf c uCP < recKey r
    | _ => false)

/-- May a record be written: no event before it in the order of the ring can still be raised (R422)? -/
def World.recordReady (w : World) (die k : Nat) (r : BitVec 128) : Bool :=
  (r.extractLsb' 64 64).toNat < w.time && !w.markBefore die k r

/-- SINK_RECORD_WRITE: in its context's cycle, the next record; first one that counts the events discarded; a lossy context
whose ring is full discards the event at the head of its buffer. -/
def World.recordWrite (w : World) (die x : Nat) : World :=
  let k := sinkKey die x
  let s := w.sink k
  if !s.en || w.cycle % 8 != x then w
  else
    match s.next with
    | none => w
    | some (r, rest) =>
      if !w.recordReady die k r then w
      else if s.hasPlace then
        if s.lost != 0 then
          w.putRecord k { s with lost := 0 } (traceRecord w.time tSINKLOST (BitVec.ofNat 2 die) 31 (BitVec.ofNat 9 uSINK) 0
            (BitVec.ofNat 32 (min s.lost (2 ^ 32 - 1))))
        else w.putRecord k rest r
      else if s.lossless then w
      else w.setSink k (rest.drop.refill)

/-! A stall by the trace fabric (R420, R425). -/

/-- The control processor's watchdog does not count a cycle in which it is stalled. -/
def Cp.stalled (c : Cp) (n : Nat) : Cp := { c with wdogStart := c.wdogStart + n }

/-- The stall watchdog of a vat does not count a cycle in which some of its units are stalled; its branch counters do not
either (R398, World.vatHeld). -/
def Eng.stalled (g : Eng) (units : List Nat) : Eng :=
  { g with
    vats := g.vats.map (fun q =>
      (q.1, if units.any (fun u => g.unitOfVat u q.1) then { q.2 with lastFire := q.2.lastFire + 1 } else q.2)) }

/-- A full lossless ring of the die that holds an event of core `c` back. -/
def World.fullRing (w : World) (c : Nat) : Option Nat :=
  ((List.range 8).map (sinkKey (c / 24))).find? (fun k =>
    let x := w.sink k
    x.en && x.lossless && !x.hasPlace && (x.buf ++ x.waiting).any (fun r => sourceCore (recSource r).toNat = c))

/-- Does a context still hold a source up by its full queue? -/
def World.holds (w : World) (k src : Nat) : Bool :=
  let x := w.sink k
  x.en && x.lossless && 4 ≤ (x.waiting.filter (fun r => (recSource r).toNat = src)).length

/-- The sources that the trace fabric holds up in a cycle: those whose queues are still full, and the control processors in a
TMARK that waits for a full lossless ring (R434). -/
def World.stillHeld (w : World) : Tbl Nat :=
  w.engs.foldl (fun t q =>
    match q.2.marking, w.fullRing q.1 with
    | some _, some k => Tbl.put t (sourceOf q.1 uCP) k
    | _, _ => t) (w.held.filter (fun q => w.holds q.2 q.1))

/-- A context counts a cycle in which it holds sources up. -/
def World.countStall (w : World) (k : Nat) : World :=
  w.setSink k { w.sink k with stalls := satInc (w.sink k).stalls }

/-- The units of a core that are held up. -/
def World.heldUnits (w : World) (c : Nat) : List Nat :=
  (w.held.filter (fun q => sourceCore q.1 = c)).map (fun q => q.1 % 512)

/-- A cycle passes for the sources that the trace fabric holds up: each context that holds some up counts it, once, and the
watchdogs of the sources do not (R416, R425). -/
def State.holdAll (s : State) : State :=
  let w := { s.w with held := s.w.stillHeld }
  let w := ((w.held.map (·.2)).eraseDups).foldl World.countStall w
  let cores := (w.held.map (fun q => sourceCore q.1)).eraseDups
  let w := cores.foldl (fun w c => w.setEng c ((w.eng c).stalled (w.heldUnits c))) w
  { s with
    w := w
    cps := (cores.filter (fun c => (w.heldUnits c).contains uCP)).foldl (fun t c =>
      Tbl.put t c ((cpOf t c).stalled 1)) s.cps }

/-! The events. -/

/-- PTP_FRAME (R427). -/
def execPtpFrame (state : BitVec 2) (time : BitVec 64) (utc : BitVec 16) (offset : BitVec 32) (s : State) :
    Host.Outcome State Fault Refusal :=
  s.onWorld (fun w => w.ptpFrame state time utc offset)

/-- PPS_INPUT (R427): the time of the last edge at the input. -/
def execPpsInput (s : State) : Host.Outcome State Fault Refusal := s.onWorld (fun w => { w with ppsIn := w.time })

/-- The second of package time that an instant is within 5 ns of (R452). -/
def secondNear (time : Nat) : Option Nat :=
  let n := (time + 80) / 16000000000
  if (time + 80) % 16000000000 ≤ 160 then some n else none

/-- PPS_OUTPUT (R452): one edge for each second of package time, within 5 ns of it. -/
def execPpsOutput (s : State) : Host.Outcome State Fault Refusal :=
  s.onWorld (fun w =>
    match secondNear w.time with
    | some n => if w.ppsOut < n then { w with ppsOut := n } else w
    | none => w)

/-- HOLDOVER (R428): the grandmaster is lost. -/
def execHoldover (s : State) : Host.Outcome State Fault Refusal :=
  s.onWorld (fun w => if w.timeState == 2 then w.setTimeState 3 else w)

/-- TRIGGER_FIRE (R431). -/
def execTriggerFire (n : BitVec 4) (s : State) : Host.Outcome State Fault Refusal :=
  s.onWorld (fun w => w.fireTrigger s.cur n.toNat)

/-- SINK_RECORD_WRITE (R418). -/
def execSinkRecordWrite (die : BitVec 2) (x : BitVec 3) (s : State) : Host.Outcome State Fault Refusal :=
  s.onWorld (fun w => w.recordWrite die.toNat x.toNat)

end Sys2Proof.Machine
end

