-- ==== Sys2Proof/Machine/StreamCmd.lean ====
section
/-! DEFINITION. The stream and copy commands as they are performed (R285, R291 to R297), the walker and the retries
(R301, R303), the events of streams and copies. -/

namespace Sys2Proof.Machine

/-- A command ends with reason COMMAND: its stream keeps its state (R302). -/
def World.commandError (w : World) (c s : Nat) (t0 : Word) (k : Command) : World :=
  (w.setStream c s { w.stream c s with reason := rCOMMAND }).streamXlate c t0 ⟨rCOMMAND, 0⟩ false false s k.asid

/-! SDEF (R292). -/

/-- What reading a descriptor comes to: the configuration if it is accepted, a refusal at an address, or an error. -/
inductive SdefRead where
  | ok (cfg : StreamCfg)
  | refused (va : Word) (r : Refused)
  | bad

/-- The configuration after a legal word for stream `s`. -/
def StreamCfg.sdefWord (cfg : StreamCfg) (s : Nat) (x : BitVec 32) : Option StreamCfg :=
  let f := cfgField x
  if cfgAddr x = addrStream s && f.toNat / 32 = s % 2 then
    let c := cfg.apply (f.toNat % 32) f (cfgValue x)
    if c.blocked.isNone then some c else none
  else none

/-- Read the words of a descriptor up to END: `n` of them so far. -/
def World.sdefWords (c s : Nat) (k : Command) : Nat → Nat → StreamCfg → World → SdefRead × World
  | 0, _, _, w => (.bad, w)
  | fuel + 1, n, cfg, w =>
    let va := k.x + BitVec.ofNat 64 (4 * n)
    match w.commandRead c (addrStream s) (addrStream s) k.asid k.ptroot false false va 4 with
    | (.error r, w) => (.refused va r, w)
    | (.ok bs, w) =>
      let x := BitVec.ofNat 32 (leNat bs)
      if cfgAddr x = 0x3FD then
        if cfgField x == 0 && (cfgValue x).toNat = n && (cfg.fault (32 * (s % 2))).isNone then (.ok cfg, w) else (.bad, w)
      else
        match cfg.sdefWord s x with
        | some cfg' => w.sdefWords c s k fuel (n + 1) cfg'
        | none => (.bad, w)

/-- A stream as SDEF leaves it: IDLE, under the address space in force; the copies it has fired run on. -/
def Stream.sdefined (x : Stream) (k : Command) : Stream :=
  { Stream.reset with
    reason := x.reason, errcnt := x.errcnt, posted := x.posted, defined := true, asid := k.asid, ptroot := k.ptroot
    orders := x.orders, fired := x.fired, eos := x.eos }

/-- SDEF: done, or waiting. -/
def World.performSdef (w : World) (c s : Nat) (k : Command) : Option World :=
  if (w.stream c s).busy then none
  else
    let old := (w.eng c).streamCfg s
    match w.sdefWords c s k 65 0 { old with blocked := none } with
    | (.refused va r, w) => some (w.streamXlate c va r false false s k.asid)
    | (.bad, w) => some (w.commandError c s k.x k)
    | (.ok cfg, w) =>
      let g := w.eng c
      let g := { g with agActive := Tbl.put g.agActive s { cfg with blocked := old.blocked } }
      some (w.setEng c (g.setStream s ((g.stream s).sdefined k)))

/-! SGO (R293, R312, R319). -/

/-- Does the generator of a stream belong to the active plane of some slot? -/
def Eng.inSomePlane (g : Eng) (a : Nat) : Bool := (List.range 8).any (fun v => (g.vat v).has a)

/-- Does SGO end with reason COMMAND? -/
def Eng.sgoBad (g : Eng) (s : Nat) (k : Command) : Bool :=
  let cfg := g.streamCfg s
  let m := cfg.modeOf
  let d := g.hash.keyLen cfg.head
  k.y.extractLsb' 32 32 != 0 || m == mCPIO || m == mCOPY ||
    ((m == mKEYST || m == mBGATH) && (k.x.toNat % 64 != 0 || d = 0)) ||
    (m == mBGATH && cfg.recStride < keyTokens d cfg.qfmt + 1) ||
    !(g.inSomePlane (addrStream s) || (g.stream s).defined)

/-- A stream as SGO starts it (R281 to R285). -/
def Stream.started (x : Stream) (k : Command) : Stream :=
  { Stream.reset with
    state := .running, reason := x.reason, errcnt := x.errcnt, defined := x.defined, asid := x.asid, ptroot := x.ptroot
    entry := x.entry, base := k.x, count := (k.y.extractLsb' 0 32).toNat, fired := x.fired }

/-- SGO: done, or waiting; `hashed` says that every earlier command to the key unit has been performed (R322). -/
def World.performSgo (w : World) (c s : Nat) (hashed : Bool) (k : Command) : Option World :=
  let g := w.eng c
  let x := g.stream s
  let m := (g.streamCfg s).modeOf
  if x.busy || ((m == mKEYST || m == mBGATH) && !hashed) then none
  else if g.sgoBad s k then some (w.commandError c s (if k.y.extractLsb' 32 32 != 0 then k.y else k.x) k)
  else
    let w := if g.hash.inserting == some s then w.setInserting c none else w
    some (w.setStream c s (x.started k))

/-! TOK (R294). -/

/-- TOK: done, or waiting for its stream or for a slot. An image whose R bit is set releases at the OPORT scope first: the stores
of the processor are performed there, those that follow TOK among them (R294). -/
def World.performTok (w : World) (c s : Nat) (k : Command) : Option World :=
  if (w.stream c s).busy || w.readWaits c (addrStream s) k.asid k.ptroot false false k.x then none
  else
    match w.commandRead c (addrStream s) (addrStream s) k.asid k.ptroot false false k.x 64 with
    | (.error r, w) => some (w.streamXlate c k.x r false false s k.asid)
    | (.ok bs, w) =>
      match w.commandRead c (addrStream s) (addrStream s) k.asid k.ptroot false false (k.x + 64) 8 with
      | (.error r, w) => some (w.streamXlate c (k.x + 64) r false false s k.asid)
      | (.ok sb, w) =>
        let side : Word := BitVec.ofNat 64 (leNat sb)
        if side.extractLsb' 24 40 != 0 || !(w.eng c).hasOutput s then some (w.commandError c s k.x k)
        else
          let t := Token.ofSideband (side.extractLsb' 0 24) (BitVec.ofNat 512 (leNat bs))
          let scope := (((w.eng c).streamCfg s).oport).extractLsb' 14 2
          (if t.r then w.releaseAt c scope else w).sendStream c s t

/-! Copies (R296, R297). -/

/-- CPY: done, or waiting for a place. -/
def World.performCpy (w : World) (c : Nat) (k : Command) : Option World :=
  match (w.eng c).freePlace with
  | none => none
  | some p =>
    if w.readWaits c uCOPY k.asid k.ptroot false false k.x then none
    else
    let (r, w) := w.readRecord c k.asid k.ptroot k.x
    let plain := r.sl = 31 && r.dl = 31 && r.ll = 31 && !r.dch
    some (w.placeCopy c p { r with ok := r.ok && plain } none)

/-- QARM: the slot is loaded and the queue armed; an invalid record leaves the queue disarmed, and its report names no
stream: WHO is a free value (log 10). -/
def World.performQarm (w : World) (c t q : Nat) (k : Command) : Option World :=
  if w.readWaits c uCOPY k.asid k.ptroot false false k.x then none
  else
    let (r, w) := w.readRecord c k.asid k.ptroot k.x
    let ok := w.recordOk c r
    let g := w.eng c
    if ok then
      let g' := g.armQueue w.cycle q (some t)
      some (w.setEng c { g' with templates := Tbl.put g'.templates t r })
    else
      let (who, w) := (w.setEng c (g.armQueue w.cycle q none)).fresh
      let t1 := xlateInfo 0 rCOMMAND false false (who.extractLsb' 0 6).toNat
      some ((w.raise c ⟨cSTREAMXLATE, 128, ⟨k.x, t1, k.asid.setWidth 64, 0⟩⟩).emit c uCOPY tSTREAMFAULT
        (t1.setWidth 32))

/-- QDIS. -/
def World.performQdis (w : World) (c q : Nat) : World :=
  w.setEng c ((w.eng c).armQueue w.cycle q none)

/-! The walker (R301). -/

/-- A refused walk faults its requester, or waits to be taken by the control processor or the unit that asked for it. -/
def World.faultWalk (w : World) (c : Nat) (k : Walk) (r : Refused) : World :=
  match k.who with
  | .stream s => w.faultStream c s r k.access.writes k.va
  | .copySrc p | .copyDst p =>
    match (w.eng c).copy p with
    | some x => w.faultCopy c p x r k.access.writes k.va
    | none => w
  | .node n => w.faultNode c n r k.va k.asid
  | .cp | .unit _ =>
    let g := w.eng c
    w.setEng c { g with walks := g.walks ++ [{ k with refused := some r }] }

/-- Walks that run at once (R301). -/
def walksAtOnce : Nat := 16

/-- Has a TLBI named, while a walk ran, the page that it has come to (R360)? A refused walk is of a 64 KiB page. -/
def Walk.discarded (k : Walk) (t : TlbEntry) : Bool := k.named.any (fun n => n.names t)

/-- The page of a walk that has come to no leaf. -/
def Walk.page (k : Walk) : TlbEntry := tlbOfLeaf 0 0 16 k.va.toNat k.asid

/-- A running walk reads its next entry: it goes on, ends with a translation, or is refused. The result of one whose page a
TLBI has named is discarded, and its requester asks again (R360). -/
def World.advanceWalk (c : Nat) (w : World) (k : Walk) : World :=
  let g := w.eng c
  let ended : World := w.setEng c { g with walks := g.walks.erase k }
  match walkStep w.mem k.asid k.va.toNat k.level k.base with
  | .table b =>
    w.setEng c { g with walks := g.walks.map (fun x => if x = k then { k with level := k.level + 1, base := b } else x) }
  | .refused r => if k.discarded k.page then ended else ended.faultWalk c k r
  | .leaf t =>
    if k.discarded t then ended
    else
      match t.use g.node k.priv k.access k.va.toNat with
      | .error r => ended.faultWalk c k r
      | .ok _ => ended.setEng c ((ended.eng c).cacheTlb t)

/-- PAGE_WALK: the walks that run, the oldest 16, read one entry each. -/
def World.pageWalk (w : World) (c : Nat) : World := (((w.eng c).walks.filter Walk.live).take walksAtOnce).foldl (World.advanceWalk c) w

/-! Retries (R303). -/

/-- Ask for a fresh walk for a refused access. -/
def Eng.freshWalk (g : Eng) (who : Walker) (asid : BitVec 16) (ptroot : Word) (r : Option RefusedAccess) (now : Nat) :
    Eng :=
  match r with
  | some a =>
    if bitsNat a.va 56 8 = 0 then g.askWalk (.asked who asid ptroot a.va false (if a.write then .write else .read) now) else g
  | none => g

/-- Retry a stream's refused access: whether it is FAULTED, and the world after. -/
def World.retryStream (w : World) (c s : Nat) : Option World :=
  let g := w.eng c
  let x := g.stream s
  if x.state == .faulted then
    let g := g.freshWalk (.stream s) x.asid x.ptroot x.refused w.cycle
    some (w.setEng c (g.setStream s { x with state := .running, refused := none, entry := none }))
  else none

/-- Retry a copy's refused access. -/
def World.retryCopy (w : World) (c p : Nat) : Option World :=
  let g := w.eng c
  match g.copy p with
  | none => none
  | some x =>
    if x.state == .faulted then
      let write := match x.refused with | some a => a.write | none => false
      let g := g.freshWalk (if write then .copyDst p else .copySrc p) x.crec.asid x.crec.ptroot x.refused w.cycle
      let x := { x with state := .running, refused := none }
      some (w.setEng c (g.setCopy p (if write then { x with dstEntry := none } else { x with srcEntry := none })))
    else none

/-- Retry a matrix node's refused store (R391). -/
def World.retryNode (w : World) (c n : Nat) : Option World :=
  let g := w.eng c
  let x := g.mxn n
  if x.state == .faulted then
    let (asid, root) := match g.vatOf (addrMatrix n) with
      | some v => ((g.vat v).asid, (g.vat v).ptroot)
      | none => (0, 0)
    let g := g.freshWalk (.node n) asid root x.refused w.cycle
    some (w.setEng c (g.setNode n { x with state := .running, refused := none, entry := none }))
  else none

/-! The events. -/

/-- STREAM_READ_TOKEN (R283). -/
def execStreamReadToken (k : BitVec 5) (s : State) : Host.Outcome State Fault Refusal :=
  s.onWorld (fun w => w.readEvent s.cur k.toNat)

/-- STREAM_WRITE_TOKEN (R284). -/
def execStreamWriteToken (k : BitVec 5) (s : State) : Host.Outcome State Fault Refusal :=
  s.onWorld (fun w => w.writeEvent s.cur k.toNat)

/-- GATHER_TOKEN (R284). -/
def execGatherToken (k : BitVec 5) (s : State) : Host.Outcome State Fault Refusal :=
  s.onWorld (fun w => w.gatherEvent s.cur k.toNat)

/-- SCATTER_TOKEN (R284). -/
def execScatterToken (k : BitVec 5) (s : State) : Host.Outcome State Fault Refusal :=
  s.onWorld (fun w => w.scatterEvent s.cur k.toNat)

/-- COPY_FIRE (R289). -/
def execCopyFire (q : BitVec 3) (s : State) : Host.Outcome State Fault Refusal :=
  s.onWorld (fun w => w.copyFire s.cur q.toNat)

/-- COPY_BEAT (R287). -/
def execCopyBeat (p : BitVec 6) (s : State) : Host.Outcome State Fault Refusal :=
  s.onWorld (fun w => w.copyBeat s.cur p.toNat)

/-- COPY_COMPLETE (R288). -/
def execCopyComplete (p : BitVec 6) (s : State) : Host.Outcome State Fault Refusal :=
  s.onWorld (fun w => w.copyComplete s.cur p.toNat)

/-- KEYST_KEY (R312). -/
def execKeystKey (k : BitVec 5) (s : State) : Host.Outcome State Fault Refusal :=
  s.onWorld (fun w => w.keystEvent s.cur k.toNat)

/-- BGATH_QUERY (R319). -/
def execBgathQuery (k : BitVec 5) (s : State) : Host.Outcome State Fault Refusal :=
  s.onWorld (fun w => w.bgathEvent s.cur k.toNat)

/-- PAGE_WALK (R301). -/
def execPageWalk (s : State) : Host.Outcome State Fault Refusal := s.onWorld (fun w => w.pageWalk s.cur)

end Sys2Proof.Machine
end

