-- ==== Sys2Proof/Machine/Sregs.lean ====
section
/-! DEFINITION. The special registers: their views, their reads and their writes (R84, R103, R133 to R140, R352, R361,
R403, R429). -/

namespace Sys2Proof.Machine

/-- A register's view (R133). -/
inductive SrView where
  | absent | r | rw
deriving DecidableEq, Repr

/-- The view of register `n` in a mode; `lock` is PLOCK of the core (R134, R403). -/
def srView (priv lock : Bool) (n : Nat) : SrView :=
  if n = 0x000 || n = 0x002 || n = 0x003 || n = 0x005 || n = 0x006 || n = 0x009 then (if priv then .rw else .r)
  else if n = 0x001 || n = 0x007 || n = 0x008 then .r
  else if n = 0x004 then .rw
  else if n = 0x022 || n = 0x023 then (if priv && !lock then .rw else .r)
  else if (0x010 ≤ n && n ≤ 0x017) || n = 0x020 || n = 0x021 || n = 0x024 then (if priv then .rw else .absent)
  else if 0x100 ≤ n && n ≤ 0x1FF then (if !priv then .absent else if lock then .r else .rw)
  else .absent

/-- What a register of core `c` holds, at this cycle. -/
def State.srRead (s : State) (c n : Nat) : Word :=
  let p := cpOf s.cps c
  let g := s.w.eng c
  if n = 0x000 then cpid g.node c
  else if n = 0x001 then revid
  else if n = 0x002 then p.mstat
  else if n = 0x003 then p.nbv
  else if n = 0x004 then p.curdctl
  else if n = 0x005 then p.cycleAt s.w.cycle
  else if n = 0x006 then p.retired
  else if n = 0x007 then p.unitid.setWidth 64
  else if n = 0x008 then p.joblpb
  else if n = 0x009 then g.tslot
  else if n = 0x010 then p.tvb
  else if n = 0x011 then p.tcause
  else if n = 0x012 then p.tepc
  else if n = 0x013 then p.tinfo.t0
  else if n = 0x014 then p.tinfo.t1
  else if n = 0x015 then p.tinfo.t2
  else if n = 0x016 then p.tinfo.t3
  else if n = 0x017 then p.tscratch
  else if n = 0x020 then p.asid.setWidth 64
  else if n = 0x021 then p.ptroot
  else if n = 0x022 then g.partid.setWidth 64
  else if n = 0x023 then g.tenant.setWidth 64
  else if n = 0x024 then p.wdogWord s.w.cycle
  else if 0x100 ≤ n && n ≤ 0x1FF then Tbl.get g.tfilt 0 (n - 0x100)
  else 0

/-- Is a value one that a write of register `n` of core `c` may hold: no reserved bit set, no reserved value (R14, R84,
R103, R135, R137, R138, R352, R429)? -/
def State.srLegal (s : State) (c n : Nat) (v : Word) : Bool :=
  if n = 0x000 then v.extractLsb' 0 50 == (s.srRead c 0).extractLsb' 0 50
  else if n = 0x002 then v.extractLsb' 5 59 == 0
  else if n = 0x003 then v.extractLsb' 2 62 == 0 && v != 0
  else if n = 0x004 then v.extractLsb' 1 63 == 0
  else if n = 0x009 then v.extractLsb' 13 51 == 0 && 8 ≤ widthOf v && widthOf v ≤ 4096 && widthOf v % 8 = 0
  else if n = 0x010 then v.extractLsb' 0 12 == 0
  else if n = 0x011 then v.extractLsb' 8 55 == 0
  else if n = 0x012 then v.extractLsb' 0 2 == 0
  else if n = 0x020 || n = 0x022 then v.extractLsb' 16 48 == 0
  else if n = 0x021 then v.extractLsb' 0 13 == 0 && v.extractLsb' 50 14 == 0
  else if n = 0x023 then v.extractLsb' 8 56 == 0
  else true

/-- Write a register of core `c` with a legal value. -/
def State.srWrite (s : State) (c n : Nat) (v : Word) : State :=
  let p := cpOf s.cps c
  let g := s.w.eng c
  let cp (p : Cp) : State := { s with cps := Tbl.put s.cps c p }
  let eng (g : Eng) : State := s.withWorld (s.w.setEng c g)
  if n = 0x000 then eng { g with node := v.extractLsb' 50 14 }
  else if n = 0x002 then cp { p with mstat := v }
  else if n = 0x003 then cp { p with nbv := v }
  else if n = 0x004 then cp { p with curdctl := v }
  else if n = 0x005 then cp { p with cycleOff := v - BitVec.ofNat 64 s.w.cycle }
  else if n = 0x006 then cp { p with retired := v }
  else if n = 0x009 then eng (g.setSlot v s.w.time)
  else if n = 0x010 then cp { p with tvb := v }
  else if n = 0x011 then cp { p with tcause := v }
  else if n = 0x012 then cp { p with tepc := v }
  else if n = 0x013 then cp { p with tinfo := { p.tinfo with t0 := v } }
  else if n = 0x014 then cp { p with tinfo := { p.tinfo with t1 := v } }
  else if n = 0x015 then cp { p with tinfo := { p.tinfo with t2 := v } }
  else if n = 0x016 then cp { p with tinfo := { p.tinfo with t3 := v } }
  else if n = 0x017 then cp { p with tscratch := v }
  else if n = 0x020 then cp { p with asid := v.extractLsb' 0 16 }
  else if n = 0x021 then cp { p with ptroot := v }
  else if n = 0x022 then eng (g.setPart s.w.cycle (v.extractLsb' 0 16))
  else if n = 0x023 then eng { g with tenant := v.extractLsb' 0 8 }
  else if n = 0x024 then cp { p with wdogLimit := v.extractLsb' 0 32, wdogStart := s.w.cycle }
  else if 0x100 ≤ n && n ≤ 0x1FF then eng (g.setMasks s.w.cycle (Tbl.put g.tfilt (n - 0x100) v) g.jmask)
  else s

/-- PLOCK of a core. -/
def Eng.locked (g : Eng) : Bool := g.plock.getLsbD 0

/-- SRR (R133, R361). -/
def execSrr (d : Reg) (r : BitVec 12) (s : State) : Host.Outcome State Fault Refusal :=
  .next (match srView s.cp.prv s.eng.locked r.toNat with
    | .absent => s.trap (trapPriv (.srr d r))
    | .r | .rw => s.finish d (s.srRead s.cur r.toNat))

/-- Has the window written a register in this cycle? Its value is then the final one (R141). -/
def State.windowFirst (s : State) (n : Nat) : Bool := s.cp.winAt == s.w.cycle && s.cp.winSrs.contains n

/-- The mode that an SRW to register `n` is judged in: the one before a window write of its cycle (R141). -/
def State.srwPrv (s : State) (n : Nat) : Bool := if s.windowFirst n then s.cp.winPrv else s.cp.prv

/-- An SRW behind a window write of its register in the same cycle: it has completed before it, so that the window's value
stands, in RETIRED too, whatever the SRW counted (R141). -/
def State.srwBefore (s : State) (n : Nat) : State :=
  if n = 0x006 then s.withCp { s.cp.advance with retired := s.cp.retired } else s.done

/-- SRW (R133, R361). An SRW to RETIRED counts itself after its write, so that RETIRED then reads one more than the value
written: the model's choice (R140, log 26). -/
def execSrw (a : Reg) (r : BitVec 12) (s : State) : Host.Outcome State Fault Refusal :=
  .next (match srView (s.srwPrv r.toNat) s.eng.locked r.toNat with
    | .absent | .r => s.trap (trapPriv (.srw a r))
    | .rw =>
      if s.srLegal s.cur r.toNat (s.reg a) then
        (if s.windowFirst r.toNat then s.srwBefore r.toNat else (s.srWrite s.cur r.toNat (s.reg a)).done)
      else s.trap (trapIllegal (.srw a r)))

/-- A command of this moment: its operand values and the address space in force. -/
def State.commandOf (s : State) (i : Instr) (x y : Word) : Command where
  instr := i
  x := x
  y := y
  asid := s.cp.asid
  ptroot := s.cp.ptroot
  priv := s.cp.prv
  xoff := s.cp.xoff

end Sys2Proof.Machine
end

