-- ==== Sys2Proof/Machine/Image.lean ====
section
/-! DEFINITION. The bytes of a press image (R366): its head and its records. Where R366 names the content of a record and no
byte layout, the bytes are free (log 13). -/

namespace Sys2Proof.Machine

/-- Does a press reach a unit: does it belong to a covered vat? -/
def Eng.covers (g : Eng) (covered : List Nat) (a : Nat) : Bool := covered.any (fun v => (g.vat v).state.live && (g.vat v).has a)

/-- Does a press reach a stream: in a covered vat, or running outside any? -/
def Eng.coversStream (g : Eng) (covered : List Nat) (s : Nat) : Bool :=
  g.covers covered (addrStream s) || (g.stream s).busy

/-! The head. -/

/-- Status DONE of a press (R365). -/
def psDONE : Nat := 0

/-- The doubleword at offset 16 of an image of core `c`. -/
def imageIdent (c : Nat) : Nat := 3 * 2 ^ 24 + 1 * 2 ^ 16 + c

/-- The bytes of an image from offset 8 on that the press writes: LEN, identification, status, zeros. -/
def imageHead (c len : Nat) : List Byte :=
  leBytes 8 len ++ leBytes 8 (imageIdent c) ++ leBytes 8 psDONE ++ List.replicate 32 0

/-- Offset of the records. -/
def imageRecords : Nat := 576

/-! Records. -/

/-- A record: its header of TYPE, INDEX and LEN, and its body. -/
def imageRecord (type index : Nat) (body : List Byte) : List Byte :=
  leBytes 8 (type * 2 ^ 56 + index * 2 ^ 32 + (8 + body.length)) ++ body

/-- The part of a record of the n-th image whose layout the spec leaves open. -/
def freeBody (n type index : Nat) : List Byte :=
  (List.range (8 * (Config.imageWords n type index).toNat)).map (Config.imageByte n type index)

/-- A kept command: the instruction word, in a doubleword, and its operand values (log 13). -/
def commandBytes (k : Command) : List Byte :=
  leBytes 8 ((encode k.instr).getD 0).toNat ++ leBytes 8 k.x.toNat ++ leBytes 8 k.y.toNat

/-- A buffer: a payload and the doubleword of its sideband. -/
def bufferBytes (t : Token) : List Byte := leBytes 64 t.data.toNat ++ leBytes 8 t.sideband.toNat

/-- The tokens that wait at the input ports of an element, each with its bit of the occupancy bitmap: the tokens of a port
take its slots in tag order (log 13). -/
def Eng.poolBuffers (g : Eng) (e : Nat) : List (Nat × Token) :=
  ((List.range 8).map (fun p =>
    ((((List.range 8).map (fun t => (g.pool (.grid e p t)).toks)).flatten.take 16).zipIdx).map (fun q =>
      (16 * p + q.2, q.1)))).flatten

/-- The tokens that the stages of an element hold, each with its bit: results held for stage `k`, then converted tokens
that it sent and that wait in a router (log 13). -/
def Elem.placeBuffers (x : Elem) : List (Nat × Token) :=
  ((List.range 6).map (fun k =>
    let held := ((x.stage k).inq.map (fun q => q.2.map (·.2))).flatten
    let sent := ((x.outs.filter (fun o => o.2.stage = k)).map (fun o => o.2.waiting)).flatten
    (((held ++ sent).take 64).zipIdx).map (fun q => (128 + 64 * k + q.2, q.1)))).flatten

/-- A bitmap with some bits set. -/
def bitmap (bits : List Nat) : Nat := (bits.map (fun b => 2 ^ b)).sum

/-- The written lines of a memory element, in order. -/
def Elem.lineList (x : Elem) : List Nat := (List.range 1024).filter x.lines.contains

/-- The bytes of an element's record behind its header (TYPE 3). -/
def World.elemBody (w : World) (c n e : Nat) : List Byte :=
  let g := w.eng c
  let x := g.elem e
  let bs := g.poolBuffers e ++ x.placeBuffers
  let lines := x.lineList
  leBytes 64 (bitmap (bs.map (·.1))) ++ freeBody n 3 e ++ (bs.map (fun b => bufferBytes b.2)).flatten ++
    (if isCe (BitVec.ofNat 7 e) then []
     else leBytes 128 (bitmap lines) ++ (lines.map (fun l => memBytes w.mem (bankBase c e + 64 * l) 64)).flatten)

/-- Is accumulator `j` of a node in use: a running section works in it, or outputs of it are still to send (log 28)? -/
def MxNode.inUse (x : MxNode) (cfg : MxCfg) (j : Nat) : Bool :=
  ((x.state == .running || x.state == .faulted) && !x.finished && cfg.accOf x.tile == j) ||
    x.outs.any (fun o => cfg.accOf o.tile == j)

/-- Has accumulator `j` of a node a record? -/
def MxNode.recorded (x : MxNode) (cfg : MxCfg) (j : Nat) : Bool :=
  x.inUse cfg j || (x.tiles.toList.getD j MxTile.reset).dirty

/-- The bytes of an accumulator's record (TYPE 7): its values row by row, six bytes each (R72), its flag word, the tag of the
node's weight buffer (R383). -/
def MxNode.tileBody (x : MxNode) (j : Nat) : List Byte :=
  let t := x.tiles.toList.getD j MxTile.reset
  ((List.range 16384).map (fun i => leBytes 6 (Tbl.get t.vals 0 i).toNat)).flatten ++ leBytes 8 t.flagWord.toNat ++
    leBytes 8 x.tag.toNat

/-- The records of the n-th image of the package, which a press writes on core `c`. -/
def World.imageBody (w : World) (c n : Nat) (covered : List Nat) : List Byte :=
  let g := w.eng c
  let free (type index : Nat) : List Byte := imageRecord type index (freeBody n type index)
  let all (f : Nat → List Byte) (is : List Nat) : List Byte := (is.map f).flatten
  imageRecord 1 0 (g.commands.map commandBytes).flatten ++
    all (free 2) (List.range 8) ++
    all (fun e => imageRecord 3 e (w.elemBody c n e)) ((List.range 128).filter (g.covers covered)) ++
    all (free 4) ((List.range 32).filter (g.coversStream covered)) ++
    free 5 0 ++
    all (free 6) ((List.range 64).filter (fun i => (g.curd i).declared)) ++
    all (fun i => if (g.mxn (i / 4)).recorded (g.mxCfg (i / 4)) (i % 4) then
      imageRecord 7 i ((g.mxn (i / 4)).tileBody (i % 4)) else [])
      ((List.range 16).filter (fun i => i % 4 < 2 && g.covers covered (addrMatrix (i / 4)))) ++
    free 8 0 ++ free 9 0 ++ free 10 0 ++ imageRecord 0 0 []

end Sys2Proof.Machine
end

