-- ==== Sys2Proof/Machine/Press.lean ====
section
/-! DEFINITION. Presses: their beginning, the saving of units, the image, the status, the restore (R107, R362 to R369). -/

namespace Sys2Proof.Machine

/-! Status (R365). -/

def psVATBLK : Nat := 1
def psIMAGE : Nat := 2
def psBUSY : Nat := 3
def psFORMAT : Nat := 4
def psCONFIG : Nat := 5

/-! The units of a core as nodes of its links. -/

def keyStream (s : Nat) : Nat := 0x100 + s
def keyMatrix (n : Nat) : Nat := 0x200 + n
def keyEdge (p : Nat) : Nat := 0x210 + p

def Endpoint.unitKey : Endpoint → Nat
  | .grid e _ _ => e
  | .stream s _ => keyStream s
  | .matrix n _ => keyMatrix n
  | .edge p => keyEdge p

/-- Where the outputs of a unit lead. -/
def Eng.outputs (g : Eng) (k : Nat) : List Nat :=
  let one (l : Option (Endpoint × Nat)) : List Nat := (l.map (fun q => q.1.unitKey)).toList
  if k < 0x100 then ((List.range 8).map (fun p => one (linkOf g.cfg k p))).flatten
  else if k < 0x200 then one (streamLink g.cfg (k - 0x100))
  else if k < 0x210 then one (matrixLink g.cfg (k - 0x200))
  else one (edgeLink g.cfg (k - 0x210))

/-- Has a stage of an element a source: CONST, or COUNT with no token operand (R363)? -/
def ElemCfg.sources (c : ElemCfg) : Bool :=
  c.stages.toList.any (fun s => s.phases.toList.any (fun p =>
    p.stageOp == some .const || (p.stageOp == some .count && !p.takesToken)))

/-- Is a stream mode a source? -/
def pressSource (m : BitVec 3) : Bool := m == mREAD || m == mCPIO || m == mBGATH

/-- All units reached from some, by their links. -/
def Eng.reached (g : Eng) : Nat → List Nat → List Nat → List Nat
  | 0, _, seen => seen
  | fuel + 1, front, seen =>
    match front with
    | [] => seen
    | k :: rest =>
      let new := ((g.outputs k).filter (fun j => !seen.contains j)).eraseDups
      g.reached fuel (rest ++ new) (seen ++ new)

/-! The beginning (R363). -/

/-- Is an ingress port a source of this press (R363)? Under kind 0 it is when its input comes from another core, no egress
port of a live vat of its own core naming it; under kind 1 when none of a core under the same press does. -/
def World.ingressSource (w : World) (c p : Nat) (part : Bool) : Bool :=
  let ns := w.namers c p
  if part then !ns.any (fun q => (w.partCores (w.partOf c)).contains q.1)
  else ns.all (fun q => q.1 != c) || ns.any (fun q => q.1 != c)

/-- The enabled input tags of an element. -/
def Eng.elemTags (g : Eng) (e : Nat) : List Endpoint :=
  ((List.range 8).map (fun p => ((List.range 8).filter (fun t => ltagEn (((g.cfg e).inPort p).tag t))).map
    (fun t => Endpoint.grid e p t))).flatten

/-- Does an element stop at the beginning of a press (R363): a source; an element on a closed loop that no source enters; one
to which no link leads? -/
def Eng.stopsAtOnce (g : Eng) (seen : List Nat) (e : Nat) : Bool :=
  (g.cfg e).sources || (!seen.contains e && (g.reached 256 [e] []).contains e) || !(g.elemTags e).any g.linked

/-- Does a covered vat hold a BLOCKED unit? -/
def Eng.pressBlocked (g : Eng) (covered : List Nat) : Bool :=
  g.active.any (fun q => q.2.blocked.isSome && g.covers covered q.1) ||
    g.agActive.any (fun q => q.2.blocked.isSome && g.covers covered (addrStream q.1)) ||
    g.mxActive.any (fun q => q.2.blocked.isSome && g.covers covered (addrMatrix q.1)) ||
    g.epActive.any (fun q => q.2.blocked.isSome && g.covers covered (addrEdge q.1))

/-- Stop the covered units where they stand: they act no more (R365). -/
def Eng.pressFreeze (g : Eng) (covered : List Nat) : Eng :=
  let g := ((List.range 128).filter (g.covers covered)).foldl (fun g e => g.setElem e { g.elem e with pressed := true }) g
  let g := ((List.range 32).filter (g.coversStream covered)).foldl (fun g s =>
    g.setStream s { g.stream s with pressed := true, saved := true }) g
  let g := ((List.range 4).filter (fun n => g.covers covered (addrMatrix n))).foldl (fun g n =>
    g.setNode n { g.mxn n with pressed := true, saved := true }) g
  ((List.range 8).filter (fun p => g.covers covered (addrEdge p))).foldl (fun g p =>
    g.setPort p { g.port p with pressed := true }) g

/-- No unit bears marks of an earlier press: an element that it has stopped stops again at once. -/
def Eng.pressAfresh (g : Eng) : Eng := { g.unmarked with
  flights := g.flights.filter (fun f => !f.tok.isPress), walks := g.walks }

/-- The end of a press: the event, the cause and the report of a press of the partition (R354, R362, R442). -/
def World.pressEnd (w : World) (c status : Nat) : World :=
  let g := w.eng c
  match g.press with
  | none => w
  | some p =>
    let p' := { p with active := false, status := some (BitVec.ofNat 8 status) }
    let w := (w.setEng c { g with press := if p.part then none else some p' }).emit c uCP tPRESS (BitVec.ofNat 32 status)
    let w := if p.part then
        w.raise c ⟨cPRESSDONE, 0, ⟨BitVec.ofNat 64 status, p.area, if p.issuer then 1 else 0, 0⟩⟩
      else w
    if p.host then w.tell rpPRESS c (BitVec.ofNat 64 status) p.area else w

/-- A press begins on core `c`: the covered vats, their sources, the elements that no source reaches. -/
def World.pressBegin (w : World) (c : Nat) (area : Word) (part issuer host : Bool) : World :=
  let g := w.eng c
  let covered := (List.range 8).filter (fun v => (g.vat v).state.live)
  let stopped (e : Nat) : Bool := (g.elem e).pressed
  let g := { g.pressAfresh with press := some {
    active := true, part := part, issuer := issuer, host := host, area := area, covered := covered, curds := []
    status := none } }
  if g.pressBlocked covered then (w.setEng c (g.pressFreeze covered)).pressEnd c psVATBLK
  else
    let ss := (List.range 32).filter (fun s => g.coversStream covered s && pressSource (g.streamCfg s).modeOf)
    let es := (List.range 128).filter (g.covers covered)
    let src := es.filter (fun e => (g.cfg e).sources)
    let ps := (List.range 8).filter (fun p => g.covers covered (addrEdge p) && (g.epCfg p).isIngress)
    let seen := g.reached 256 (ss.map keyStream ++ src ++ ps.map keyEdge) []
    let g := ss.foldl (fun g s => g.setStream s { g.stream s with pressed := true }) g
    let g := (es.filter (fun e => stopped e || g.stopsAtOnce seen e)).foldl (fun g e => g.stopElem w.cycle e) g
    let w := w.setEng c g
    (ps.filter (fun p => w.ingressSource c p part)).foldl (fun w p => w.ingressMarker c p) w

/-! Units that save (R365). -/

/-- Does every enabled tag of some endpoints that a link leads to hold its marker? -/
def Eng.allMarked (g : Eng) (ds : List Endpoint) : Bool :=
  ds.all (fun d => !g.linked d || (g.pool d).marker.isSome)

/-- The enabled input tags of a stream, of a node. -/
def Eng.streamTags (g : Eng) (s : Nat) : List Endpoint :=
  ((List.range 2).filter (fun t => ltagEn ((g.streamCfg s).tag t))).map (fun t => Endpoint.stream s t)

def nodeTags (n : Nat) : List Endpoint := (List.range 4).map (fun p => Endpoint.matrix n p)

/-- Can an edge unit send no token: it has no link, or no slot at the end of it? -/
def Eng.outHeld (g : Eng) (l : Option (Endpoint × Nat)) : Bool := !(l.any (fun q => g.hasSlot q.1))

/-- A marker on the link of an edge unit. -/
def Eng.markLink (g : Eng) (now : Nat) (l : Option (Endpoint × Nat)) : Eng :=
  match l with
  | some (d, hops) => g.launchMarker d (now + 1 + hops)
  | none => g

/-- An element saves: stopped, every marker there, no copy that writes it under way. -/
def World.saveElem (w : World) (c e : Nat) : World :=
  let g := w.eng c
  let x := g.elem e
  if x.pressed && !x.saved && g.allMarked (g.elemTags e) && !w.inbound c (· == e) then
    w.setEng c (g.setElem e { x with saved := true })
  else w

/-- A stream saves: a source behind its current token; another stream once its markers are there and its token is done.
What it cannot send is kept as buffers. -/
def World.saveStream (w : World) (c s : Nat) : World :=
  let g := w.eng c
  let x := g.stream s
  let l := streamLink g.cfg s
  let sent := x.out.isEmpty && x.buf.isEmpty && x.orders.isEmpty
  let ready :=
    if pressSource (g.streamCfg s).modeOf then sent || g.outHeld l
    else g.allMarked (g.streamTags s) && (x.lane = 0 || x.state != .running) && (sent || g.outHeld l)
  if x.saved || !(ready || x.state == .faulted) then w
  else w.setEng c ((g.markLink w.cycle l).setStream s { x with pressed := true, saved := true })

/-- A node saves: its markers are there and its pipeline has drained. -/
def World.saveNode (w : World) (c n : Nat) : World :=
  let g := w.eng c
  let x := g.mxn n
  let ready := g.allMarked (nodeTags n) && x.outs.isEmpty && x.out.isEmpty
  if x.saved || !(ready || x.state == .faulted) then w
  else w.setEng c ((g.markLink w.cycle (matrixLink g.cfg n)).setNode n { x with pressed := true, saved := true })

/-- Can an ingress port deliver nothing now: no slot at the end of its link, no room for its contribution? -/
def Eng.ingressHeld (g : Eng) (p : Nat) : Bool :=
  if (g.epCfg p).ctb then !g.contribRoom (g.epCfg p).creg.toNat (bindPort (BitVec.ofNat 3 p))
  else g.outHeld (edgeLink g.cfg p)

/-- The marker under way to an ingress port reaches it behind every token before it: once none is left, or the port can
deliver none, which then stay with the port as buffers. -/
def World.takeMarker (w : World) (c p : Nat) : World :=
  let mine (n : NetToken) : Bool := n.dstCore = c && n.dstPort = p
  match w.nets.findIdx? (fun n => mine n && n.tok.kind == kPRESS && n.arrive ≤ w.cycle) with
  | none => w
  | some i =>
    let g := w.eng c
    let x := g.port p
    let waiting := (w.nets.take i).filter mine
    match w.nets[i]? with
    | none => w
    | some n =>
      if (waiting.isEmpty && x.inbox.isEmpty) || g.ingressHeld p then
        let w := { w with nets := (w.nets.take i).filter (fun n => !mine n) ++ w.nets.drop (i + 1) }
        let w := w.setEng c (g.setPort p { x with inbox := x.inbox ++ waiting })
        (w.ingressToken c p n).getD w
      else w

/-- An edge port saves: an ingress port behind its marker, an egress port once the marker has reached it, which crosses the
link as a token does. -/
def World.savePort (w : World) (c p : Nat) : World :=
  let g := w.eng c
  let x := g.port p
  let save (w : World) : World :=
    let g := w.eng c
    w.setEng c (g.setPort p { g.port p with pressed := true, saved := true })
  if x.saved then w
  else if x.pressed then save w
  else if (g.epCfg p).isIngress then
    let w := w.takeMarker c p
    if ((w.eng c).port p).pressed then save w else w
  else if !(g.linked (.edge p)) then save w
  else if (g.pool (.edge p)).marker.isSome then save (w.egressMarker c p (g.epCfg p))
  else w

/-- Has the unit that a binding names saved, so far as it belongs to a covered vat? -/
def Eng.contributorSaved (g : Eng) (covered : List Nat) (b : BitVec 16) : Bool :=
  let u := (b.extractLsb' 0 12).toNat
  match (bindKind b).toNat with
  | 1 => !g.covers covered u || (g.elem u).saved
  | 2 => !g.coversStream covered u || (g.stream u).saved
  | 3 => !g.covers covered (addrMatrix u) || (g.mxn u).saved
  | 4 => !g.covers covered (addrEdge u) || (g.port u).saved
  | _ => true

/-- A curd register saves after its contributors. -/
def World.saveCurd (w : World) (c n : Nat) : World :=
  let g := w.eng c
  match g.press with
  | none => w
  | some p =>
    if p.curds.contains n || !(g.curd n).declared || !(g.curd n).binds.toList.all (g.contributorSaved p.covered) then w
    else w.setEng c { g with press := some { p with curds := p.curds ++ [n] } }

/-- PRESS_UNIT_SAVE. -/
def World.unitSave (w : World) (c : Nat) (u : PressUnit) : World :=
  let g := w.eng c
  match g.press with
  | none => w
  | some p =>
    if !p.active then w
    else
      match u with
      | .element e => if g.covers p.covered e.toNat then w.saveElem c e.toNat else w
      | .stream s => if g.coversStream p.covered s.toNat then w.saveStream c s.toNat else w
      | .matrix n => if g.covers p.covered (addrMatrix n.toNat) then w.saveNode c n.toNat else w
      | .edge q => if g.covers p.covered (addrEdge q.toNat) then w.savePort c q.toNat else w
      | .curd n => w.saveCurd c n.toNat

/-! The image (R365, R366). -/

/-- Has everything that the press covers saved? -/
def Eng.allSaved (g : Eng) (p : Press) : Bool :=
  (List.range 128).all (fun e => !g.covers p.covered e || (g.elem e).saved) &&
    (List.range 32).all (fun s => !g.coversStream p.covered s || (g.stream s).saved) &&
    (List.range 4).all (fun n => !g.covers p.covered (addrMatrix n) || (g.mxn n).saved) &&
    (List.range 8).all (fun q => !g.covers p.covered (addrEdge q) || (g.port q).saved) &&
    g.curds.all (fun q => !q.2.declared || p.curds.contains q.1) && g.copies.isEmpty && g.flights.isEmpty &&
    g.entering.isEmpty

/-- The lines that an image carries: those written in the memory elements of the covered vats. -/
def World.imageLines (w : World) (c : Nat) (p : Press) : List (Nat × List Byte) :=
  let g := w.eng c
  ((g.elems.filter (fun q => g.covers p.covered q.1)).map (fun q => q.2.lines.map (fun l =>
    (bankBase c q.1 + 64 * l, memBytes w.mem (bankBase c q.1 + 64 * l) 64)))).flatten

/-- Does an area lie in DRAM of the partition of core `c`? -/
def World.areaOk (w : World) (c a n : Nat) : Bool :=
  match regionOf a, regionOf (a + n - 1) with
  | .dram k, .dram j => (w.eng k).partid == (w.eng c).partid && (w.eng j).partid == (w.eng c).partid
  | _, _ => false

/-- What remains on a core once its image is written: covered slots read FREE, no command is queued (log 31). -/
def Eng.afterImage (g : Eng) (p : Press) : Eng :=
  let gone (a : Nat) : Bool := g.covers p.covered a
  { g with
    vats := g.vats.map (fun q => (q.1, if p.covered.contains q.1 && q.2.state.live then Vat.reset else q.2))
    elems := g.elems.map (fun q => (q.1, if gone q.1 then { Elem.reset with lines := q.2.lines } else q.2))
    pools := g.pools.filter (fun q => !gone (endpointOfKey q.1).addr)
    streams := g.streams.filter (fun q => !g.coversStream p.covered q.1), commands := [], walks := []
    mx := g.mx.map (fun q => (q.1, { q.2 with state := .idle, pressed := false, saved := false, a := [], outs := [] }))
    ports := g.ports.map (fun q => (q.1, { q.2 with
      pressed := false, saved := false, inbox := if gone (addrEdge q.1) then [] else q.2.inbox })) }

/-- PRESS_COMPLETE: a unit that has become BLOCKED ends the press (R365); else, once every unit has saved, the image is
written if it fits. -/
def World.pressComplete (w : World) (c : Nat) : World :=
  let g := w.eng c
  match g.press with
  | none => w
  | some p =>
    if !p.active then w
    else if g.pressBlocked p.covered then (w.setEng c (g.pressFreeze p.covered)).pressEnd c psVATBLK
    else if !g.allSaved p then w
    else
      let n := w.images.length
      let body := w.imageBody c n p.covered
      let len := imageRecords + body.length
      let a := p.area.toNat
      if !w.areaOk c a len || memNat w.mem a 8 < len then w.pressEnd c psIMAGE
      else
        let covered := p.covered.filter (fun v => (g.vat v).state.live)
        let im : Image := {
          core := c, cycle := w.cycle, covered := covered, eng := g.unmarked, lines := w.imageLines c p, body := body }
        let w := (w.store (a + 8) (imageHead c len)).store (a + imageRecords) body
        let w := { w with images := Tbl.put w.images n im }
        (w.setEng c ((w.eng c).afterImage p)).pressEnd c psDONE

/-! Restoring (R365, R367). -/

/-- Is an image of the machine at an address: do the bytes that the press wrote stand there (log 13)? -/
def World.imageAt (w : World) (a : Nat) (im : Image) : Bool :=
  memBytes w.mem (a + 8) 56 == imageHead im.core (imageRecords + im.body.length) &&
    memBytes w.mem (a + imageRecords) im.body.length == im.body

/-- The image at an address, the latest where several would do. -/
def World.findImage (w : World) (a : Nat) : Option Image :=
  (w.images.reverse.find? (fun q => w.imageAt a q.2)).map (·.2)

/-- A plane of an image whose configuration is read again: the slot, whether it is the active one, the plane. -/
structure SavedPlane where
  slot : Nat
  act : Bool
  plane : Plane

/-- The planes that an image names: the active one of each slot, and the culture plane that holds a whole load. -/
def Image.planes (im : Image) : List SavedPlane :=
  (im.eng.vats.map (fun q =>
    (q.2.active.toList.map (SavedPlane.mk q.1 true)) ++
      (if q.2.cst == .loaded then q.2.culture.toList.map (SavedPlane.mk q.1 false) else []))).flatten

/-- The reading of a configuration again: under the address space that a covered slot was armed under, else under that of
the control processor (log 31). -/
def State.rereadAs (s : State) (im : Image) (q : SavedPlane) : Command :=
  let k := s.commandOf (.cfg 0 (BitVec.ofNat 3 q.slot)) q.plane.addr 0
  let v := im.eng.vat q.slot
  if im.covered.contains q.slot then { k with asid := v.asid, ptroot := v.ptroot, priv := v.priv, xoff := v.xoff } else k

/-- Read a configuration stream again: the load, if the stream is whole. -/
def World.readAgain (w : World) (c slot : Nat) (k : Command) : Option Load × World :=
  match w.commandRead c (addrVat slot) uCP k.asid k.ptroot k.priv k.xoff k.x 4 with
  | (.error _, w) => (none, w)
  | (.ok bs, w) =>
    let b := BitVec.ofNat 32 (leNat bs)
    if cfgAddr b != 0x3FC then (none, w)
    else
      let (ended, l, w) := w.loadWords c slot k (streamWords - 1) (k.x + 4) (Load.begin (w.eng c) b k.x)
      (if ended then some l else none, w)

/-- Read every configuration of an image again: none when one does not carry its identifier (R367). -/
def State.rereadAll (s : State) (im : Image) : Option (List (SavedPlane × Load)) × World :=
  im.planes.foldl (fun (acc : Option (List (SavedPlane × Load)) × World) q =>
    match acc with
    | (none, w) => (none, w)
    | (some ls, w) =>
      match w.readAgain s.cur q.slot (s.rereadAs im q) with
      | (some l, w) => (if l.p.id == q.plane.id then some (ls ++ [(q, l)]) else none, w)
      | (none, w) => (none, w)) (some [], s.w)

/-- Do the weight buffers carry the tags of an image's accumulators (R383)? -/
def Eng.tagsMatch (g : Eng) (im : Image) : Bool :=
  im.eng.mx.all (fun q =>
    let cfg := im.eng.mxCfg q.1
    !(im.eng.covers im.covered (addrMatrix q.1) && (q.2.recorded cfg 0 || q.2.recorded cfg 1)) || q.2.tag == (g.mxn q.1).tag)

/-- A table whose entries at some keys are another one's. -/
def tblTake {α : Type} (t from' : Tbl α) (keys : Nat → Bool) : Tbl α :=
  (from'.filter (fun q => keys q.1)).foldl (fun t q => Tbl.put t q.1 q.2) (t.filter (fun q => !keys q.1))

/-- A stream's plane as it was read again. One that SDEF has changed stays as it was saved, so that the run goes on as it would
have (R292, R367; log 31). -/
def adoptStreams (g : Eng) (t from' : Tbl StreamCfg) (keep : Bool) (keys : Nat → Bool) : Tbl StreamCfg :=
  tblTake t from' (fun s => keys s && !(keep && (g.stream s).defined))

/-- A plane of an element as it was read again. What ARM and in-band words changed stays changed where the stream still gives
what it gave, so that the run goes on as it would have (R367; log 31). -/
def adoptElem (t read : Tbl ElemCfg) (keep : Bool) (e : Nat) (c : ElemCfg) : Tbl ElemCfg × Tbl ElemCfg :=
  if keep && Tbl.get read (Tbl.get t ElemCfg.empty e) e == c then (t, read)
  else (Tbl.put t e c, read.filter (fun q => q.1 != e))

/-- Put a configuration that was read again into the plane it occupied. -/
def Eng.adopt (covered : List Nat) (g : Eng) (q : SavedPlane × Load) : Eng :=
  let l := q.2
  let v := q.1.slot
  let keep := covered.contains v
  let get (e : Nat) : ElemCfg := Tbl.get l.g.culture ElemCfg.empty e
  let ag (s : Nat) : Bool := l.p.units.contains (addrStream s)
  let mx (a : Nat) : Bool := l.p.units.contains (addrMatrix a)
  let ep (a : Nat) : Bool := l.p.units.contains (addrEdge a)
  if q.1.act then
    let (t, r) := (rectElems l.p.rect).foldl (fun x e => adoptElem x.1 x.2 keep e (get e)) (g.active, g.activeRead)
    { g with
      active := t, activeRead := r, agActive := adoptStreams g g.agActive l.g.agCulture keep ag
      mxActive := tblTake g.mxActive l.g.mxCulture mx, epActive := tblTake g.epActive l.g.epCulture ep
    }.setVat v { g.vat v with active := some l.p }
  else
    let (t, r) := (rectElems l.p.rect).foldl (fun x e => adoptElem x.1 x.2 keep e (get e)) (g.culture, g.cultureRead)
    { g with
      culture := t, cultureRead := r, agCulture := tblTake g.agCulture l.g.agCulture ag
      mxCulture := tblTake g.mxCulture l.g.mxCulture mx, epCulture := tblTake g.epCulture l.g.epCulture ep
    }.setVat v { g.vat v with culture := some l.p }

/-- A slot of an image on a core: a covered slot goes on; of another the image records the state and the configurations
(R363), and the rest stays the core's. -/
def Eng.restoredVat (g : Eng) (im : Image) (now v : Nat) : Vat :=
  let x := im.eng.vat v
  if im.covered.contains v then { x with lastFire := now }
  else
    let q := if x.cst == .loaded then x.culture else none
    { g.vat v with state := x.state, active := x.active, culture := q, cst := if q.isSome then .loaded else .empty }

/-- An armed trigger whose time has passed fires at the next slot boundary, late. -/
def Eng.rearm (g : Eng) (time : Nat) (k : TimeTrigger) : TimeTrigger :=
  if 16 * k.due < time then { k with due := g.boundary (time / 16 + 1), late := true } else k

/-- The ages of records are kept: their cycles count from the restore (R267, R366). -/
def Sched.restored (x : Sched) (saved now : Nat) : Sched :=
  { x with queues := x.queues.map (fun q => (q.1, q.2.map (fun r => { r with at' := r.at' + (now - saved) }))) }

/-- The units of an image on a core: what belongs to the core, and what the image does not record, stays the core's. -/
def Eng.restored (g : Eng) (im : Image) (now time : Nat) : Eng :=
  let x := im.eng
  let cov := x.covers im.covered
  let str := x.coversStream im.covered
  let nodes := x.mx.map (fun q =>
    let b := g.mxn q.1
    (q.1, { q.2 with
      weights := b.weights, masks := b.masks, lines := b.lines, spoiled := b.spoiled, wPoison := b.wPoison,
      wFails := b.wFails, wCorrects := b.wCorrects, tag := b.tag }))
  { g with
    commands := g.commands ++ x.commands, curds := x.curds, jmask := x.jmask, masksWas := some (now, g.masks now)
    active := tblTake g.active x.active cov, culture := tblTake g.culture x.culture cov
    activeRead := tblTake g.activeRead x.activeRead cov, cultureRead := tblTake g.cultureRead x.cultureRead cov
    agActive := tblTake g.agActive x.agActive str, agCulture := tblTake g.agCulture x.agCulture str
    mxActive := tblTake g.mxActive x.mxActive (fun n => cov (addrMatrix n))
    mxCulture := tblTake g.mxCulture x.mxCulture (fun n => cov (addrMatrix n))
    epActive := tblTake g.epActive x.epActive (fun p => cov (addrEdge p))
    epCulture := tblTake g.epCulture x.epCulture (fun p => cov (addrEdge p))
    elems := tblTake g.elems x.elems cov
    pools := tblTake g.pools x.pools (fun k => cov (endpointOfKey k).addr)
    flights := [], firing := none, hash := x.hash, sched := x.sched.restored im.cycle now
    vats := (List.range 8).map (fun v => (v, g.restoredVat im now v))
    streams := tblTake g.streams x.streams str
    templates := x.templates, queues := x.queues, copies := [], walks := []
    mx := tblTake g.mx nodes (fun n => cov (addrMatrix n))
    ports := tblTake g.ports x.ports (fun p => cov (addrEdge p)), ingress := x.ingress, press := none
    triggers := x.triggers.map (fun q => (q.1, g.rearm time q.2)) }

/-- PRESS restore: the status, and the world after. -/
def State.restore (s : State) (a : Word) : Nat × World :=
  let c := s.cur
  let g := s.eng
  if (List.range 8).any (fun v => (g.vat v).state.live) || g.streams.any (fun q => q.2.busy) then (psBUSY, s.w)
  else if !s.w.areaOk c a.toNat imageRecords then (psFORMAT, s.w)
  else
    match s.w.findImage a.toNat with
    | none => (psFORMAT, s.w)
    | some im =>
      if im.core != c then (psFORMAT, s.w)
      else
        match s.rereadAll im with
        | (none, w) => (psCONFIG, { s.w with miss := w.miss })
        | (some ls, _) =>
          if !g.tagsMatch im then (psCONFIG, s.w)
          else
            let w := s.w.setEng c (ls.foldl (Eng.adopt im.covered) (g.restored im s.w.cycle s.w.time))
            (psDONE, im.lines.foldl (fun w l => w.store l.1 l.2) w)

/-! PRESS (R362). -/

/-- The image areas of a table, one for each core of a partition that is not fenced. -/
def World.pressTable (w : World) (p a : Nat) : List (Nat × Word) :=
  (w.partCores p).zipIdx.map (fun q => (q.1, memWord w.mem (a + 8 * q.2)))

/-- Begin a press on every core of a table. -/
def World.pressAll (w : World) (issuer : Nat) (host : Bool) (t : List (Nat × Word)) : World :=
  t.foldl (fun w q => w.pressBegin q.1 q.2 true (!host && q.1 = issuer) host) w

/-- PRESS_SAVE (R362, R365): it reads and writes memory behind the stores of its own processor (R333). -/
def execPressSave (d a : Reg) (s : State) : Host.Outcome State Fault Refusal :=
  .next (
    if !s.cp.prv then s.trap (trapPriv (.pressSave d a))
    else if (s.reg a).toNat % 64 != 0 then s.trap (trapMisalign (s.reg a))
    else
      match s.eng.press with
      | none => s.withWorld ((s.w.drainAll s.cur).pressBegin s.cur (s.reg a) false true false)
      | some p =>
        match p.status with
        | some st => (s.withEng { s.eng with press := none }).finish d (st.setWidth 64)
        | none => s)

/-- PRESS_PART (R362): it waits while a press is under way on some core of the partition; a table outside the partition's
DRAM starts none and answers IMAGE (log 31). -/
def execPressPart (d a : Reg) (s : State) : Host.Outcome State Fault Refusal :=
  .next (
    if !s.cp.prv then s.trap (trapPriv (.pressPart d a))
    else if (s.reg a).toNat % 8 != 0 then s.trap (trapMisalign (s.reg a))
    else
      let w := s.w.drainAll s.cur
      let t := w.pressTable (w.partOf s.cur) (s.reg a).toNat
      if t.any (fun q => (w.eng q.1).press.isSome) then s
      else if !w.areaOk s.cur (s.reg a).toNat (8 * t.length) then s.finish d (BitVec.ofNat 64 psIMAGE)
      else (s.withWorld (w.pressAll s.cur false t)).finish d 0)

/-- PRESS_RESTORE (R362, R367). -/
def execPressRestore (d a : Reg) (s : State) : Host.Outcome State Fault Refusal :=
  .next (
    if !s.cp.prv then s.trap (trapPriv (.pressRestore d a))
    else if (s.reg a).toNat % 64 != 0 then s.trap (trapMisalign (s.reg a))
    else
      let (st, w) := (s.withWorld (s.w.drainAll s.cur)).restore (s.reg a)
      (s.withWorld w).finish d (BitVec.ofNat 64 st))

/-- PRESS_UNIT_SAVE (R365). -/
def execPressUnitSave (u : PressUnit) (s : State) : Host.Outcome State Fault Refusal :=
  s.onWorld (fun w => w.unitSave s.cur u)

/-- PRESS_COMPLETE (R365, R366). -/
def execPressComplete (s : State) : Host.Outcome State Fault Refusal := s.onWorld (fun w => w.pressComplete s.cur)

end Sys2Proof.Machine
end

