-- ==== Sys2Proof/Machine/Boot.lean ====
section
/-! DEFINITION. The boot ROM: the header of a firmware image, SHA-384, ECDSA on P-384, the checks (R446, R447; log 12). -/

namespace Sys2Proof.Machine

/-! SHA-384 (log 12). -/

/-- Bytes as a big-endian number. -/
def beNat (bs : List Byte) : Nat := bs.foldl (fun n b => 256 * n + b.toNat) 0

/-- The `n` big-endian bytes of a number. -/
def beBytes (n x : Nat) : List Byte := (leBytes n x).reverse

/-- The primes below 410: 80 of them, one for each round. -/
def digestPrimes : List Nat :=
  [2, 3, 5, 7, 11, 13, 17, 19, 23, 29, 31, 37, 41, 43, 47, 53, 59, 61, 67, 71] ++
  [73, 79, 83, 89, 97, 101, 103, 107, 109, 113, 127, 131, 137, 139, 149, 151, 157, 163, 167, 173] ++
  [179, 181, 191, 193, 197, 199, 211, 223, 227, 229, 233, 239, 241, 251, 257, 263, 269, 271, 277, 281] ++
  [283, 293, 307, 311, 313, 317, 331, 337, 347, 349, 353, 359, 367, 373, 379, 383, 389, 397, 401, 409]

/-- The greatest number above `r` in its low `bits` bits whose `k`-th power is at most `n`. -/
def rootUpTo (k n : Nat) : Nat → Nat → Nat
  | 0, r => r
  | bits + 1, r => rootUpTo k n bits (if (r + 2 ^ bits) ^ k ≤ n then r + 2 ^ bits else r)

/-- The first 64 bits behind the point of the `k`-th root of a number below 512. -/
def rootFraction (k n : Nat) : Word := BitVec.ofNat 64 (rootUpTo k (n * 2 ^ (64 * k)) (64 + 9) 0)

/-- The constants of the rounds: cube roots of the primes. -/
def digestRounds : List Word := digestPrimes.map (rootFraction 3)

/-- The chaining value before the first block: square roots of the ninth prime to the sixteenth. -/
def digestSeed : List Word := ((digestPrimes.drop 8).take 8).map (rootFraction 2)

/-- A word turned by each of some amounts, all added bit by bit. -/
def turned (by' : List Nat) (x : Word) : Word := by'.foldl (fun y n => y ^^^ x.rotateRight n) 0

/-- The word behind the 16 in sight. -/
def nextWord (sight : List Word) : Word :=
  let early := sight.getD 1 0
  let late := sight.getD 14 0
  sight.getD 0 0 + sight.getD 9 0 + (turned [1, 8] early ^^^ early >>> 7) + (turned [19, 61] late ^^^ late >>> 6)

/-- A round: the working words in two halves, which `add` goes into. -/
def digestRound (upper lower : Word × Word × Word × Word) (add : Word) :
    (Word × Word × Word × Word) × (Word × Word × Word × Word) :=
  let (u0, u1, u2, u3) := upper
  let (l0, l1, l2, l3) := lower
  let mixed := add + l3 + turned [14, 18, 41] l0 + (l2 ^^^ (l0 &&& (l1 ^^^ l2)))
  let major := (u0 &&& u1) ||| (u2 &&& (u0 ||| u1))
  ((mixed + major + turned [28, 34, 39] u0, u0, u1, u2), (u3 + mixed, l0, l1, l2))

/-- The rounds of a block, with the 16 words in sight. -/
def digestRun : List Word → List Word → (Word × Word × Word × Word) × (Word × Word × Word × Word) →
    (Word × Word × Word × Word) × (Word × Word × Word × Word)
  | [], _, v => v
  | k :: ks, sight, v =>
    digestRun ks (sight.drop 1 ++ [nextWord sight]) (digestRound v.1 v.2 (k + sight.getD 0 0))

/-- Take a block of 128 bytes into a chaining value. -/
def digestBlock (v : List Word) (block : List Byte) : List Word :=
  let at' (i : Nat) := v.getD i 0
  let sight := (List.range 16).map (fun i => BitVec.ofNat 64 (beNat ((block.drop (8 * i)).take 8)))
  let (x, y) := digestRun digestRounds sight ((at' 0, at' 1, at' 2, at' 3), (at' 4, at' 5, at' 6, at' 7))
  List.zipWith (· + ·) v [x.1, x.2.1, x.2.2.1, x.2.2.2, y.1, y.2.1, y.2.2.1, y.2.2.2]

/-- The bytes that fill a message of `n` bytes up to whole blocks, its length in bits last. -/
def digestTail (n : Nat) : List Byte := 0x80 :: List.replicate ((128 - (n + 17) % 128) % 128) 0 ++ beBytes 16 (8 * n)

/-- Take `n` blocks. -/
def digestBlocks : Nat → List Byte → List Word → List Word
  | 0, _, v => v
  | n + 1, bs, v => digestBlocks n (bs.drop 128) (digestBlock v (bs.take 128))

/-- The digest, as a number of 384 bits. -/
def sha384 (bs : List Byte) : BitVec 384 :=
  let padded := bs ++ digestTail bs.length
  BitVec.ofNat 384 (beNat (((digestBlocks (padded.length / 128) padded digestSeed).take 6).flatMap (fun w => beBytes 8 w.toNat)))

/-! ECDSA on P-384 (log 12). -/

def p384P : Nat := 2 ^ 384 - 2 ^ 128 - 2 ^ 96 + 2 ^ 32 - 1
def p384B : Nat := 0xb3312fa7e23ee7e4988e056be3f82d19181d9c6efe8141120314088f5013875ac656398d8a2ed19d2a85c8edd3ec2aef
def p384N : Nat := 0xffffffffffffffffffffffffffffffffffffffffffffffffc7634d81f4372ddf581a0db248b0a77aecec196accc52973
def p384G : Nat × Nat :=
  (0xaa87ca22be8b05378eb1c71ef320ad746e1d3b628ba79b9859f741e082542a385502f25dbf55296c3a545e3872760ab7,
   0x3617de4a96262c6f5d9e98bf9292dc29f8f41dbd289a147ce9da3113b5f0b8c00a60b1ce1d7e819d7a431d7c90ea0e5f)

/-- Powers modulo m, by the bits of the exponent. -/
def powMod (m : Nat) : Nat → Nat → Nat → Nat
  | 0, _, _ => 1 % m
  | f + 1, b, e => (if e % 2 = 1 then b else 1) * powMod m f (b * b % m) (e / 2) % m

/-- The inverse modulo a prime. -/
def invMod (m x : Nat) : Nat := powMod m 384 (x % m) (m - 2)

/-- A difference modulo m. -/
def subMod (m x y : Nat) : Nat := (x % m + (m - y % m)) % m

/-- Points of the curve; none is the point at infinity. -/
abbrev CurvePoint := Option (Nat × Nat)

def curveLine (s x1 y1 x2 : Nat) : CurvePoint :=
  let x := subMod p384P (s * s) (x1 + x2)
  some (x, subMod p384P (s * subMod p384P x1 x) y1)

def curveDouble : CurvePoint → CurvePoint
  | none => none
  | some (x, y) =>
    if y = 0 then none
    else curveLine (subMod p384P (3 * x * x) 3 * invMod p384P (2 * y) % p384P) x y x

def curveAdd : CurvePoint → CurvePoint → CurvePoint
  | none, q => q
  | p, none => p
  | some (x1, y1), some (x2, y2) =>
    if x1 = x2 then (if y1 = y2 then curveDouble (some (x1, y1)) else none)
    else curveLine (subMod p384P y2 y1 * invMod p384P (subMod p384P x2 x1) % p384P) x1 y1 x2

/-- A multiple of a point. -/
def curveMul : Nat → Nat → CurvePoint → CurvePoint
  | 0, _, _ => none
  | f + 1, k, p => curveAdd (if k % 2 = 1 then p else none) (curveMul f (k / 2) (curveDouble p))

/-- Is a pair of coordinates a point of the curve? -/
def onCurve (x y : Nat) : Bool := x < p384P && y < p384P && y * y % p384P == (subMod p384P (x * x * x) (3 * x) + p384B) % p384P

/-- Does a signature verify over a digest? -/
def ecdsaVerifies (qx qy r s : Nat) (digest : BitVec 384) : Bool :=
  onCurve qx qy && 0 < r && r < p384N && 0 < s && s < p384N &&
    (let w := invMod p384N s
     match curveAdd (curveMul 384 (digest.toNat * w % p384N) (some p384G)) (curveMul 384 (r * w % p384N) (some (qx, qy))) with
     | some (x, _) => x % p384N == r
     | none => false)

/-! The image (R447). -/

/-- Fields of a header of 256 bytes. -/
def hdrNum (h : List Byte) (i : Nat) : Nat := leNat ((h.drop i).take 8)
def hdrBe (h : List Byte) (i : Nat) : Nat := beNat ((h.drop i).take 48)

def bootMagic : Nat := 0x4748465700000001

/-- The ROM's checks, in the order of the status codes: 0 accepted, 1 header, 2 key, 3 version, 4 signature. -/
def bootStatus (h body : List Byte) : Nat :=
  let svn := hdrNum h 8
  let header := hdrNum h 0 == bootMagic && svn < 2 ^ 16 && hdrNum h 16 ≤ 0xFFFFF00 && hdrNum h 24 % 4 == 0 &&
    (h.drop 224).all (· == 0)
  if !header then 1
  else if sha384 ((h.drop 32).take 96) != Config.fusedKeyDigest then 2
  else if svn < Config.fusedMinVersion then 3
  else if !ecdsaVerifies (hdrBe h 32) (hdrBe h 80) (hdrBe h 128) (hdrBe h 176) (sha384 (h.take 32 ++ body)) then 4
  else 0

/-- Is the boot ROM waiting for a write of BOOT? -/
def State.romWaits (s : State) : Bool := (cpOf s.cps 0).mode == .rom

/-- A host writes BOOT: the response and the machine after. Only 1 starts the checks; while no ROM waits the register
takes no write (log 33). -/
def State.bootWrite (s : State) (v : Word) : BitVec 2 × State :=
  if v.extractLsb' 1 63 != 0 then (respPERM, s)
  else if !s.romWaits then (respBUSY, s)
  else if v == 0 then (respOK, s)
  else
    let h := memBytes s.w.mem 0 256
    let n := hdrNum h 16
    let st := bootStatus h (if n ≤ 0xFFFFF00 then memBytes s.w.mem 256 n else [])
    let s := s.withWorld { s.w with host := { s.w.host with boot := 0x8000000000000000 ||| BitVec.ofNat 64 st } }
    if st = 0 then
      (respOK, { s with cps := Tbl.put s.cps 0 { cpOf s.cps 0 with mode := .running, pc := BitVec.ofNat 64 (hdrNum h 24) } })
    else (respOK, s)

/-- BOOT_WRITE (R447). -/
def execBootWrite (val : BitVec 64) (s : State) : Host.Outcome State Fault Refusal :=
  let (r, s) := s.bootWrite val
  .next (s.withWorld (s.w.respond r))

end Sys2Proof.Machine
end

