-- ==== Sys2Proof/Machine/Branch.lean ====
section
/-! DEFINITION. Branches and jumps (R155 to R158). -/

namespace Sys2Proof.Machine

/-- The target of a displacement in words (R155, R156). -/
def targetOf {n : Nat} (pc : Word) (disp : BitVec n) : Word := pc + 4 * disp.signExtend 64

/-- Complete a jump, the return address going into a register if one is named. -/
def State.jumpTo (s : State) (link : Bool) (t : Word) : State :=
  s.withCp ((if link then s.cp.setReg 31 (s.cp.pc + 4) else s.cp).goto t)

/-- A conditional branch (R156). -/
def State.branchIf (s : State) (c : Bool) (i : BitVec 12) : State :=
  s.jumpTo false (if c then targetOf s.cp.pc i else s.cp.pc + 4)

/-- A jump through a register (R157): a target that is no multiple of 4 traps before g31 is written. -/
def State.jumpReg (s : State) (link : Bool) (t : Word) : State :=
  if t.extractLsb' 0 2 != 0 then s.trap (trapMisalign t) else s.jumpTo link t

/-- B (R155). -/
def execJump (i : BitVec 26) (s : State) : Host.Outcome State Fault Refusal :=
  .next (s.jumpTo false (targetOf s.cp.pc i))

/-- CALL (R155). -/
def execCall (i : BitVec 26) (s : State) : Host.Outcome State Fault Refusal :=
  .next (s.jumpTo true (targetOf s.cp.pc i))

/-- BEQ (R156). -/
def execBeq (a b : Reg) (i : BitVec 12) (s : State) : Host.Outcome State Fault Refusal :=
  .next (s.branchIf (s.reg a == s.reg b) i)

/-- BNE (R156). -/
def execBne (a b : Reg) (i : BitVec 12) (s : State) : Host.Outcome State Fault Refusal :=
  .next (s.branchIf (s.reg a != s.reg b) i)

/-- BLT (R156). -/
def execBlt (a b : Reg) (i : BitVec 12) (s : State) : Host.Outcome State Fault Refusal :=
  .next (s.branchIf ((s.reg a).slt (s.reg b)) i)

/-- BGE (R156). -/
def execBge (a b : Reg) (i : BitVec 12) (s : State) : Host.Outcome State Fault Refusal :=
  .next (s.branchIf (!(s.reg a).slt (s.reg b)) i)

/-- BLTU (R156). -/
def execBltu (a b : Reg) (i : BitVec 12) (s : State) : Host.Outcome State Fault Refusal :=
  .next (s.branchIf ((s.reg a).ult (s.reg b)) i)

/-- BGEU (R156). -/
def execBgeu (a b : Reg) (i : BitVec 12) (s : State) : Host.Outcome State Fault Refusal :=
  .next (s.branchIf (!(s.reg a).ult (s.reg b)) i)

/-- JR (R157). -/
def execJr (a : Reg) (s : State) : Host.Outcome State Fault Refusal :=
  .next (s.jumpReg false (s.reg a))

/-- CALLR (R157). -/
def execCallr (a : Reg) (s : State) : Host.Outcome State Fault Refusal :=
  .next (s.jumpReg true (s.reg a))

end Sys2Proof.Machine
end

