-- ==== Sys2Proof/Machine/Alu.lean ====
section
/-! DEFINITION. The ALU group (R148 to R152). -/

namespace Sys2Proof.Machine

/-- Full width, or the low 32 bits with the result sign-extended (R151). -/
def aluWidth (w : BitVec 1) (f64 : Word → Word → Word) (f32 : BitVec 32 → BitVec 32 → BitVec 32) (x y : Word) :
    Word :=
  if w = 0 then f64 x y else (f32 (x.setWidth 32) (y.setWidth 32)).signExtend 64

/-- Quotient and remainder with the fixed results of R150, for any width. -/
def divS {n : Nat} (x y : BitVec n) : BitVec n := if y = 0 then BitVec.allOnes n else x.sdiv y
def divU {n : Nat} (x y : BitVec n) : BitVec n := if y = 0 then BitVec.allOnes n else x / y
def remS {n : Nat} (x y : BitVec n) : BitVec n := if y = 0 then x else x.srem y
def remU {n : Nat} (x y : BitVec n) : BitVec n := if y = 0 then x else x % y

/-- High halves of the products (R149). -/
def mulHighS (x y : Word) : Word := ((x.signExtend 128 * y.signExtend 128).extractLsb' 64 64)
def mulHighU (x y : Word) : Word := ((x.setWidth 128 * y.setWidth 128).extractLsb' 64 64)

/-- Shift counts: the low six bits, or five under `.w` (R149, R151). -/
def count6 (y : Word) : Nat := y.toNat % 64
def count5 (y : BitVec 32) : Nat := y.toNat % 32

/-- A truth value as 1 or 0. -/
def truth (b : Bool) : Word := if b then 1 else 0

/-- Bits of a pattern, highest first. -/
def bitsDown {n : Nat} (x : BitVec n) : List Bool := ((List.range n).map (fun i => x.getLsbD (n - 1 - i)))

/-- Leading zeros, trailing zeros and set bits (R149). -/
def leadingZeros {n : Nat} (x : BitVec n) : Nat := ((bitsDown x).takeWhile (fun b => !b)).length
def trailingZeros {n : Nat} (x : BitVec n) : Nat := ((bitsDown x).reverse.takeWhile (fun b => !b)).length
def setBits {n : Nat} (x : BitVec n) : Nat := ((bitsDown x).filter (fun b => b)).length

/-- The source width of SEXT and ZEXT in bits (R149). -/
def extBits (x : BitVec 5) : Nat := 8 * 2 ^ x.toNat

/-- Reverse the eight bytes (R149). -/
def byteSwap (x : Word) : Word :=
  x.extractLsb' 0 8 ++ x.extractLsb' 8 8 ++ x.extractLsb' 16 8 ++ x.extractLsb' 24 8 ++
    x.extractLsb' 32 8 ++ x.extractLsb' 40 8 ++ x.extractLsb' 48 8 ++ x.extractLsb' 56 8

/-- ADD (R149). -/
def execAdd (d a b : Reg) (w : BitVec 1) (s : State) : Host.Outcome State Fault Refusal :=
  .next (s.finish d (aluWidth w (fun x y => x + y) (fun x y => x + y) (s.reg a) (s.reg b)))

/-- SUB (R149). -/
def execSub (d a b : Reg) (w : BitVec 1) (s : State) : Host.Outcome State Fault Refusal :=
  .next (s.finish d (aluWidth w (fun x y => x - y) (fun x y => x - y) (s.reg a) (s.reg b)))

/-- MUL (R149). -/
def execMul (d a b : Reg) (w : BitVec 1) (s : State) : Host.Outcome State Fault Refusal :=
  .next (s.finish d (aluWidth w (fun x y => x * y) (fun x y => x * y) (s.reg a) (s.reg b)))

/-- MULH (R149). -/
def execMulh (d a b : Reg) (s : State) : Host.Outcome State Fault Refusal :=
  let x := s.reg a
  let y := s.reg b
  .next (s.finish d (mulHighS x y))

/-- MULHU (R149). -/
def execMulhu (d a b : Reg) (s : State) : Host.Outcome State Fault Refusal :=
  let x := s.reg a
  let y := s.reg b
  .next (s.finish d (mulHighU x y))

/-- DIV (R150). -/
def execDiv (d a b : Reg) (w : BitVec 1) (s : State) : Host.Outcome State Fault Refusal :=
  .next (s.finish d (aluWidth w (fun x y => divS x y) (fun x y => divS x y) (s.reg a) (s.reg b)))

/-- DIVU (R150). -/
def execDivu (d a b : Reg) (w : BitVec 1) (s : State) : Host.Outcome State Fault Refusal :=
  .next (s.finish d (aluWidth w (fun x y => divU x y) (fun x y => divU x y) (s.reg a) (s.reg b)))

/-- REM (R150). -/
def execRem (d a b : Reg) (w : BitVec 1) (s : State) : Host.Outcome State Fault Refusal :=
  .next (s.finish d (aluWidth w (fun x y => remS x y) (fun x y => remS x y) (s.reg a) (s.reg b)))

/-- REMU (R150). -/
def execRemu (d a b : Reg) (w : BitVec 1) (s : State) : Host.Outcome State Fault Refusal :=
  .next (s.finish d (aluWidth w (fun x y => remU x y) (fun x y => remU x y) (s.reg a) (s.reg b)))

/-- AND (R149). -/
def execAnd (d a b : Reg) (s : State) : Host.Outcome State Fault Refusal :=
  let x := s.reg a
  let y := s.reg b
  .next (s.finish d (x &&& y))

/-- OR (R149). -/
def execOr (d a b : Reg) (s : State) : Host.Outcome State Fault Refusal :=
  let x := s.reg a
  let y := s.reg b
  .next (s.finish d (x ||| y))

/-- XOR (R149). -/
def execXor (d a b : Reg) (s : State) : Host.Outcome State Fault Refusal :=
  let x := s.reg a
  let y := s.reg b
  .next (s.finish d (x ^^^ y))

/-- ANDN (R149). -/
def execAndn (d a b : Reg) (s : State) : Host.Outcome State Fault Refusal :=
  let x := s.reg a
  let y := s.reg b
  .next (s.finish d (x &&& ~~~y))

/-- SHL (R149). -/
def execShl (d a b : Reg) (w : BitVec 1) (s : State) : Host.Outcome State Fault Refusal :=
  .next (s.finish d (aluWidth w (fun x y => x <<< count6 y) (fun x y => x <<< count5 y) (s.reg a) (s.reg b)))

/-- SHR (R149). -/
def execShr (d a b : Reg) (w : BitVec 1) (s : State) : Host.Outcome State Fault Refusal :=
  .next (s.finish d (aluWidth w (fun x y => x >>> count6 y) (fun x y => x >>> count5 y) (s.reg a) (s.reg b)))

/-- SAR (R149). -/
def execSar (d a b : Reg) (w : BitVec 1) (s : State) : Host.Outcome State Fault Refusal :=
  .next (s.finish d (aluWidth w (fun x y => x.sshiftRight (count6 y)) (fun x y => x.sshiftRight (count5 y)) (s.reg a) (s.reg b)))

/-- ROL (R149). -/
def execRol (d a b : Reg) (w : BitVec 1) (s : State) : Host.Outcome State Fault Refusal :=
  .next (s.finish d (aluWidth w (fun x y => x.rotateLeft (count6 y)) (fun x y => x.rotateLeft (count5 y)) (s.reg a) (s.reg b)))

/-- MIN (R149). -/
def execMin (d a b : Reg) (s : State) : Host.Outcome State Fault Refusal :=
  let x := s.reg a
  let y := s.reg b
  .next (s.finish d (if x.sle y then x else y))

/-- MAX (R149). -/
def execMax (d a b : Reg) (s : State) : Host.Outcome State Fault Refusal :=
  let x := s.reg a
  let y := s.reg b
  .next (s.finish d (if y.sle x then x else y))

/-- MINU (R149). -/
def execMinu (d a b : Reg) (s : State) : Host.Outcome State Fault Refusal :=
  let x := s.reg a
  let y := s.reg b
  .next (s.finish d (if x ≤ y then x else y))

/-- MAXU (R149). -/
def execMaxu (d a b : Reg) (s : State) : Host.Outcome State Fault Refusal :=
  let x := s.reg a
  let y := s.reg b
  .next (s.finish d (if x ≥ y then x else y))

/-- SEQ (R149). -/
def execSeq (d a b : Reg) (s : State) : Host.Outcome State Fault Refusal :=
  let x := s.reg a
  let y := s.reg b
  .next (s.finish d (truth (x == y)))

/-- SNE (R149). -/
def execSne (d a b : Reg) (s : State) : Host.Outcome State Fault Refusal :=
  let x := s.reg a
  let y := s.reg b
  .next (s.finish d (truth (x != y)))

/-- SLT (R149). -/
def execSlt (d a b : Reg) (s : State) : Host.Outcome State Fault Refusal :=
  let x := s.reg a
  let y := s.reg b
  .next (s.finish d (truth (x.slt y)))

/-- SLTU (R149). -/
def execSltu (d a b : Reg) (s : State) : Host.Outcome State Fault Refusal :=
  let x := s.reg a
  let y := s.reg b
  .next (s.finish d (truth (x.ult y)))

/-- SLE (R149). -/
def execSle (d a b : Reg) (s : State) : Host.Outcome State Fault Refusal :=
  let x := s.reg a
  let y := s.reg b
  .next (s.finish d (truth (x.sle y)))

/-- SLEU (R149). -/
def execSleu (d a b : Reg) (s : State) : Host.Outcome State Fault Refusal :=
  let x := s.reg a
  let y := s.reg b
  .next (s.finish d (truth (x.ule y)))

/-- CLZ (R149, R151). -/
def execClz (d a : Reg) (w : BitVec 1) (s : State) : Host.Outcome State Fault Refusal :=
  .next (s.finish d (BitVec.ofNat 64 (if w = 0 then leadingZeros (s.reg a) else leadingZeros ((s.reg a).setWidth 32))))

/-- CTZ (R149, R151). -/
def execCtz (d a : Reg) (w : BitVec 1) (s : State) : Host.Outcome State Fault Refusal :=
  .next (s.finish d (BitVec.ofNat 64 (if w = 0 then trailingZeros (s.reg a) else trailingZeros ((s.reg a).setWidth 32))))

/-- POPC (R149, R151). -/
def execPopc (d a : Reg) (w : BitVec 1) (s : State) : Host.Outcome State Fault Refusal :=
  .next (s.finish d (BitVec.ofNat 64 (if w = 0 then setBits (s.reg a) else setBits ((s.reg a).setWidth 32))))

/-- SEXT (R149). -/
def execSext (d a : Reg) (x : BitVec 5) (s : State) : Host.Outcome State Fault Refusal :=
  .next (s.finish d (((s.reg a).setWidth (extBits x)).signExtend 64))

/-- ZEXT (R149). -/
def execZext (d a : Reg) (x : BitVec 5) (s : State) : Host.Outcome State Fault Refusal :=
  .next (s.finish d (((s.reg a).setWidth (extBits x)).setWidth 64))

/-- BSWAP (R149). -/
def execBswap (d a : Reg) (s : State) : Host.Outcome State Fault Refusal :=
  .next (s.finish d (byteSwap (s.reg a)))

end Sys2Proof.Machine
end

