-- ==== Sys2Proof/Machine/Imm.lean ====
section
/-! DEFINITION. The immediate forms (R153, R154). -/

namespace Sys2Proof.Machine

/-- ADDI (R153). -/
def execAddi (d a : Reg) (i : BitVec 16) (s : State) : Host.Outcome State Fault Refusal :=
  .next (s.finish d (s.reg a + i.signExtend 64))

/-- ANDI (R153). -/
def execAndi (d a : Reg) (i : BitVec 16) (s : State) : Host.Outcome State Fault Refusal :=
  .next (s.finish d (s.reg a &&& i.setWidth 64))

/-- ORI (R153). -/
def execOri (d a : Reg) (i : BitVec 16) (s : State) : Host.Outcome State Fault Refusal :=
  .next (s.finish d (s.reg a ||| i.setWidth 64))

/-- XORI (R153). -/
def execXori (d a : Reg) (i : BitVec 16) (s : State) : Host.Outcome State Fault Refusal :=
  .next (s.finish d (s.reg a ^^^ i.setWidth 64))

/-- SHLI (R154). -/
def execShli (d a : Reg) (n : BitVec 6) (s : State) : Host.Outcome State Fault Refusal :=
  .next (s.finish d (s.reg a <<< n.toNat))

/-- SHRI (R154). -/
def execShri (d a : Reg) (n : BitVec 6) (s : State) : Host.Outcome State Fault Refusal :=
  .next (s.finish d (s.reg a >>> n.toNat))

/-- SARI (R154). -/
def execSari (d a : Reg) (n : BitVec 6) (s : State) : Host.Outcome State Fault Refusal :=
  .next (s.finish d ((s.reg a).sshiftRight n.toNat))

/-- SLTI (R153). -/
def execSlti (d a : Reg) (i : BitVec 16) (s : State) : Host.Outcome State Fault Refusal :=
  .next (s.finish d (truth ((s.reg a).slt (i.signExtend 64))))

/-- SLTUI (R153): the immediate is sign-extended, then compared unsigned. -/
def execSltui (d a : Reg) (i : BitVec 16) (s : State) : Host.Outcome State Fault Refusal :=
  .next (s.finish d (truth ((s.reg a).ult (i.signExtend 64))))

/-- LIH (R153). -/
def execLih (d a : Reg) (i : BitVec 16) (s : State) : Host.Outcome State Fault Refusal :=
  .next (s.finish d ((s.reg a <<< 16) ||| i.setWidth 64))

end Sys2Proof.Machine
end

