-- ==== Sys2Proof/Machine/StageSteps.lean ====
section
/-! DEFINITION. The firings of the stage operations, the release of a reorder window and the delivery of a token, as
steps of the machine. Each firing has its plan in StageInt, StageFloat, StageLane, StageFlow or StageMem. -/

namespace Sys2Proof.Machine

/-- PASS (R198). -/
def execPass (e : BitVec 7) (k : BitVec 3) (s : State) : Host.Outcome State Fault Refusal :=
  s.onWorld (fun w => w.fireStage .pass s.cur e.toNat k.toNat)

/-- CONST (R198). -/
def execConst (e : BitVec 7) (k : BitVec 3) (s : State) : Host.Outcome State Fault Refusal :=
  s.onWorld (fun w => w.fireStage .const s.cur e.toNat k.toNat)

/-- DELAY (R198). -/
def execDelay (e : BitVec 7) (k : BitVec 3) (s : State) : Host.Outcome State Fault Refusal :=
  s.onWorld (fun w => w.fireStage .delay s.cur e.toNat k.toNat)

/-- IADD (R199). -/
def execIadd (e : BitVec 7) (k : BitVec 3) (s : State) : Host.Outcome State Fault Refusal :=
  s.onWorld (fun w => w.fireStage .iadd s.cur e.toNat k.toNat)

/-- ISUB (R199). -/
def execIsub (e : BitVec 7) (k : BitVec 3) (s : State) : Host.Outcome State Fault Refusal :=
  s.onWorld (fun w => w.fireStage .isub s.cur e.toNat k.toNat)

/-- IMUL (R199). -/
def execImul (e : BitVec 7) (k : BitVec 3) (s : State) : Host.Outcome State Fault Refusal :=
  s.onWorld (fun w => w.fireStage .imul s.cur e.toNat k.toNat)

/-- IMULH (R199). -/
def execImulh (e : BitVec 7) (k : BitVec 3) (s : State) : Host.Outcome State Fault Refusal :=
  s.onWorld (fun w => w.fireStage .imulh s.cur e.toNat k.toNat)

/-- IMAC (R199). -/
def execImac (e : BitVec 7) (k : BitVec 3) (s : State) : Host.Outcome State Fault Refusal :=
  s.onWorld (fun w => w.fireStage .imac s.cur e.toNat k.toNat)

/-- INEG (R199). -/
def execIneg (e : BitVec 7) (k : BitVec 3) (s : State) : Host.Outcome State Fault Refusal :=
  s.onWorld (fun w => w.fireStage .ineg s.cur e.toNat k.toNat)

/-- IABS (R199). -/
def execIabs (e : BitVec 7) (k : BitVec 3) (s : State) : Host.Outcome State Fault Refusal :=
  s.onWorld (fun w => w.fireStage .iabs s.cur e.toNat k.toNat)

/-- IMIN (R199). -/
def execImin (e : BitVec 7) (k : BitVec 3) (s : State) : Host.Outcome State Fault Refusal :=
  s.onWorld (fun w => w.fireStage .imin s.cur e.toNat k.toNat)

/-- IMAX (R199). -/
def execImax (e : BitVec 7) (k : BitVec 3) (s : State) : Host.Outcome State Fault Refusal :=
  s.onWorld (fun w => w.fireStage .imax s.cur e.toNat k.toNat)

/-- ISADD (R199). -/
def execIsadd (e : BitVec 7) (k : BitVec 3) (s : State) : Host.Outcome State Fault Refusal :=
  s.onWorld (fun w => w.fireStage .isadd s.cur e.toNat k.toNat)

/-- ISSUB (R199). -/
def execIssub (e : BitVec 7) (k : BitVec 3) (s : State) : Host.Outcome State Fault Refusal :=
  s.onWorld (fun w => w.fireStage .issub s.cur e.toNat k.toNat)

/-- ICLAMP (R199). -/
def execIclamp (e : BitVec 7) (k : BitVec 3) (s : State) : Host.Outcome State Fault Refusal :=
  s.onWorld (fun w => w.fireStage .iclamp s.cur e.toNat k.toNat)

/-- STAGE_AND (R199). -/
def execStageAnd (e : BitVec 7) (k : BitVec 3) (s : State) : Host.Outcome State Fault Refusal :=
  s.onWorld (fun w => w.fireStage .stageAnd s.cur e.toNat k.toNat)

/-- STAGE_OR (R199). -/
def execStageOr (e : BitVec 7) (k : BitVec 3) (s : State) : Host.Outcome State Fault Refusal :=
  s.onWorld (fun w => w.fireStage .stageOr s.cur e.toNat k.toNat)

/-- STAGE_XOR (R199). -/
def execStageXor (e : BitVec 7) (k : BitVec 3) (s : State) : Host.Outcome State Fault Refusal :=
  s.onWorld (fun w => w.fireStage .stageXor s.cur e.toNat k.toNat)

/-- NOT (R199). -/
def execStageNot (e : BitVec 7) (k : BitVec 3) (s : State) : Host.Outcome State Fault Refusal :=
  s.onWorld (fun w => w.fireStage .stageNot s.cur e.toNat k.toNat)

/-- STAGE_SHL (R199). -/
def execStageShl (e : BitVec 7) (k : BitVec 3) (s : State) : Host.Outcome State Fault Refusal :=
  s.onWorld (fun w => w.fireStage .stageShl s.cur e.toNat k.toNat)

/-- STAGE_SHR (R199). -/
def execStageShr (e : BitVec 7) (k : BitVec 3) (s : State) : Host.Outcome State Fault Refusal :=
  s.onWorld (fun w => w.fireStage .stageShr s.cur e.toNat k.toNat)

/-- STAGE_SAR (R199). -/
def execStageSar (e : BitVec 7) (k : BitVec 3) (s : State) : Host.Outcome State Fault Refusal :=
  s.onWorld (fun w => w.fireStage .stageSar s.cur e.toNat k.toNat)

/-- ICMP (R199). -/
def execIcmp (e : BitVec 7) (k : BitVec 3) (s : State) : Host.Outcome State Fault Refusal :=
  s.onWorld (fun w => w.fireStage .icmp s.cur e.toNat k.toNat)

/-- SEL (R199). -/
def execSel (e : BitVec 7) (k : BitVec 3) (s : State) : Host.Outcome State Fault Refusal :=
  s.onWorld (fun w => w.fireStage .sel s.cur e.toNat k.toNat)

/-- IDOT4 (R200). -/
def execIdot4 (e : BitVec 7) (k : BitVec 3) (s : State) : Host.Outcome State Fault Refusal :=
  s.onWorld (fun w => w.fireStage .idot4 s.cur e.toNat k.toNat)

/-- IDOT2 (R200). -/
def execIdot2 (e : BitVec 7) (k : BitVec 3) (s : State) : Host.Outcome State Fault Refusal :=
  s.onWorld (fun w => w.fireStage .idot2 s.cur e.toNat k.toNat)

/-- FADD (R201). -/
def execFadd (e : BitVec 7) (k : BitVec 3) (s : State) : Host.Outcome State Fault Refusal :=
  s.onWorld (fun w => w.fireStage .fadd s.cur e.toNat k.toNat)

/-- FSUB (R201). -/
def execFsub (e : BitVec 7) (k : BitVec 3) (s : State) : Host.Outcome State Fault Refusal :=
  s.onWorld (fun w => w.fireStage .fsub s.cur e.toNat k.toNat)

/-- FMUL (R201). -/
def execFmul (e : BitVec 7) (k : BitVec 3) (s : State) : Host.Outcome State Fault Refusal :=
  s.onWorld (fun w => w.fireStage .fmul s.cur e.toNat k.toNat)

/-- FMA (R201). -/
def execFma (e : BitVec 7) (k : BitVec 3) (s : State) : Host.Outcome State Fault Refusal :=
  s.onWorld (fun w => w.fireStage .fma s.cur e.toNat k.toNat)

/-- FNMA (R201). -/
def execFnma (e : BitVec 7) (k : BitVec 3) (s : State) : Host.Outcome State Fault Refusal :=
  s.onWorld (fun w => w.fireStage .fnma s.cur e.toNat k.toNat)

/-- FMIN (R201). -/
def execFmin (e : BitVec 7) (k : BitVec 3) (s : State) : Host.Outcome State Fault Refusal :=
  s.onWorld (fun w => w.fireStage .fmin s.cur e.toNat k.toNat)

/-- FMAX (R201). -/
def execFmax (e : BitVec 7) (k : BitVec 3) (s : State) : Host.Outcome State Fault Refusal :=
  s.onWorld (fun w => w.fireStage .fmax s.cur e.toNat k.toNat)

/-- FABS (R201). -/
def execFabs (e : BitVec 7) (k : BitVec 3) (s : State) : Host.Outcome State Fault Refusal :=
  s.onWorld (fun w => w.fireStage .fabs s.cur e.toNat k.toNat)

/-- FNEG (R201). -/
def execFneg (e : BitVec 7) (k : BitVec 3) (s : State) : Host.Outcome State Fault Refusal :=
  s.onWorld (fun w => w.fireStage .fneg s.cur e.toNat k.toNat)

/-- FCMP (R201). -/
def execFcmp (e : BitVec 7) (k : BitVec 3) (s : State) : Host.Outcome State Fault Refusal :=
  s.onWorld (fun w => w.fireStage .fcmp s.cur e.toNat k.toNat)

/-- FCLAMP (R201). -/
def execFclamp (e : BitVec 7) (k : BitVec 3) (s : State) : Host.Outcome State Fault Refusal :=
  s.onWorld (fun w => w.fireStage .fclamp s.cur e.toNat k.toNat)

/-- RCP (R82). -/
def execRcp (e : BitVec 7) (k : BitVec 3) (s : State) : Host.Outcome State Fault Refusal :=
  s.onWorld (fun w => w.fireStage .rcp s.cur e.toNat k.toNat)

/-- RSQ (R82). -/
def execRsq (e : BitVec 7) (k : BitVec 3) (s : State) : Host.Outcome State Fault Refusal :=
  s.onWorld (fun w => w.fireStage .rsq s.cur e.toNat k.toNat)

/-- SQRT (R82). -/
def execSqrt (e : BitVec 7) (k : BitVec 3) (s : State) : Host.Outcome State Fault Refusal :=
  s.onWorld (fun w => w.fireStage .sqrt s.cur e.toNat k.toNat)

/-- EXP2 (R82). -/
def execExp2 (e : BitVec 7) (k : BitVec 3) (s : State) : Host.Outcome State Fault Refusal :=
  s.onWorld (fun w => w.fireStage .exp2 s.cur e.toNat k.toNat)

/-- LOG2 (R82). -/
def execLog2 (e : BitVec 7) (k : BitVec 3) (s : State) : Host.Outcome State Fault Refusal :=
  s.onWorld (fun w => w.fireStage .log2 s.cur e.toNat k.toNat)

/-- EXP (R82). -/
def execExp (e : BitVec 7) (k : BitVec 3) (s : State) : Host.Outcome State Fault Refusal :=
  s.onWorld (fun w => w.fireStage .exp s.cur e.toNat k.toNat)

/-- LOG (R82). -/
def execLog (e : BitVec 7) (k : BitVec 3) (s : State) : Host.Outcome State Fault Refusal :=
  s.onWorld (fun w => w.fireStage .log s.cur e.toNat k.toNat)

/-- TANH (R82). -/
def execTanh (e : BitVec 7) (k : BitVec 3) (s : State) : Host.Outcome State Fault Refusal :=
  s.onWorld (fun w => w.fireStage .tanh s.cur e.toNat k.toNat)

/-- SIGM (R82). -/
def execSigm (e : BitVec 7) (k : BitVec 3) (s : State) : Host.Outcome State Fault Refusal :=
  s.onWorld (fun w => w.fireStage .sigm s.cur e.toNat k.toNat)

/-- CVT (R202). -/
def execCvt (e : BitVec 7) (k : BitVec 3) (s : State) : Host.Outcome State Fault Refusal :=
  s.onWorld (fun w => w.fireStage .cvt s.cur e.toNat k.toNat)

/-- RINT (R203). -/
def execRint (e : BitVec 7) (k : BitVec 3) (s : State) : Host.Outcome State Fault Refusal :=
  s.onWorld (fun w => w.fireStage .rint s.cur e.toNat k.toNat)

/-- FTOI (R203). -/
def execFtoi (e : BitVec 7) (k : BitVec 3) (s : State) : Host.Outcome State Fault Refusal :=
  s.onWorld (fun w => w.fireStage .ftoi s.cur e.toNat k.toNat)

/-- ITOF (R203). -/
def execItof (e : BitVec 7) (k : BitVec 3) (s : State) : Host.Outcome State Fault Refusal :=
  s.onWorld (fun w => w.fireStage .itof s.cur e.toNat k.toNat)

/-- LSUM (R204). -/
def execLsum (e : BitVec 7) (k : BitVec 3) (s : State) : Host.Outcome State Fault Refusal :=
  s.onWorld (fun w => w.fireStage .lsum s.cur e.toNat k.toNat)

/-- LMAX (R204). -/
def execLmax (e : BitVec 7) (k : BitVec 3) (s : State) : Host.Outcome State Fault Refusal :=
  s.onWorld (fun w => w.fireStage .lmax s.cur e.toNat k.toNat)

/-- LMIN (R204). -/
def execLmin (e : BitVec 7) (k : BitVec 3) (s : State) : Host.Outcome State Fault Refusal :=
  s.onWorld (fun w => w.fireStage .lmin s.cur e.toNat k.toNat)

/-- LSCAN (R205). -/
def execLscan (e : BitVec 7) (k : BitVec 3) (s : State) : Host.Outcome State Fault Refusal :=
  s.onWorld (fun w => w.fireStage .lscan s.cur e.toNat k.toNat)

/-- LREC (R206). -/
def execLrec (e : BitVec 7) (k : BitVec 3) (s : State) : Host.Outcome State Fault Refusal :=
  s.onWorld (fun w => w.fireStage .lrec s.cur e.toNat k.toNat)

/-- SHUF (R207). -/
def execShuf (e : BitVec 7) (k : BitVec 3) (s : State) : Host.Outcome State Fault Refusal :=
  s.onWorld (fun w => w.fireStage .shuf s.cur e.toNat k.toNat)

/-- BCAST (R207). -/
def execBcast (e : BitVec 7) (k : BitVec 3) (s : State) : Host.Outcome State Fault Refusal :=
  s.onWorld (fun w => w.fireStage .bcast s.cur e.toNat k.toNat)

/-- LROT (R207). -/
def execLrot (e : BitVec 7) (k : BitVec 3) (s : State) : Host.Outcome State Fault Refusal :=
  s.onWorld (fun w => w.fireStage .lrot s.cur e.toNat k.toNat)

/-- STEER (R208). -/
def execSteer (e : BitVec 7) (k : BitVec 3) (s : State) : Host.Outcome State Fault Refusal :=
  s.onWorld (fun w => w.fireStage .steer s.cur e.toNat k.toNat)

/-- MERGE (R209). -/
def execMerge (e : BitVec 7) (k : BitVec 3) (s : State) : Host.Outcome State Fault Refusal :=
  s.onWorld (fun w => w.fireStage .merge s.cur e.toNat k.toNat)

/-- SWITCH (R210). -/
def execSwitch (e : BitVec 7) (k : BitVec 3) (s : State) : Host.Outcome State Fault Refusal :=
  s.onWorld (fun w => w.fireStage .switch s.cur e.toNat k.toNat)

/-- ROUTE (R211). -/
def execRoute (e : BitVec 7) (k : BitVec 3) (s : State) : Host.Outcome State Fault Refusal :=
  s.onWorld (fun w => w.fireStage .route s.cur e.toNat k.toNat)

/-- GATE (R212). -/
def execGate (e : BitVec 7) (k : BitVec 3) (s : State) : Host.Outcome State Fault Refusal :=
  s.onWorld (fun w => w.fireStage .gate s.cur e.toNat k.toNat)

/-- COUNT (R213). -/
def execCount (e : BitVec 7) (k : BitVec 3) (s : State) : Host.Outcome State Fault Refusal :=
  s.onWorld (fun w => w.fireStage .count s.cur e.toNat k.toNat)

/-- SPLOOP (R214). -/
def execSploop (e : BitVec 7) (k : BitVec 3) (s : State) : Host.Outcome State Fault Refusal :=
  s.onWorld (fun w => w.fireStage .sploop s.cur e.toNat k.toNat)

/-- ISECT (R215). -/
def execIsect (e : BitVec 7) (k : BitVec 3) (s : State) : Host.Outcome State Fault Refusal :=
  s.onWorld (fun w => w.fireStage .isect s.cur e.toNat k.toNat)

/-- SEQNO (R216). -/
def execSeqno (e : BitVec 7) (k : BitVec 3) (s : State) : Host.Outcome State Fault Refusal :=
  s.onWorld (fun w => w.fireStage .seqno s.cur e.toNat k.toNat)

/-- EOSGEN (R217). -/
def execEosgen (e : BitVec 7) (k : BitVec 3) (s : State) : Host.Outcome State Fault Refusal :=
  s.onWorld (fun w => w.fireStage .eosgen s.cur e.toNat k.toNat)

/-- PRUNE (R218). -/
def execPrune (e : BitVec 7) (k : BitVec 3) (s : State) : Host.Outcome State Fault Refusal :=
  s.onWorld (fun w => w.fireStage .prune s.cur e.toNat k.toNat)

/-- CONTRIB (R120). -/
def execContrib (e : BitVec 7) (k : BitVec 3) (s : State) : Host.Outcome State Fault Refusal :=
  s.onWorld (fun w => w.fireStage .contrib s.cur e.toNat k.toNat)

/-- MRD (R220). -/
def execMrd (e : BitVec 7) (k : BitVec 3) (s : State) : Host.Outcome State Fault Refusal :=
  s.onWorld (fun w => w.fireStage .mrd s.cur e.toNat k.toNat)

/-- MWR (R220). -/
def execMwr (e : BitVec 7) (k : BitVec 3) (s : State) : Host.Outcome State Fault Refusal :=
  s.onWorld (fun w => w.fireStage .mwr s.cur e.toNat k.toNat)

/-- MACC (R220). -/
def execMacc (e : BitVec 7) (k : BitVec 3) (s : State) : Host.Outcome State Fault Refusal :=
  s.onWorld (fun w => w.fireStage .macc s.cur e.toNat k.toNat)

/-- MPUSH (R222). -/
def execMpush (e : BitVec 7) (k : BitVec 3) (s : State) : Host.Outcome State Fault Refusal :=
  s.onWorld (fun w => w.fireStage .mpush s.cur e.toNat k.toNat)

/-- MPOP (R222). -/
def execMpop (e : BitVec 7) (k : BitVec 3) (s : State) : Host.Outcome State Fault Refusal :=
  s.onWorld (fun w => w.fireStage .mpop s.cur e.toNat k.toNat)

/-- MREORD (R223). -/
def execMreord (e : BitVec 7) (k : BitVec 3) (s : State) : Host.Outcome State Fault Refusal :=
  s.onWorld (fun w => w.fireStage .mreord s.cur e.toNat k.toNat)

/-- MREORD_RELEASE (R223). -/
def execMreordRelease (e : BitVec 7) (s : State) : Host.Outcome State Fault Refusal :=
  s.onWorld (fun w => w.release s.cur e.toNat)

/-- TOKEN_DELIVERY (R165, R180). -/
def execTokenDelivery (n : Nat) (s : State) : Host.Outcome State Fault Refusal :=
  s.onWorld (fun w => w.deliver s.cur n)

end Sys2Proof.Machine
end

