-- ==== Sys2Proof/Machine/HostEv.lean ====
section
/-! DEFINITION. Host commands, fencing, reset, links, die paths, heat, reports of errors, write frames (R341, R438, R441 to
R446, R450, R451). -/

namespace Sys2Proof.Machine

/-! Fencing (R450). -/

/-- The reset state of a control processor at a later cycle: CYCLE counts from here. -/
def Cp.resetAt (c now : Nat) : Cp :=
  let p := Cp.reset c
  { p with cycleOff := 0 - BitVec.ofNat 64 now, wdogStart := now }

/-- The units of a job that are assigned to core `c` never complete (R450). -/
def World.dropUnits (w : World) (c : Nat) : World :=
  let p := w.partOf c
  let j := w.job p
  let w := w.setEng c { w.eng c with unit := none }
  match j.job with
  | some x => w.setJob p { j with job := some { x with nextUnit := x.nextUnit.filter (fun q => q.1 != c) } }
  | none => w

/-- Is a command a SWAP or an ARM, which the end of its vat ends too (R259)? -/
def Command.onVat (k : Command) : Bool :=
  match k.instr with
  | .swap _ | .arm _ _ => true
  | _ => false

/-- Fence core `c`: its CP stops, its vats are killed, with the SWAPs and ARMs that wait, its units are dropped, the host is
told. -/
def State.fence (s : State) (c : Nat) : State :=
  let w := (List.range 8).foldl (fun w v => w.performKill c v) s.w
  let w := w.setEng c { w.eng c with
    fenced := true, marking := none, commands := (w.eng c).commands.filter (fun k => !k.onVat) }
  let w := w.dropUnits c
  let w := w.tell rpFENCED c 0 0
  { s with w := w, cps := Tbl.put s.cps c { cpOf s.cps c with mode := .stopped, waitFrom := none, locked := false } }

/-- Return core `c` to its reset state. The tokens that have come for it meanwhile are discarded. -/
def State.unfence (s : State) (c : Nat) : State :=
  { s with
    w := { s.w.setEng c Eng.reset with nets := s.w.nets.filter (fun n => !(n.dstCore = c && n.arrive ≤ s.w.cycle)) }
    cps := Tbl.put s.cps c (Cp.resetAt c s.w.cycle) }

/-- Restart core `c` at an entry: the special registers of R134 are as at reset, the units are left as they stand. -/
def State.restart (s : State) (c : Nat) (entry : Word) : State :=
  let g := s.w.eng c
  let g := { g.setPart s.w.cycle 0 with node := 0, tenant := 0, tfilt := [], masksWas := none, marking := none, tslot := 64, slotOld := 64, slotFrom := 0 }
  { s with
    w := s.w.setEng c g
    cps := Tbl.put s.cps c { Cp.resetAt c s.w.cycle with mode := .running, pc := entry } }

/-! Host commands (R441). -/

def hcDONE : Nat := 0
def hcBADCORE : Nat := 1
def hcBADOPERAND : Nat := 2

/-- The answer in HRSP. -/
def State.answer (s : State) (st : Nat) : State :=
  s.withWorld ({ s.w with host := { s.w.host with hrsp := 0x8000000000000000 ||| BitVec.ofNat 64 st } }.respond respOK)

/-- PRESS of the partition of core `c` with a table of image areas (R362, R441). -/
def State.hostPress (s : State) (c : Nat) (arg : Word) : State :=
  let a := bitsNat arg 0 49
  let t := s.w.pressTable (s.w.partOf c) a
  if t.any (fun q => (s.w.eng q.1).press.isSome) then s.withWorld (s.w.respond respBUSY)
  else if a % 8 != 0 || t.isEmpty || !s.w.areaOk ((t.map (·.1)).headD c) a (8 * t.length) then s.answer hcBADOPERAND
  else (s.withWorld (s.w.pressAll c true t)).answer hcDONE

/-- RESTART of core `c`: an entry that is no multiple of 4 is a bad operand (log 33). -/
def State.hostRestart (s : State) (c : Nat) (arg : Word) : State :=
  let entry := BitVec.ofNat 64 (bitsNat arg 0 49)
  if entry.extractLsb' 0 2 != 0 then s.answer hcBADOPERAND else (s.restart c entry).answer hcDONE

/-- A host writes HCMD: BUSY where a command has been taken in this cycle (R441). -/
def State.hostCommand (s : State) (f : State → State) : State :=
  if s.w.host.hcmdAt == some s.w.cycle then s.withWorld (s.w.respond respBUSY)
  else f (s.withWorld { s.w with host := { s.w.host with hcmdAt := some s.w.cycle } })

/-- The command of a value of HCMD. -/
def State.hcmd (s : State) (v : Word) : State :=
  let op := bitsNat v 56 8
  let c := bitsNat v 49 7
  let arg := BitVec.ofNat 64 (bitsNat v 0 49)
  if op = 0 || 4 < op then s.answer hcBADOPERAND
  else if 96 ≤ c then s.answer hcBADCORE
  else if op = 1 then s.hostPress c arg
  else if op = 2 then s.hostRestart c arg
  else if op = 3 then (s.fence c).answer hcDONE
  else (s.unfence c).answer hcDONE

/-! Reset (R446). -/

/-- The bytes of core 0's DRAM column. -/
def romColumn : Nat := 0x100000000

/-- The package is reset: memory keeps its content (log 23), but for core 0's column, which the boot ROM initialises, with zeros
as the model's choice (R446, log 23); what has left the package stays gone, and what others have sent is still to come. The
ROM's training of port 0 comes with LINK_UP. -/
def State.resetAll (s : State) : State :=
  { s with
    cps := []
    cur := 0
    w := { World.reset with
      mem := s.w.mem.filter (fun q => romColumn ≤ q.1), free := s.w.free
      eccUe := s.w.eccUe.filter (romColumn ≤ ·), eccCe := s.w.eccCe.filter (romColumn ≤ ·), images := s.w.images, frames := s.w.frames
      tokensIn := s.w.tokensIn, reducesIn := s.w.reducesIn } }

/-! Links (R443, R444). -/

/-- Number of scale-up ports. -/
def linkPorts : Nat := 36

def World.link (w : World) (p : Nat) : LinkPort := Tbl.get w.links LinkPort.reset p
def World.setLink (w : World) (p : Nat) (x : LinkPort) : World := { w with links := Tbl.put w.links p x }

/-- Saturating 16-bit counter. -/
def satInc16 (x : BitVec 16) : BitVec 16 := if x == BitVec.allOnes 16 then x else x + 1

/-- Replays of one flit that fail before its port goes down (R443). -/
def replayLimit : Nat := 8

/-- A port goes down, and the host is told. Frames queued for it wait (R443): `frames` holds them. -/
def World.portDown (w : World) (p : Nat) : World :=
  let x := w.link p
  (w.setLink p { x with up := false, tries := 0 }).tell rpLINK 0 (BitVec.ofNat 64 p) (x.peer.setWidth 64)

/-- LINK_REPLAY: a flit is replayed. Whether it is the flit of the replay before, which has failed then, is a free value (log
10); after eight failed replays of one flit there is none more, and the port goes down. -/
def World.linkReplay (w : World) (p : Nat) : World :=
  let x := w.link p
  if p < linkPorts && x.up then
    let (f, w) := w.fresh
    if f.getLsbD 0 && replayLimit ≤ x.tries then w.portDown p
    else w.setLink p { x with replays := satInc16 x.replays, tries := if f.getLsbD 0 then x.tries + 1 else 1 }
  else w

/-- LINK_DOWN: the eighth replay of a flit has failed too (R443). -/
def World.linkDown (w : World) (p : Nat) : World :=
  let x := w.link p
  if p < linkPorts && x.up && replayLimit ≤ x.tries then w.portDown p else w

/-- LINK_UP: the peer's node is the link's own: a free value (log 10). -/
def World.linkUp (w : World) (p : Nat) : World :=
  if p < linkPorts && !(w.link p).up then
    let (f, w) := w.fresh
    let peer := f.extractLsb' 0 14
    (w.setLink p { up := true, peer := peer, replays := 0, tries := 0 }).tell rpLINK 0 (BitVec.ofNat 64 p) (peer.setWidth 64)
  else w

/-- FECC: flits that FEC has corrected since reset, in units of 2^16, saturating (R444). -/
def fecCount (p now : Nat) : BitVec 16 :=
  BitVec.ofNat 16 (min (((List.range now).map (Config.fecFlits p)).sum / 65536) 65535)

/-- LSTAT of a port. -/
def World.lstat (w : World) (p : Nat) : Word :=
  let x := w.link p
  BitVec.ofBool x.up ++ x.peer ++ (0 : BitVec 17) ++ x.replays ++ fecCount p w.cycle

/-! Die paths, heat, errors (R445, R451, R442). -/

/-- DIE_PATH_FAILURE: every core of the die on the side away from core 0 is fenced. -/
def State.diePath (s : State) (die : Nat) : State :=
  if die = 0 then s else (List.range 24).foldl (fun s i => s.fence (24 * die + i)) s

/-- ACLK of a die, in MHz. -/
def World.aclkOf (w : World) (die : Nat) : Nat := Tbl.get w.aclk 1750 die

/-- THERMAL: ACLK drops one step. -/
def World.thermal (w : World) (die : Nat) : World :=
  let m := w.aclkOf die
  if m ≤ 875 then w
  else
    { w with aclk := Tbl.put w.aclk die (m - 125) }.tell rpTHERMAL 0 (BitVec.ofNat 64 (m - 125)) (BitVec.ofNat 64 die)

/-- Cycles after which an error that is not taken is reported. -/
def eccPatience : Nat := 2 ^ 20

/-- ECC_UE_REPORT. -/
def State.eccUeReport (s : State) : State :=
  let g := s.eng
  match g.eccAt, g.pend.find? (fun p => p.code == cECCUE) with
  | some t, some p =>
    if s.cp.ie || s.w.cycle - t < eccPatience then s
    else
      s.withWorld ((s.w.setEng s.cur { g with eccAt := none }).tell rpECC s.cur p.info.t0 p.info.t1)
  | _, _ => s

/-! Write frames (R341). -/

/-- A write frame to memory of the package; hosts are not checked (R402). -/
def World.frameWrite (w : World) (a : Nat) (bs : List Byte) : World :=
  let last := regionOf (a + (bs.length - 1))
  match regionOf a with
  | .dram _ =>
    match last with
    | .dram _ => (w.store a bs).respond respOK
    | _ => w.respond respDECODE
  | .pad k e _ =>
    let g := w.eng k
    match (g.cfg e).bankMode with
    | .ram =>
      match last with
      | .pad m f _ => if m = k && f = e then (w.store a bs).respond respOK else w.respond respDECODE
      | _ => w.respond respDECODE
    | .fifo =>
      if bs.length = 64 ∧ a % 64 = 0 then
        match w.fifoPush k e bs with
        | some w' => w'.respond respOK
        | none => w.respond respBUSY
      else w.respond respDECODE
    | .reorder | .unused => w.respond respDECODE
  | .ingress k off =>
    if bs.length = 64 then w.ingressPayload k off (BitVec.ofNat 512 (leNat bs))
    else if bs.length = 8 && off = 0x040 then w.ingressSideband k (BitVec.ofNat 64 (leNat bs))
    else w.respond respDECODE
  | .window _ _ | .absent => w.respond respDECODE

/-! The events. -/

/-- HCMD_PRESS (R441). -/
def execHcmdPress (arg : BitVec 64) (s : State) : Host.Outcome State Fault Refusal := .next (s.hostCommand (fun s => s.hostPress s.cur arg))

/-- HCMD_RESTART (R441). -/
def execHcmdRestart (entry : BitVec 64) (s : State) : Host.Outcome State Fault Refusal :=
  .next (s.hostCommand (fun s => s.hostRestart s.cur entry))

/-- HCMD_FENCE (R450). -/
def execHcmdFence (s : State) : Host.Outcome State Fault Refusal := .next (s.hostCommand (fun s => (s.fence s.cur).answer hcDONE))

/-- HCMD_UNFENCE (R450). -/
def execHcmdUnfence (s : State) : Host.Outcome State Fault Refusal := .next (s.hostCommand (fun s => (s.unfence s.cur).answer hcDONE))

/-- RESET (R446). -/
def execReset (s : State) : Host.Outcome State Fault Refusal := .next s.resetAll

/-- LINK_REPLAY (R443). -/
def execLinkReplay (port : BitVec 6) (s : State) : Host.Outcome State Fault Refusal :=
  s.onWorld (fun w => w.linkReplay port.toNat)

/-- LINK_DOWN (R443). -/
def execLinkDown (port : BitVec 6) (s : State) : Host.Outcome State Fault Refusal :=
  s.onWorld (fun w => w.linkDown port.toNat)

/-- LINK_UP (R444). -/
def execLinkUp (port : BitVec 6) (s : State) : Host.Outcome State Fault Refusal :=
  s.onWorld (fun w => w.linkUp port.toNat)

/-- DIE_PATH_FAILURE (R445). -/
def execDiePathFailure (die : BitVec 2) (s : State) : Host.Outcome State Fault Refusal := .next (s.diePath die.toNat)

/-- THERMAL (R451). -/
def execThermal (die : BitVec 2) (s : State) : Host.Outcome State Fault Refusal :=
  s.onWorld (fun w => w.thermal die.toNat)

/-- ECC_UE_REPORT (R442). -/
def execEccUeReport (s : State) : Host.Outcome State Fault Refusal := .next s.eccUeReport

/-- WRITE_FRAME (R341). -/
def execWriteFrame (addr : BitVec 50) (data : List (BitVec 8)) (s : State) : Host.Outcome State Fault Refusal :=
  s.onWorld (fun w => w.frameWrite addr.toNat data)

end Sys2Proof.Machine
end

