-- ==== Sys2Proof/Machine/Window.lean ====
section
/-! DEFINITION. The register window: which register stands at an offset, who may read and write it, what a read and a write
do (R141, R250, R252, R303, R359, R390, R391, R399, R403, R406, R409, R416, R438 to R442, R450). -/

namespace Sys2Proof.Machine

/-- A register of a window. -/
inductive WinReg where
  | sr (n : Nat)
  | vatWord (v : Nat)
  | mle (m : Nat) (tag : Bool)
  | jqd (q : Nat)
  | stream (s : Nat)
  | posted (s : Nat)
  | node (n : Nat)
  | copy (p : Nat)
  | hmsg
  | hrbase | hrcfg | hrwidx | hrridx | hcmd | hrsp | boot | pwr
  | lstat (p : Nat)
  | accFlags (n t : Nat)
  | mcpol
  | plock
  | gstat (p : Nat)
  | sink (k r : Nat)
  | reach (i : Nat)
deriving DecidableEq, Repr

/-- The unit registers of the host block. -/
def hostReg (off : Nat) : Option WinReg :=
  if off = 0xC100 then some .hrbase
  else if off = 0xC108 then some .hrcfg
  else if off = 0xC110 then some .hrwidx
  else if off = 0xC118 then some .hrridx
  else if off = 0xC120 then some .hcmd
  else if off = 0xC128 then some .hrsp
  else if off = 0xC130 then some .boot
  else if off = 0xC138 then some .pwr
  else if 0xC200 ≤ off && off < 0xC200 + 8 * linkPorts then some (.lstat ((off - 0xC200) / 8))
  else none

/-- The unit registers that only one core of a die or of the package has. -/
def packageReg (c off : Nat) : Option WinReg :=
  if c = 0 && 0xC100 ≤ off && off ≤ 0xC318 then hostReg off
  else if c % 24 = 0 && 0xE100 ≤ off && off < 0xE300 then
    (if (off - 0xE100) % 64 ≤ 0x20 then
      some (.sink (sinkKey (c / 24) ((off - 0xE100) / 64)) ((off - 0xE100) % 64 / 8)) else none)
  else if c = 0 && 0xF000 ≤ off && off < 0xF200 then some (.reach ((off - 0xF000) / 8))
  else none

/-- The unit registers of every core; `lowest` says that the core is the lowest of its partition that is not fenced. -/
def coreReg (lowest : Bool) (off : Nat) : Option WinReg :=
  if 0x8000 ≤ off && off < 0x8040 then some (.vatWord ((off - 0x8000) / 8))
  else if lowest && 0x9000 ≤ off && off < 0x9080 then some (.mle ((off - 0x9000) / 16) (off % 16 = 8))
  else if lowest && 0x9100 ≤ off && off < 0x9180 then some (.jqd ((off - 0x9100) / 8))
  else if 0xA000 ≤ off && off < 0xA200 then
    (if off % 16 = 0 then some (.stream ((off - 0xA000) / 16)) else some (.posted ((off - 0xA000) / 16)))
  else if 0xA200 ≤ off && off < 0xA240 && off % 16 = 0 then some (.node ((off - 0xA200) / 16))
  else if 0xB000 ≤ off && off < 0xB200 then some (.copy ((off - 0xB000) / 8))
  else if off = 0xC000 then some .hmsg
  else if 0xD000 ≤ off && off < 0xD040 then some (.accFlags ((off - 0xD000) / 16) ((off - 0xD000) / 8 % 2))
  else if off = 0xD200 then some .mcpol
  else if 0xE000 ≤ off && off < 0xE040 then some (.gstat ((off - 0xE000) / 8))
  else none

/-- Is core `c` the lowest core of its partition that is not fenced (R250, R439)? -/
def World.lowestCore (w : World) (c : Nat) : Bool := (w.partCores (w.partOf c)).head? == some c

/-- The register at an offset of core `c`'s window; none: an absent or misaligned one. A fenced core shows PLOCK and the
blocks of the package and the die (R450). -/
def World.winReg (w : World) (c off : Nat) : Option WinReg :=
  if off % 8 != 0 then none
  else if off = 0xD300 then some .plock
  else
    match packageReg c off with
    | some r => some r
    | none =>
      if (w.eng c).fenced then none
      else if off < 0x8000 then some (.sr (off / 8))
      else coreReg (w.lowestCore c) off

/-! Who may (R141, R402). -/

/-- Is an agent the privileged code of the owning partition, of partition 0, or a host? A trace context belongs to the
partition it serves, a guard's counts to the port's own (R409, R416). -/
def World.owns (w : World) (c : Nat) (r : WinReg) : Agent → Bool
  | .host => true
  | .core k =>
    let p := (w.eng k.toNat).partid
    match r with
    | .sink x _ => (w.sink x).part == p
    | .gstat _ => (w.eng c).partid == p
    | _ => p == 0 || (w.eng c).partid == p

/-- Does the register's entry let an owner read it? -/
def WinReg.readable (r : WinReg) (a : Agent) : Bool :=
  match r with
  | .hcmd => false
  | .hmsg => a != .host
  | .hrridx | .boot => a == .host
  | _ => true

/-- Does the register's entry let an owner write it? -/
def WinReg.writable (r : WinReg) (a : Agent) : Bool :=
  match r with
  | .sr _ | .vatWord _ | .mle _ _ | .stream _ | .node _ | .copy _ | .mcpol => true
  | .jqd _ | .hmsg | .hrbase | .hrcfg | .hrridx | .hcmd | .boot | .plock | .reach _ => a == .host
  | .sink _ k => k = 3 || (k ≤ 1 && a == .host)
  | .posted _ | .hrwidx | .hrsp | .pwr | .lstat _ | .accFlags _ _ | .gstat _ => false

/-! Reads. -/

def RunState.code : RunState → BitVec 4
  | .idle => 0
  | .running => 1
  | .faulted => 2
  | .ended => 3

/-- A control word (R303). -/
def controlWord (st : RunState) (mode : BitVec 3) (reason : BitVec 4) (errcnt : BitVec 16) : Word :=
  st.code ++ mode ++ (0 : BitVec 5) ++ reason ++ errcnt ++ (0 : BitVec 32)

/-- A register of a trace context (R416). -/
def Sink.reg (x : Sink) (k : Nat) : Word :=
  if k = 0 then x.base
  else if k = 1 then x.cfg
  else if k = 2 then x.widx.setWidth 64
  else if k = 3 then x.ridx.setWidth 64
  else x.stalls ++ x.drops

/-- What a register of core `c`'s window holds. -/
def State.winRead (s : State) (c : Nat) (r : WinReg) : Word :=
  let w := s.w
  let g := w.eng c
  let h := w.host
  match r with
  | .sr n => s.srRead c n
  | .vatWord v => (g.vat v).window
  | .mle m tag => let e := Tbl.get (w.job (w.partOf c)).mles Mle.empty m; if tag then e.w1 else e.w0
  | .jqd q => BitVec.ofNat 64 ((w.job (w.partOf c)).queue q).length
  | .stream k => let x := g.stream k; controlWord x.state (g.streamCfg k).modeOf x.reason x.errcnt
  | .posted k => (g.stream k).posted
  | .node n => controlWord (g.mxn n).state 0 (g.mxn n).reason 0
  | .copy p => match g.copy p with
    | some x => controlWord x.state 0 x.reason 0
    | none => controlWord .idle 0 (Tbl.get g.copyReason 0 p) 0
  | .hmsg => g.hmsg
  | .hrbase => h.hrbase
  | .hrcfg => h.hrcfg
  | .hrwidx => h.hrlost ++ h.hrwidx
  | .hrridx => h.hrridx.setWidth 64
  | .hcmd => 0
  | .hrsp => h.hrsp
  | .boot => h.boot
  | .pwr => (Config.powerWatts w.cycle).setWidth 64
  | .lstat p => w.lstat p
  | .accFlags n t => ((g.mxn n).tiles.toList.getD t MxTile.reset).flagWord
  | .mcpol => g.mcpol
  | .plock => g.plock
  | .gstat p => (g.port p).total ++ (g.port p).dcnt
  | .sink k r => (w.sink k).reg r
  | .reach i => Tbl.get w.reach 0 i

/-- A read by an agent: the value, or the error's status (R438). -/
def State.windowRead (s : State) (a : Agent) (c off : Nat) : Except (BitVec 2) Word :=
  match s.w.winReg c off with
  | none => .error respDECODE
  | some r =>
    let absent : Bool := match r with
      | .sr n => srView true (s.w.eng c).locked n == .absent
      | _ => false
    if absent then .error respDECODE
    else if !(s.w.owns c r a && r.readable a) then .error respPERM
    else .ok (s.winRead c r)

/-! Writes. -/

/-- A write of a trace context (R416). -/
def World.sinkWrite (w : World) (k r : Nat) (v : Word) : BitVec 2 × World :=
  let x := w.sink k
  if r = 0 then
    if v.extractLsb' 0 12 != 0 || v.extractLsb' 50 14 != 0 then (respPERM, w)
    else if x.en then (respBUSY, w)
    else (respOK, w.setSink k { x with base := v })
  else if r = 1 then
    let y : Sink := { x with cfg := v }
    if v.extractLsb' 11 37 != 0 || v.extractLsb' 5 4 != 0 || (y.en && (y.log2n < 8 || 24 < y.log2n)) then (respPERM, w)
    else if x.en && (y.part != x.part || y.lossless != x.lossless || y.log2n != x.log2n) then (respBUSY, w)
    else
      (respOK, w.setSink k (if y.en && !x.en then { y with widx := 0, ridx := 0, drops := 0, stalls := 0 } else y))
  else if v.extractLsb' 32 32 != 0 || 2 ^ x.log2n < (x.widx - v.extractLsb' 0 32).toNat then (respPERM, w)
  else (respOK, w.setSink k { x with ridx := v.extractLsb' 0 32 })

/-- A host's message: pending, with the last one written (R354, R359). -/
def Eng.message (g : Eng) (v : Word) : Eng :=
  let g := { g with hmsg := v }
  if g.pend.any (fun p => p.code == cHOSTMSG) then
    { g with pend := g.pend.map (fun p => if p.code == cHOSTMSG then { p with info := ⟨v, 1, 0, 0⟩ } else p) }
  else g.raise ⟨cHOSTMSG, 0, ⟨v, 0, 0, 0⟩⟩

/-- A retry (R303): the value must be 1, the unit FAULTED. -/
def retryAnswer (w : World) (v : Word) (r : Option World) : BitVec 2 × World :=
  if v != 1 then (respPERM, w)
  else
    match r with
    | some w' => (respOK, w')
    | none => (respBUSY, w)

/-- A doorbell (R439). -/
def World.doorbell (w : World) (c q : Nat) (v : Word) : BitVec 2 × World :=
  let p := w.partOf c
  let j := w.job p
  if 64 ≤ (j.queue q).length then (respBUSY, w)
  else (respOK, w.setJob p (j.append q ⟨BitVec.ofNat 64 (bitsNat v 0 50), none, none⟩))

/-- A message-launch entry's word (R250). -/
def World.mleWrite (w : World) (c m : Nat) (tag : Bool) (v : Word) : BitVec 2 × World :=
  let p := w.partOf c
  let j := w.job p
  let e := Tbl.get j.mles Mle.empty m
  let bad := if tag then v.extractLsb' 16 48 != 0 else v.extractLsb' 56 8 != 0 || v.extractLsb' 1 5 != 0
  if bad then (respPERM, w)
  else (respOK, w.setJob p { j with mles := Tbl.put j.mles m (if tag then { e with w1 := v } else { e with w0 := v }) })

/-- A register of the host block (R440); LOG2N is checked when EN is set (log 33). -/
def World.hostWrite (w : World) (r : WinReg) (v : Word) : BitVec 2 × World :=
  let h := w.host
  match r with
  | .hrbase => if v.extractLsb' 0 5 != 0 then (respPERM, w) else (respOK, { w with host := { h with hrbase := v } })
  | .hrcfg =>
    let n := bitsNat v 0 5
    if v.extractLsb' 9 55 != 0 || v.extractLsb' 5 3 != 0 || (v.getLsbD 8 && (n < 4 || 16 < n)) then (respPERM, w)
    else (respOK, { w with host := { h with hrcfg := v } })
  | .hrridx =>
    if v.extractLsb' 32 32 != 0 then (respPERM, w)
    else (respOK, { w with host := { h with hrridx := v.extractLsb' 0 32 } })
  | _ => (respPERM, w)

/-- Note that the window has written a special register in this cycle: an SRW of the same cycle comes before it (R141), in the
mode that was in force then, `prv`. -/
def Cp.windowWon (p : Cp) (prv : Bool) (now n : Nat) : Cp :=
  let before := if p.winAt = now then p.winSrs else []
  { p with winSrs := n :: before, winPrv := if before.isEmpty then prv else p.winPrv, winAt := now }

/-- A special register through the window: the privileged view (R141). -/
def State.srWindow (s : State) (c n : Nat) (v : Word) : BitVec 2 × State :=
  match srView true (s.w.eng c).locked n with
  | .absent => (respDECODE, s)
  | .r => (respPERM, s)
  | .rw =>
    if s.srLegal c n v then
      let prv := (cpOf s.cps c).prv
      let s := s.srWrite c n v
      (respOK, { s with cps := Tbl.put s.cps c ((cpOf s.cps c).windowWon prv s.w.cycle n) })
    else (respPERM, s)

/-- Write a register of core `c`'s window: the status, and the machine after. -/
def State.winWrite (s : State) (c : Nat) (r : WinReg) (v : Word) : BitVec 2 × State :=
  let w := s.w
  let g := w.eng c
  let of (q : BitVec 2 × World) : BitVec 2 × State := (q.1, s.withWorld q.2)
  let eng (g : Eng) : BitVec 2 × State := (respOK, s.withWorld (w.setEng c g))
  match r with
  | .sr n => s.srWindow c n v
  | .vatWord k => eng (g.setVat k { g.vat k with window := v })
  | .mle m tag => of (w.mleWrite c m tag v)
  | .jqd q => of (w.doorbell c q v)
  | .stream k => of (retryAnswer w v (w.retryStream c k))
  | .node n => of (retryAnswer w v (w.retryNode c n))
  | .copy p => of (retryAnswer w v (w.retryCopy c p))
  | .hmsg => eng (g.message v)
  | .hrbase | .hrcfg | .hrridx => of (w.hostWrite r v)
  | .hcmd => let s' := s.hostCommand (fun s => s.hcmd v); (s'.w.resp, s')
  | .boot => s.bootWrite v
  | .mcpol => if v.extractLsb' 1 63 != 0 then (respPERM, s) else eng { g with mcpol := v }
  | .plock => if v.extractLsb' 1 63 != 0 then (respPERM, s) else eng { g with plock := v }
  | .sink k i => of (w.sinkWrite k i v)
  | .reach i =>
    if v.extractLsb' 16 5 != 0 then (respPERM, s)
    else (respOK, s.withWorld (w.setReach i v))
  | .posted _ | .hrwidx | .hrsp | .pwr | .lstat _ | .accFlags _ _ | .gstat _ => (respPERM, s)

/-- Is an agent a host, or does its control processor run privileged code (R141)? -/
def State.privileged (s : State) : Agent → Bool
  | .host => true
  | .core k => (cpOf s.cps k.toNat).prv

/-- A write by an agent: the status, and the machine after (R438). -/
def State.windowWrite (s : State) (a : Agent) (c off : Nat) (v : Word) : BitVec 2 × State :=
  match s.w.winReg c off with
  | none => (respDECODE, s)
  | some r => if s.privileged a && s.w.owns c r a && r.writable a then s.winWrite c r v else (respPERM, s)

/-- A write that is an event: its status is the response. -/
def State.windowEvent (s : State) (a : Agent) (c off : Nat) (v : Word) : State :=
  let (r, s) := s.windowWrite a c off v
  s.withWorld (s.w.respond r)

/-! The events. -/

/-- STREAM_RETRY (R303): the value 1 to a stream's control word. -/
def execStreamRetry (k : BitVec 5) (agent : Agent) (s : State) : Host.Outcome State Fault Refusal :=
  .next (s.windowEvent agent s.cur (0xA000 + 16 * k.toNat) 1)

/-- COPY_RETRY (R303). -/
def execCopyRetry (p : BitVec 6) (agent : Agent) (s : State) : Host.Outcome State Fault Refusal :=
  .next (s.windowEvent agent s.cur (0xB000 + 8 * p.toNat) 1)

/-- JQD_WRITE (R439). -/
def execJqdWrite (q : BitVec 4) (val : BitVec 64) (agent : Agent) (s : State) : Host.Outcome State Fault Refusal :=
  .next (s.windowEvent agent s.cur (0x9100 + 8 * q.toNat) val)

/-- WDOG_WRITE (R139). -/
def execWdogWrite (val : BitVec 64) (agent : Agent) (s : State) : Host.Outcome State Fault Refusal :=
  .next (s.windowEvent agent s.cur (8 * 0x024) val)

/-- HMSG_WRITE (R359). -/
def execHmsgWrite (val : BitVec 64) (agent : Agent) (s : State) : Host.Outcome State Fault Refusal :=
  .next (s.windowEvent agent s.cur 0xC000 val)

/-- The offset of register `r` of a trace context. -/
def sinkOffset (x r : Nat) : Nat := 0xE100 + 64 * x + 8 * r

/-- SRIDX_WRITE (R416). -/
def execSridxWrite (die : BitVec 2) (x : BitVec 3) (val : BitVec 64) (agent : Agent) (s : State) :
    Host.Outcome State Fault Refusal :=
  .next (s.windowEvent agent (24 * die.toNat) (sinkOffset x.toNat 3) val)

/-- SCFG_WRITE (R416). -/
def execScfgWrite (die : BitVec 2) (x : BitVec 3) (val : BitVec 64) (agent : Agent) (s : State) :
    Host.Outcome State Fault Refusal :=
  .next (s.windowEvent agent (24 * die.toNat) (sinkOffset x.toNat 1) val)

/-- SBASE_WRITE (R416). -/
def execSbaseWrite (die : BitVec 2) (x : BitVec 3) (val : BitVec 64) (agent : Agent) (s : State) :
    Host.Outcome State Fault Refusal :=
  .next (s.windowEvent agent (24 * die.toNat) (sinkOffset x.toNat 0) val)

/-- WINDOW_WRITE (R141): only aligned 8-byte accesses are accepted. -/
def execWindowWrite (addr : BitVec 50) (width : BitVec 2) (val : BitVec 64) (agent : Agent) (s : State) :
    Host.Outcome State Fault Refusal :=
  .next (match regionOf addr.toNat with
    | .window c off =>
      if width = 3 then s.windowEvent agent c off val else s.withWorld (s.w.respond respDECODE)
    | _ => s.withWorld (s.w.respond respDECODE))

end Sys2Proof.Machine
end

