-- ==== Sys2Proof/Machine/LoadStore.lean ====
section
/-! DEFINITION. Memory accesses of the control processor: the store buffer, loads, stores, AMO, CAS, FENCE, SBAR and WAIT
(R143, R276, R277, R333 to R351, R402). -/

namespace Sys2Proof.Machine

/-! The store buffer (R143; log 6). -/

/-- Places of the store buffer. -/
def storePlaces : Nat := 8

/-- A store joins the buffer; a full one performs its oldest first. -/
def World.buffer (w : World) (c : Nat) (p : PendingStore) : World :=
  let w := if storePlaces ≤ (w.eng c).storeBuf.length then w.drainOne c else w
  let g := w.eng c
  w.setEng c { g with storeBuf := g.storeBuf ++ [p] }

/-- The byte at an address as the CP sees it behind its own stores (R333). -/
def seenByte (buf : List PendingStore) (mem : List Host.Cell) (a : Nat) : Byte :=
  match buf.reverse.find? (fun p => p.addr ≤ a && a < p.addr + p.len) with
  | some p => p.data.extractLsb' (8 * (a - p.addr)) 8
  | none => memRead mem a

def World.seenBytes (w : World) (c a n : Nat) : List Byte :=
  (List.range n).map (fun i => seenByte (w.eng c).storeBuf w.mem (a + i))

/-! Accesses (R277, R298 to R302, R345, R354, R402). -/

/-- The agent that the CP is at a register window (R141). -/
def State.agent (s : State) : Agent := .core (BitVec.ofNat 7 s.cur)

/-- Traps of an access. -/
def State.xlate (s : State) (va : Word) (r : Refused) (write : Bool) : Trap := trapXlate va r write false s.cp.asid
def State.bus (s : State) (va : Word) (write : Bool) : Trap := s.xlate va ⟨rBUS, 0⟩ write
def trapEcc (mem : BitVec 4) (a : Nat) : Trap := ⟨cECCUE, ⟨BitVec.ofNat 64 a, eccInfo mem true false 0, 0, 0⟩⟩

/-- A trap of an access; a failing word makes its event too (R415). -/
def State.memTrap (s : State) (t : Trap) : State :=
  let s := s.trap t
  if t.code == cECCUE then s.withWorld (s.w.emit s.cur uCP tECCUE (t.info.t1.setWidth 32)) else s

/-- Why an access does not come about: a trap, or a wait for a walk in the world that holds its request. -/
inductive MemStop where
  | trap (t : Trap)
  | walk (w : World)

/-- An access that does not come about: its instruction traps, or waits and tries again. -/
def State.memStop (s : State) : MemStop → State
  | .trap t => s.memTrap t
  | .walk w => s.awaitWalk w

/-- An access behind its translation, which the world `w` gave. -/
def State.stopOf (s : State) (va : Word) (w : World) (write : Bool) : XlatStop → MemStop
  | .refused r => .trap (s.xlate va r write)
  | .walk => .walk w

/-- Does a store that waits hold the byte at an address? -/
def heldByte (buf : List PendingStore) (a : Nat) : Bool := buf.any (fun p => p.addr ≤ a && a < p.addr + p.len)

/-- The lowest of some failing words that a load reads: one of which some byte is not the load's own store's (R333). -/
def World.failingLoad (w : World) (ues : List Nat) (c a n : Nat) : Option Nat :=
  (ues.filter (fun u => (List.range n).any (fun i =>
    (checkWord u).1 ≤ a + i && a + i < (checkWord u).1 + (checkWord u).2 && !heldByte (w.eng c).storeBuf (a + i)))).min?

/-- Corrected words that the CP reads in its cache: the event, and they are gone (R415, R448). -/
def World.cacheCorrected (w : World) (c a n : Nat) : World :=
  let g := w.eng c
  match wordsIn g.cacheCe a n with
  | [] => w
  | us => (w.setEng c { g with cacheCe := g.cacheCe.filter (fun u => !us.contains u) }).eccCorrected c uCP memCache 0

/-- Corrected words that the CP reads, in its cache and in the memory behind it. -/
def World.cpCorrected (w : World) (c a n : Nat) : World := (w.cacheCorrected c a n).corrected c uCP 0 a n

/-- Plain bytes read by the CP: a word may fail in its cache or in the memory behind it (R448). -/
def State.plainRead (s : State) (a n : Nat) : Except Trap (Nat × State) :=
  match s.w.failingLoad s.eng.cacheUe s.cur a n, s.w.failingLoad s.w.eccUe s.cur a n with
  | some u, _ => .error (trapEcc memCache u)
  | none, some u => .error (trapEcc (memAt u) u)
  | none, none => .ok (leNat (s.w.seenBytes s.cur a n), s.withWorld (s.w.cpCorrected s.cur a n))

/-- Read `n` bytes at a physical address. -/
def State.physRead (s : State) (va : Word) (pa : PhysAddr) (n : Nat) (write : Bool) : Except Trap (Nat × State) :=
  if pa.remote then
    if s.w.mayReach s.cur pa then
      .ok (leNat (remoteBytes pa.node.toNat pa.addr s.w.free n), s.withWorld { s.w with free := s.w.free + 1 })
    else .error (s.bus va write)
  else
    match regionOf pa.addr with
    | .dram _ => if s.w.mayReach s.cur pa then s.plainRead pa.addr n else .error (s.bus va write)
    | .pad k e _ =>
      match s.w.mayReach s.cur pa, ((s.w.eng k).cfg e).bankMode with
      | true, .ram => s.plainRead pa.addr n
      | _, _ => .error (s.bus va write)
    | .window k off =>
      if s.cp.prv && n = 8 then
        match s.windowRead s.agent k off with
        | .ok v => .ok (v.toNat, s)
        | .error _ => .error (s.bus va write)
      else .error (s.bus va write)
    | .ingress _ _ | .absent => .error (s.bus va write)

/-- Write `n` bytes at a physical address; `now` performs the write at once, behind every earlier one. -/
def State.physWrite (s : State) (va : Word) (pa : PhysAddr) (n : Nat) (v : BitVec 512) (now : Bool) :
    Except Trap State :=
  let put (w : World) : World :=
    if now then (w.drainAll s.cur).performStore ⟨pa.addr, n, v⟩ else w.buffer s.cur ⟨pa.addr, n, v⟩
  if pa.remote then
    if s.w.mayReach s.cur pa then
      .ok (s.withWorld ((s.w.drainAll s.cur).sendFrame pa.node.toNat pa.addr s.eng.partid (leBytes n v.toNat)))
    else .error (s.bus va true)
  else
    match regionOf pa.addr with
    | .dram _ => if s.w.mayReach s.cur pa then .ok (s.withWorld (put s.w)) else .error (s.bus va true)
    | .pad k e _ =>
      match s.w.mayReach s.cur pa, ((s.w.eng k).cfg e).bankMode with
      | true, .ram => .ok (s.withWorld (put s.w))
      | _, _ => .error (s.bus va true)
    | .window k off =>
      if s.cp.prv && n = 8 then
        let s1 := s.withWorld (s.w.drainAll s.cur)
        let (r, s2) := s1.windowWrite s.agent k off (v.setWidth 64)
        if r == respOK then .ok s2 else .error (s.bus va true)
      else .error (s.bus va true)
    | .ingress _ _ | .absent => .error (s.bus va true)

/-- Load `n` bytes at a virtual address, aligned. -/
def State.load (s : State) (va : Word) (n : Nat) : Except MemStop (Nat × State) :=
  match s.translate .read va with
  | (.error r, w) => .error (s.stopOf va w false r)
  | (.ok pa, w) => ((s.withWorld w).physRead va pa n false).mapError .trap

/-- Store `n` bytes at a virtual address, aligned. -/
def State.store (s : State) (va : Word) (n : Nat) (v : BitVec 512) (now : Bool) : Except MemStop State :=
  match s.translate .write va with
  | (.error r, w) => .error (s.stopOf va w true r)
  | (.ok pa, w) => ((s.withWorld w).physWrite va pa n v now).mapError .trap

/-- Store words of four bytes one behind the other, each a store of its own, under one translation. -/
def State.storeWords (s : State) (va : Word) (vs : List (BitVec 32)) : Except MemStop State :=
  match s.translate .write va with
  | (.error r, w) => .error (s.stopOf va w true r)
  | (.ok pa, w) =>
    (vs.zipIdx.foldlM (fun (t : State) q =>
      t.physWrite va { pa with addr := pa.addr + 4 * q.2 } 4 (q.1.setWidth 512) false) (s.withWorld w)).mapError .trap

/-- Read, and write what a function of the old bytes says, with nothing between (R342): the old bytes. -/
def State.readWrite (s : State) (va : Word) (n : Nat) (f : Nat → Option Nat) : Except MemStop (Nat × State) :=
  match s.translate .readWrite va with
  | (.error r, w) => .error (s.stopOf va w true r)
  | (.ok pa, w) =>
    match (s.withWorld (w.drainAll s.cur)).physRead va pa n true with
    | .error t => .error (.trap t)
    | .ok (old, s1) =>
      match f old with
      | none => .ok (old, s1)
      | some new =>
        match s1.physWrite va pa n (BitVec.ofNat 512 new) true with
        | .error t => .error (.trap t)
        | .ok s2 => .ok (old, s2)

/-! LD, LDU, ST (R344, R345). -/

/-- Bytes of a width code (R46). -/
def bytesOf (w : BitVec 2) : Nat := 2 ^ w.toNat

/-- The address of a displacement. -/
def State.dispAddr (s : State) (a : Reg) (w : BitVec 2) (i : BitVec 10) : Word :=
  s.reg a + i.signExtend 64 * BitVec.ofNat 64 (bytesOf w)

/-- Extend `n` bytes to a register. -/
def sextBytes (n v : Nat) : Word := if n = 1 then (BitVec.ofNat 8 v).signExtend 64
  else if n = 2 then (BitVec.ofNat 16 v).signExtend 64
  else if n = 4 then (BitVec.ofNat 32 v).signExtend 64
  else BitVec.ofNat 64 v

/-- A load with its extension. -/
def State.loadTo (s : State) (d : Reg) (va : Word) (n : Nat) (ext : Nat → Word) : State :=
  if va.toNat % n != 0 then s.trap (trapMisalign va)
  else
    match s.load va n with
    | .error e => s.memStop e
    | .ok (v, s1) => s1.finish d (ext v)

/-- LD (R345). -/
def execLd (d a : Reg) (w _o _p : BitVec 2) (i : BitVec 10) (s : State) : Host.Outcome State Fault Refusal :=
  .next (s.loadTo d (s.dispAddr a w i) (bytesOf w) (sextBytes (bytesOf w)))

/-- LDU (R345). -/
def execLdu (d a : Reg) (w _o _p : BitVec 2) (i : BitVec 10) (s : State) : Host.Outcome State Fault Refusal :=
  .next (s.loadTo d (s.dispAddr a w i) (bytesOf w) (BitVec.ofNat 64))

/-- ST (R345): a release store is performed behind every earlier store. -/
def execSt (r a : Reg) (w o _p : BitVec 2) (i : BitVec 10) (s : State) : Host.Outcome State Fault Refusal :=
  let va := s.dispAddr a w i
  let n := bytesOf w
  .next (
    if va.toNat % n != 0 then s.trap (trapMisalign va)
    else
      match s.store va n (BitVec.ofNat 512 ((s.reg r).toNat % 256 ^ n)) (o == 2) with
      | .error e => s.memStop e
      | .ok s1 => s1.done)

/-! AMO (R346). -/

/-- An AMO of `n` bytes: the new value from the old one and the register's. -/
def State.amo (s : State) (d b a : Reg) (w : BitVec 2) (f : Nat → Nat → Nat → Nat) : State :=
  let n := bytesOf w
  let va := s.reg a
  if va.toNat % n != 0 then s.trap (trapMisalign va)
  else
    match s.readWrite va n (fun old => some (f n old ((s.reg b).toNat % 256 ^ n) % 256 ^ n)) with
    | .error e => s.memStop e
    | .ok (old, s1) => s1.finish d (sextBytes n old)

/-- Signed and unsigned choices of `n` bytes. -/
def smaller (n x y : Nat) : Nat := if (sextBytes n x).sle (sextBytes n y) then x else y
def larger (n x y : Nat) : Nat := if (sextBytes n x).sle (sextBytes n y) then y else x

/-- AMOADD (R346). -/
def execAmoadd (d a b : Reg) (w _o _p : BitVec 2) (s : State) : Host.Outcome State Fault Refusal :=
  .next (s.amo d b a w (fun _ old x => old + x))

/-- AMOAND (R346). -/
def execAmoand (d a b : Reg) (w _o _p : BitVec 2) (s : State) : Host.Outcome State Fault Refusal :=
  .next (s.amo d b a w (fun _ old x => old &&& x))

/-- AMOOR (R346). -/
def execAmoor (d a b : Reg) (w _o _p : BitVec 2) (s : State) : Host.Outcome State Fault Refusal :=
  .next (s.amo d b a w (fun _ old x => old ||| x))

/-- AMOXOR (R346). -/
def execAmoxor (d a b : Reg) (w _o _p : BitVec 2) (s : State) : Host.Outcome State Fault Refusal :=
  .next (s.amo d b a w (fun _ old x => old ^^^ x))

/-- AMOMIN (R346). -/
def execAmomin (d a b : Reg) (w _o _p : BitVec 2) (s : State) : Host.Outcome State Fault Refusal :=
  .next (s.amo d b a w smaller)

/-- AMOMAX (R346). -/
def execAmomax (d a b : Reg) (w _o _p : BitVec 2) (s : State) : Host.Outcome State Fault Refusal :=
  .next (s.amo d b a w larger)

/-- AMOMINU (R346). -/
def execAmominu (d a b : Reg) (w _o _p : BitVec 2) (s : State) : Host.Outcome State Fault Refusal :=
  .next (s.amo d b a w (fun _ old x => min old x))

/-- AMOMAXU (R346). -/
def execAmomaxu (d a b : Reg) (w _o _p : BitVec 2) (s : State) : Host.Outcome State Fault Refusal :=
  .next (s.amo d b a w (fun _ old x => max old x))

/-- AMOSWAP (R346). -/
def execAmoswap (d a b : Reg) (w _o _p : BitVec 2) (s : State) : Host.Outcome State Fault Refusal :=
  .next (s.amo d b a w (fun _ _ x => x))

/-! CAS (R347). -/

/-- The register behind one of a pair. -/
def nextReg (r : Reg) : Reg := r + 1

/-- A pair of registers as one number, the lower-numbered register lowest. -/
def State.pair (s : State) (r : Reg) : Nat := (s.reg r).toNat + 2 ^ 64 * (s.reg (nextReg r)).toNat

/-- Complete an instruction that writes a pair of registers. -/
def State.finishPair (s : State) (d : Reg) (v : Nat) : State :=
  s.withCp ((s.cp.setReg d (BitVec.ofNat 64 v)).setReg (nextReg d) (BitVec.ofNat 64 (v / 2 ^ 64))).advance

/-- CAS_D (R347). -/
def execCasD (d a b : Reg) (_o _p : BitVec 2) (s : State) : Host.Outcome State Fault Refusal :=
  let va := s.reg a
  .next (
    if va.toNat % 8 != 0 then s.trap (trapMisalign va)
    else
      match s.readWrite va 8 (fun old => if old = (s.reg d).toNat then some (s.reg b).toNat else none) with
      | .error e => s.memStop e
      | .ok (old, s1) => s1.finish d (BitVec.ofNat 64 old))

/-- CAS_Q (R347). -/
def execCasQ (d a b : Reg) (_o _p : BitVec 2) (s : State) : Host.Outcome State Fault Refusal :=
  let va := s.reg a
  .next (
    if va.toNat % 16 != 0 then s.trap (trapMisalign va)
    else
      match s.readWrite va 16 (fun old => if old = s.pair d then some (s.pair b) else none) with
      | .error e => s.memStop e
      | .ok (old, s1) => s1.finishPair d old)

/-! FENCE, SBAR, WAIT (R348 to R351). -/

/-- FENCE (R349): the kinds that order writes are a release at the scope. -/
def execFence (o p : BitVec 2) (s : State) : Host.Outcome State Fault Refusal :=
  .next (if o = 1 then s.done else (s.withWorld (s.w.releaseAt s.cur p)).done)

/-- The address generator a stream command is performed by. -/
def Instr.generator : Instr → Option Nat
  | .sdef _ k | .sgo _ _ k | .tok _ k | .trcv _ _ k => some (k.toNat / 2)
  | _ => none

/-- Does a command wait for one of the address generators of a mask of streams? -/
def Eng.generatorsBusy (g : Eng) (mask : Word) : Bool :=
  g.commands.any (fun k => match Instr.generator k.instr with
    | some n => mask.getLsbD (2 * n) || mask.getLsbD (2 * n + 1)
    | none => false)

/-- SBAR (R350): every access that a stream has started is performed in this model (log 6). -/
def execSbar (a : Reg) (p : BitVec 2) (s : State) : Host.Outcome State Fault Refusal :=
  .next (
    if (s.reg a).extractLsb' 32 32 != 0 then s.trap (trapIllegalInfo (.sbar a p) (s.reg a) 0)
    else if s.eng.generatorsBusy (s.reg a) then s
    else s.done)

/-- WAIT (R351): it leaves at the threshold, or at a wake. -/
def execWait (d a b : Reg) (_o _p : BitVec 2) (s : State) : Host.Outcome State Fault Refusal :=
  let va := s.reg a
  .next (
    if va.toNat % 8 != 0 then s.trap (trapMisalign va)
    else
      match s.load va 8 with
      | .error e => s.memStop e
      | .ok (v, s1) =>
        if s1.eng.wake then (s1.withEng { s1.eng with wake := false }).finish d (BitVec.ofNat 64 v)
        else if (s.reg b).toNat ≤ v then s1.finish d (BitVec.ofNat 64 v)
        else s1)

end Sys2Proof.Machine
end

