-- ==== Sys2Proof/Machine/CurdOps.lean ====
section
/-! DEFINITION. The CURD instructions of the control processor (R109 to R118). -/

namespace Sys2Proof.Machine

/-! Traps (R110). -/

def trapUnbound (reason : Nat) : Trap := ⟨cUNBOUND, ⟨BitVec.ofNat 64 reason, 0, 0, 0⟩⟩

/-- CURD_POISON names the register and the first position of POISON. -/
def trapPoison (c : CurdReg) (x : Curd) : Trap := ⟨cPOISON, ⟨c.setWidth 64, (x.first.get 5).setWidth 64, 0, 0⟩⟩

/-- The register an instruction names. -/
def State.curd (s : State) (c : CurdReg) : Curd := s.eng.curd c.toNat

def State.withCurd (s : State) (c : CurdReg) (x : Curd) : State := s.withEng (s.eng.setCurd c.toNat x)

/-- CURDCTL.PTRAP (R103). -/
def Cp.ptrap (c : Cp) : Bool := c.curdctl.getLsbD 0

/-! CDECL (R90, R93, R110, R111). -/

/-- Load the doublewords of a record, in order. -/
def State.loadWords (s : State) : List Word → Except MemStop (List Word × State)
  | [] => .ok ([], s)
  | a :: t =>
    match s.load a 8 with
    | .error e => .error e
    | .ok (v, s1) =>
      match s1.loadWords t with
      | .error e => .error e
      | .ok (vs, s2) => .ok (BitVec.ofNat 64 v :: vs, s2)

/-- The eight binding words of the two middle doublewords of a record. -/
def bindsOf (w1 w2 : Word) : Vector (BitVec 16) 8 := Vector.ofFn (fun j => (w2 ++ w1).extractLsb' (16 * j.val) 16)

/-- CDECL. -/
def execCdecl (c : CurdReg) (a : Reg) (s : State) : Host.Outcome State Fault Refusal :=
  let va := s.reg a
  .next (
    if va.toNat % 8 != 0 then s.trap (trapMisalign va)
    else
      match s.loadWords [va, va + 8, va + 16, va + 24] with
      | .error e => s.memStop e
      | .ok (ws, s1) =>
        let w0 := ws.getD 0 0
        let bs := bindsOf (ws.getD 1 0) (ws.getD 2 0)
        match recordError w0 bs.toList (ws.getD 3 0) with
        | some o => s1.trap (trapIllegalInfo (.cdecl c a) va (BitVec.ofNat 64 o))
        | none => (s1.withCurd c (Curd.declare w0 bs)).done)

/-! CPUT (R99, R112). -/

/-- The contribution of CPUT: element `e` alone, a value of the register's own format (log 25). -/
def Curd.putOf (x : Curd) (e : Nat) (v : Word) (close : Bool) : Contribution where
  data := v.setWidth 512 <<< (if x.isAff then 64 * e else 32 * e)
  valid := if x.isAff then BitVec.ofNat 16 (3 * 2 ^ (2 * e)) else BitVec.ofNat 16 (2 ^ e)
  fmt := x.fmtCode
  exactIn := true
  close := close
  p := false

/-- CPUT enters at position `j`, under its own use number. -/
def Curd.put (x : Curd) (j : Fin 8) (e : Nat) (v : Word) (close : Bool) : Curd :=
  { x.setPart j (x.enterOpen (x.putOf e v close) (0x10 + 8 * x.cputs.toNat + 7) (x.part j)) with cputs := x.cputs + 1 }

/-- CPUT; with close it is a release at core scope. -/
def execCput (c : CurdReg) (a : Reg) (x : BitVec 1) (e : BitVec 4) (s : State) : Host.Outcome State Fault Refusal :=
  let r := s.curd c
  .next (
    if r.isAff && 7 < e.toNat then s.trap (trapIllegal (.cput c a x e))
    else if !r.declared then s.trap (trapUnbound 0)
    else
      match r.position bindCp with
      | none => s.trap (trapUnbound 1)
      | some j =>
        if (r.part j).closed then s.trap (trapUnbound 2)
        else
          let s1 := if x == 1 then s.withWorld (s.w.releaseAt s.cur 0) else s
          (s1.withCurd c (r.put j e.toNat (s.reg a) (x == 1))).done)

/-! Reads (R104, R113, R114). -/

/-- A read of element `e` over positions 0 to `k` into a register; `.all` waits. -/
def State.curdRead (s : State) (c : CurdReg) (d : Reg) (k e : Nat) (all : Bool) : State :=
  let r := s.curd c
  if all && !r.allClosed k then s
  else
    let (vals, r1, poison) := r.readAll k
    let s1 := s.withCurd c r1
    if poison && s.cp.ptrap then s1.trap (trapPoison c r1) else s1.finish d (BitVec.ofNat 64 (vals.getD e 0))

/-- CRD. -/
def execCrd (c : CurdReg) (d : Reg) (e : BitVec 4) (w : BitVec 1) (s : State) : Host.Outcome State Fault Refusal :=
  let r := s.curd c
  .next (
    if r.isAff && 7 < e.toNat then s.trap (trapIllegal (.crd c d e w))
    else if !r.declared then s.trap (trapUnbound 0)
    else s.curdRead c d 7 e.toNat (w == 0))

/-- CRDP: the positions and the element come from a register. -/
def execCrdp (c : CurdReg) (d b : Reg) (w : BitVec 1) (s : State) : Host.Outcome State Fault Refusal :=
  let r := s.curd c
  let v := s.reg b
  .next (
    if !r.declared then s.trap (trapUnbound 0)
    else s.curdRead c d (bitsNat v 4 3) (if r.isAff then bitsNat v 0 3 else bitsNat v 0 4) (w == 0))

/-- Bytes of an image (R91, R114). -/
def Curd.imageLen (x : Curd) : Nat := if x.isAff then 64 else 16 * x.elemSize

/-- CRDM: the address is checked, then the wait, the fold, POISON, the store. -/
def execCrdm (c : CurdReg) (a : Reg) (w : BitVec 1) (o _p : BitVec 2) (s : State) : Host.Outcome State Fault Refusal :=
  let r := s.curd c
  let va := s.reg a
  let n := r.imageLen
  .next (
    if !r.declared then s.trap (trapUnbound 0)
    else if va.toNat % n != 0 then s.trap (trapMisalign va)
    else
      match s.store va n 0 false with
      | .error e => s.memStop e
      | .ok _ =>
        if w == 0 && !r.allClosed 7 then s
        else
          let (vals, r1, poison) := r.readAll 7
          let s1 := s.withCurd c r1
          if poison && s.cp.ptrap then s1.trap (trapPoison c r1)
          else
            match s1.store va n (BitVec.ofNat 512 (leNat (r.image vals))) (o == 2) with
            | .error e => s1.memStop e
            | .ok s2 => s2.done)

/-! SETTLE, CCLR, CSTAT (R115 to R118). -/

/-- SETTLE. -/
def execSettle (c : CurdReg) (s : State) : Host.Outcome State Fault Refusal :=
  let r := s.curd c
  .next (
    if !r.declared then s.trap (trapUnbound 0)
    else if !r.allClosed 7 then s
    else
      let (r1, poison) := r.settle
      if poison && s.cp.ptrap then
        let r2 := { r with arose := r1.arose, first := r1.first }
        (s.withCurd c r2).trap (trapPoison c r2)
      else (s.withCurd c r1).done)

/-- CCLR. -/
def execCclr (c : CurdReg) (s : State) : Host.Outcome State Fault Refusal :=
  let r := s.curd c
  .next (if !r.declared then s.trap (trapUnbound 0) else (s.withCurd c r.clear).done)

/-- CSTAT: word 0, 1 or 2. -/
def execCstat (c : CurdReg) (d : Reg) (sel : BitVec 5) (s : State) : Host.Outcome State Fault Refusal :=
  let r := s.curd c
  .next (s.finish d (if sel == 0 then r.statWord0 else if sel == 1 then r.statWord1 else r.statWord2))

end Sys2Proof.Machine
end

