-- ==== Sys2Proof/Machine/Sys.lean ====
section
/-! DEFINITION. The SYS instructions, the taking of an asynchronous cause, the watchdog's end (R139, R353 to R361, R442). -/

namespace Sys2Proof.Machine

/-- NOP (R43). -/
def execNop (s : State) : Host.Outcome State Fault Refusal := .next s.done

/-- TRAP (R354, R359): it returns past the instruction. -/
def execTrap (n : BitVec 12) (s : State) : Host.Outcome State Fault Refusal :=
  .next (s.trapAt ⟨cTRAP, ⟨n.setWidth 64, 0, 0, 0⟩⟩ (s.cp.pc + 4))

/-- BRK (R354, R359). -/
def execBrk (n : BitVec 12) (s : State) : Host.Outcome State Fault Refusal :=
  .next (s.trap ⟨cBRK, ⟨n.setWidth 64, 0, 0, 0⟩⟩)

/-- ERET (R271, R359): under DENSE it releases the held query as well. -/
def execEret (s : State) : Host.Outcome State Fault Refusal :=
  .next (
    if !s.cp.prv then s.trap (trapPriv .eret)
    else
      let w := if s.cp.tcause.extractLsb' 0 8 == cDENSE then
          s.w.releaseQuery s.cur (s.cp.tinfo.t0.extractLsb' 0 5).toNat (s.cp.tinfo.t3.getLsbD 0)
        else s.w
      (s.withCp s.cp.leaveTrap).withWorld w)

/-- IDLE (R359): it completes once an asynchronous cause is pending. -/
def execIdle (s : State) : Host.Outcome State Fault Refusal :=
  .next (
    if !s.cp.prv then s.trap (trapPriv .idle)
    else if s.eng.anyPending then (s.withCp { s.cp with mode := .running }).done
    else s.withCp { s.cp with mode := .idling })

/-! TLBI (R304, R360). -/

/-- Drop an entry of a unit. -/
def TlbiKind.keep (k : TlbiKind) (t : Option TlbEntry) : Option TlbEntry :=
  match t with
  | some e => if k.names e then none else some e
  | none => none

/-- The invalidation: the TLB of the core, the entries of its streams and copies, those of its nodes, which the model has and
no rule names (log 14), and the results of the walks that run. -/
def Eng.invalidate (g : Eng) (k : TlbiKind) : Eng :=
  { g with
    tlb := g.tlb.filter (fun t => !k.names t)
    streams := g.streams.map (fun q => (q.1, { q.2 with entry := k.keep q.2.entry }))
    copies := g.copies.map (fun q => (q.1, { q.2 with srcEntry := k.keep q.2.srcEntry, dstEntry := k.keep q.2.dstEntry }))
    mx := g.mx.map (fun q => (q.1, { q.2 with entry := k.keep q.2.entry }))
    walks := g.walks.map (fun q => if q.live then { q with named := q.named ++ [k] } else q) }

/-- TLBI of a kind: privileged only. The accesses already translated are performed before it completes (R304): those of units
are at once, and the stores that wait are. -/
def State.tlbi (s : State) (i : Instr) (k : TlbiKind) : State :=
  if !s.cp.prv then s.trap (trapPriv i)
  else
    let s1 := s.withWorld (s.w.drainAll s.cur)
    (s1.withEng (s1.eng.invalidate k)).done

/-- TLBI all. -/
def execTlbiAll (s : State) : Host.Outcome State Fault Refusal := .next (s.tlbi .tlbiAll .all)

/-- TLBI asid: bits above the identifier must be zero. In user mode PRIV comes before the test of the operand's value: the
model's choice (log 26). -/
def execTlbiAsid (a : Reg) (s : State) : Host.Outcome State Fault Refusal :=
  .next (
    if s.cp.prv && (s.reg a).extractLsb' 16 48 != 0 then s.trap (trapIllegal (.tlbiAsid a))
    else s.tlbi (.tlbiAsid a) (.asid ((s.reg a).extractLsb' 0 16)))

/-- TLBI va. -/
def execTlbiVa (a : Reg) (s : State) : Host.Outcome State Fault Refusal :=
  .next (s.tlbi (.tlbiVa a) (.va s.cp.asid (s.reg a).toNat))

/-- TLBI vaall. -/
def execTlbiVaall (a : Reg) (s : State) : Host.Outcome State Fault Refusal :=
  .next (s.tlbi (.tlbiVaall a) (.vaall (s.reg a).toNat))

/-! ASYNC_TRAP_ENTRY (R353, R355, R356). -/

/-- What taking a cause does to its source: ECC_UE is no longer pending; GUARD_DROP takes the count of its port. -/
def Eng.taken (g : Eng) (p : Pending) : Eng :=
  let g := { g with pend := g.pend.filter (fun q => !(q.code == p.code && q.source == p.source)) }
  let g := if g.pend.any (fun q => q.code == cECCUE) then g else { g with eccAt := none }
  if p.code == cGUARD then
    let x := Tbl.get g.ports EpState.reset p.source
    { g with ports := Tbl.put g.ports p.source { x with dcnt := 0 } }
  else g

/-- The information words at the taking: GUARD_DROP counts up to it. -/
def Eng.infoOf (g : Eng) (p : Pending) : TInfo :=
  if p.code == cGUARD then
    { p.info with t1 := ((Tbl.get g.ports EpState.reset p.source).dcnt).setWidth 64 }
  else p.info

/-- Is a command a CFGW? -/
def Command.isCfgw (k : Command) : Bool :=
  match k.instr with
  | .cfgw _ _ => true
  | _ => false

/-- A CFGW that an asynchronous trap interrupts has had no effect: its command leaves the queue, and its load is undone. -/
def Vat.uncfgw (x : Vat) : Vat :=
  match x.loadAt with
  | some k =>
    if k.isCfgw then
      { x with
        loadAt := none
        cst := if x.cstCode != 0 then .incomplete else if x.culture.isSome then .loaded else .empty }
    else x
  | none => x

/-- Drop what an interrupted CFGW had asked for. -/
def Eng.uncfgw (g : Eng) : Eng :=
  { g with
    commands := g.commands.filter (fun k => !k.isCfgw)
    walks := g.walks.filter (fun k => match k.who with
      | .unit u => !(List.range 8).any (fun v => u = addrVat v && (g.vat v).loadAt.any Command.isCfgw)
      | _ => true)
    vats := g.vats.map (fun q => (q.1, q.2.uncfgw)) }

/-- Has a slot performed the commands before, and does it load no plane? -/
def Eng.slotReady (g : Eng) (v : Nat) : Bool := !(g.unitBusy v || (g.vat v).cst == .loading)

/-- Does an asynchronous trap undo a press: that of a PRESS save? -/
def Eng.undoesPress (g : Eng) : Bool := match g.press with | some p => p.issuer && !p.part | none => false

/-- A press that an asynchronous trap interrupts has had no effect: its markers are gone, those between edge ports too, and
every unit goes on (R355). -/
def World.unpress (w : World) (c : Nat) : World :=
  let g := w.eng c
  if g.undoesPress then
    { w.setEng c { g.unmarked with flights := g.flights.filter (fun f => f.tok.kind != kPRESS), walks := g.walks } with
      nets := w.nets.filter (fun n => !(n.tok.kind == kPRESS && n.srcCore = c && n.dstCore = c)) }
  else w

/-- Is the fault of a residue of a slot pending? -/
def Eng.residueRaised (g : Eng) (v : Nat) : Bool :=
  (g.vat v).state == .residue && g.pend.any (fun p => p.code == cVATFAULT && p.source == v)

/-- Has what the control processor waits for in a CFGW or a PRESS save come about? It then completes before a cause is
taken, a CFGW of a slot with a residue after the trap (R229). -/
def State.answered (s : State) : Bool :=
  match s.cp.waitFrom with
  | some v => s.eng.slotReady v && !s.eng.residueRaised v
  | none => match s.eng.press with
    | some p => p.issuer && !p.part && p.status.isSome
    | none => false

/-- Is an asynchronous cause to be taken at this boundary? -/
def State.asyncDue (s : State) : Option Pending :=
  if s.cp.ie && !s.cp.locked && s.cp.mode == .running && !s.answered then nextPending s.eng.pend else none

/-- The guards of the core have seen what has arrived in this cycle, where the cause to be taken counts their drops (R410). -/
def State.guardsSeen (s : State) (p : Pending) : State :=
  if p.code == cGUARD then s.withWorld ((s.w.arrived s.cur).guardCycle s.cur) else s

/-- Take the asynchronous cause that comes first. -/
def State.takeAsync (s0 : State) : State :=
  match s0.asyncDue with
  | none => s0
  | some p =>
    let s := s0.guardsSeen p
    let g := s.eng.taken p
    let s1 := if s.cp.waitFrom.isSome then s.withEng g.uncfgw else s.withWorld ((s.w.setEng s.cur g).unpress s.cur)
    let s2 := s1.withCp (s1.cp.enterTrap p.code true s1.cp.pc (s.eng.infoOf p))
    s2.withWorld (s2.w.emit s2.cur uCP tTRAP ((BitVec.ofBool true ++ p.code).setWidth 32))

/-- ASYNC_TRAP_ENTRY. -/
def execAsyncTrapEntry (s : State) : Host.Outcome State Fault Refusal := .next s.takeAsync

/-! WDOG_EXPIRE (R139, R442). -/

/-- The watchdog of the core reaches zero: the processor stops and the host is told. -/
def State.wdogExpire (s : State) : State :=
  if s.cp.expires s.w.cycle then
    (s.withCp { s.cp with mode := .stopped }).withWorld
      ((s.w.setEng s.cur { s.eng with marking := none }).tell rpWDOG s.cur s.cp.fetched (s.cp.wdogLimit.setWidth 64))
  else s

/-- WDOG_EXPIRE. -/
def execWdogExpire (s : State) : Host.Outcome State Fault Refusal := .next s.wdogExpire

end Sys2Proof.Machine
end

