-- ==== Sys2Proof/Machine/Command.lean ====
section
/-! DEFINITION. The command queue of a control processor: accepting a command, the unit it is for, what waits for it
(R145, R355). -/

namespace Sys2Proof.Machine

/-- Places of the command queue (R145). -/
def commandPlaces : Nat := 16

/-- Has a unit performed every command before an instruction that waits for its answer, and may it perform one now? -/
def State.unitReady (s : State) (key : Nat) : Bool := !s.eng.unitBusy key && !s.eng.pressing

/-- Has the queue a place? -/
def State.queueRoom (s : State) : Bool := decide (s.eng.commands.length < commandPlaces)

/-- The queue accepts a command, which releases the accesses before it at core scope. -/
def State.accept (s : State) (k : Command) : State :=
  let s1 := s.withWorld (s.w.releaseAt s.cur 0)
  s1.withEng { s1.eng with commands := s1.eng.commands ++ [k] }

/-- A command that waits for its own answer (R145, R254): a full queue stalls it; once accepted it has released the
accesses before it. It holds no place for good, since nothing follows it before it completes. -/
def State.awaited (s : State) (f : State → State) : State :=
  if s.queueRoom then f (s.withWorld (s.w.releaseAt s.cur 0)) else s

/-- A command: it completes when the queue accepts it; a full queue stalls it. -/
def State.issue (s : State) (i : Instr) (x y : Word) : State :=
  if s.queueRoom then (s.accept (s.commandOf i x y)).done else s

end Sys2Proof.Machine
end

