-- ==== Sys2Proof/Machine/VatOps.lean ====
section
/-! DEFINITION. The VAT instructions, RCSNAP and PLANE_EXCHANGE (R211, R253 to R260, R371). -/

namespace Sys2Proof.Machine

/-! CFG and CFGW (R253 to R255). -/

/-- CFG as the slot performs it: the culture plane is LOADING; it waits while an earlier load runs. -/
def World.performCfg (w : World) (c v : Nat) (k : Command) : Option World :=
  let g := w.eng c
  let x := g.vat v
  if x.cst == .loading then none else some (w.setEng c (g.setVat v { x with cst := .loading, loadAt := some k }))

/-- CFG. -/
def execCfg (a : Reg) (v : BitVec 3) (s : State) : Host.Outcome State Fault Refusal :=
  let x := s.reg a
  .next (if x.toNat % 64 != 0 then s.trap (trapMisalign x) else s.issue (.cfg a v) x 0)

/-- CFGW: the command goes to the queue once, and the instruction completes when the slot has performed it and the load
has ended. -/
def execCfgw (a : Reg) (v : BitVec 3) (s : State) : Host.Outcome State Fault Refusal :=
  let x := s.reg a
  .next (
    if x.toNat % 64 != 0 then s.trap (trapMisalign x)
    else
      match s.cp.waitFrom with
      | none =>
        if s.queueRoom then
          let s1 := s.accept (s.commandOf (.cfgw a v) x 0)
          s1.withCp { s1.cp with waitFrom := some v.toNat }
        else s
      | some _ =>
        if s.eng.slotReady v.toNat then (s.withCp { s.cp with waitFrom := none }).done else s)

/-! SWAP, ARM, DRAIN, VKILL. -/

/-- SWAP. -/
def execSwap (v : BitVec 3) (s : State) : Host.Outcome State Fault Refusal := .next (s.issue (.swap v) 0 0)

/-- ARM. -/
def execArm (a : Reg) (v : BitVec 3) (s : State) : Host.Outcome State Fault Refusal :=
  let x := s.reg a
  .next (if x.toNat % 8 != 0 then s.trap (trapMisalign x) else s.issue (.arm a v) x 0)

/-- DRAIN. -/
def execDrain (v : BitVec 3) (s : State) : Host.Outcome State Fault Refusal := .next (s.issue (.drain v) 0 0)

/-- VKILL. -/
def execVkill (v : BitVec 3) (s : State) : Host.Outcome State Fault Refusal := .next (s.issue (.vkill v) 0 0)

/-! VWAIT, VSTAT (R254, R258, R260). -/

/-- VWAIT: it completes when the slot has performed the commands before it and holds no vat under way. -/
def execVwait (v : BitVec 3) (s : State) : Host.Outcome State Fault Refusal :=
  .next (s.awaited (fun s => if s.eng.unitBusy v.toNat || (s.eng.vat v.toNat).state.live then s else s.done))

/-- VSTAT: it waits for the commands before it. -/
def execVstat (d : Reg) (sel : BitVec 5) (v : BitVec 3) (s : State) : Host.Outcome State Fault Refusal :=
  .next (s.awaited (fun s =>
    if s.eng.unitBusy v.toNat then s else s.finish d (s.eng.vstat v.toNat sel.toNat)))

/-! RCSNAP (R211, R371). -/

/-- The counters that RCSNAP reads: those of a stage that holds ROUTE in the slot's active plane, else none. -/
def Eng.routeStage (g : Eng) (v e k : Nat) : Option StageState :=
  let x := g.vat v
  if x.state != .free && x.has e && e < 128 && ((g.cfg e).stage k).ops.contains .route then some ((g.elem e).stage k)
  else none

/-- The eight counters, zeros where there are none. -/
def counterWords (st : Option StageState) : List (BitVec 32) :=
  match st with
  | some x => x.counters.toList
  | none => List.replicate 8 0

/-- The counters of a stage set to zero. -/
def Eng.clearCounters (g : Eng) (e k : Nat) : Eng :=
  g.setElem e ((g.elem e).setStage k { (g.elem e).stage k with counters := Vector.replicate 8 0 })

/-- RCSNAP: it waits, uninterrupted, for the commands of the slot before it; each counter is a store of its own. -/
def execRcsnap (a b : Reg) (s : State) : Host.Outcome State Fault Refusal :=
  let x := s.reg a
  let y := s.reg b
  let e := bitsNat y 0 10
  let k := bitsNat y 10 3
  let v := bitsNat y 13 3
  .next (
    if y.extractLsb' 16 48 != 0 || 6 ≤ k then s.trap (trapIllegalInfo (.rcsnap a b) y 0)
    else if x.toNat % 32 != 0 then s.trap (trapMisalign x)
    else
      match s.store x 32 0 false with
      | .error e => s.memStop e
      | .ok _ =>
        s.awaited (fun s =>
          if !s.unitReady v then s.withCp { s.cp with locked := true }
          else
            let st := s.eng.routeStage v e k
            match s.storeWords x (counterWords st) with
            | .error e => s.memStop e
            | .ok s1 =>
              let s2 := if st.isSome then s1.withEng (s1.eng.clearCounters e k) else s1
              (s2.withCp { s2.cp with locked := false }).done))

/-! PLANE_EXCHANGE (R226, R228). -/

/-- The first command of a unit in the queue, with its place. -/
def Eng.firstOf (g : Eng) (key : Nat) : Option (Command × Nat) :=
  g.commands.zipIdx.find? (fun q => cmdUnit q.1.instr == key)

/-- The queue without the command in a place. -/
def Eng.dropCommand (g : Eng) (n : Nat) : Eng := { g with commands := dropAt g.commands n }

/-- The SWAP at the head of a slot's commands is performed, if it need not wait. -/
def World.planeExchange (w : World) (c v : Nat) : World :=
  let g := w.eng c
  match g.firstOf v with
  | some (k, n) =>
    if isSwapOf v k.instr && !g.pressing then
      match w.performSwap c v with
      | some w1 => w1.setEng c ((w1.eng c).dropCommand n)
      | none => w
    else w
  | none => w

/-- PLANE_EXCHANGE. -/
def execPlaneExchange (v : BitVec 3) (s : State) : Host.Outcome State Fault Refusal :=
  s.onWorld (fun w => w.planeExchange s.cur v.toNat)

end Sys2Proof.Machine
end

