-- ==== Sys2Proof/Machine/StrmOps.lean ====
section
/-! DEFINITION. The STRM instructions (R291 to R297). -/

namespace Sys2Proof.Machine

/-- A command whose first operand must be 64-byte aligned (R291). -/
def State.issueAligned (s : State) (i : Instr) (x y : Word) : State :=
  if x.toNat % 64 != 0 then s.trap (trapMisalign x) else s.issue i x y

/-- SDEF. -/
def execSdef (a : Reg) (k : BitVec 5) (s : State) : Host.Outcome State Fault Refusal :=
  .next (s.issueAligned (.sdef a k) (s.reg a) 0)

/-- SGO. -/
def execSgo (a b : Reg) (k : BitVec 5) (s : State) : Host.Outcome State Fault Refusal :=
  .next (s.issue (.sgo a b k) (s.reg a) (s.reg b))

/-- TOK. -/
def execTok (a : Reg) (k : BitVec 5) (s : State) : Host.Outcome State Fault Refusal :=
  .next (s.issueAligned (.tok a k) (s.reg a) 0)

/-- CPY. -/
def execCpy (a : Reg) (s : State) : Host.Outcome State Fault Refusal := .next (s.issueAligned (.cpy a) (s.reg a) 0)

/-- QARM: it waits until the copy engine has performed it (R296). -/
def execQarm (a : Reg) (t : BitVec 5) (q : BitVec 3) (s : State) : Host.Outcome State Fault Refusal :=
  let x := s.reg a
  .next (
    if x.toNat % 64 != 0 then s.trap (trapMisalign x)
    else s.awaited (fun s =>
      if !s.unitReady 64 then s
      else
        match s.w.performQarm s.cur t.toNat q.toNat (s.commandOf (.qarm a t q) x 0) with
        | some w => (s.withWorld w).done
        | none => s))

/-- QDIS: it waits until the copy engine has performed it. -/
def execQdis (q : BitVec 3) (s : State) : Host.Outcome State Fault Refusal :=
  .next (s.awaited (fun s =>
    if !s.unitReady 64 then s else (s.withWorld (s.w.performQdis s.cur q.toNat)).done))

/-- TRCV (R295): the answer of a stream that can give no token. -/
def noToken : Word := BitVec.allOnes 64

/-- TRCV: it waits for a token of tag 0. -/
def execTrcv (d a : Reg) (k : BitVec 5) (s : State) : Host.Outcome State Fault Refusal :=
  let x := s.reg a
  let n := k.toNat
  let cfg := s.eng.streamCfg n
  .next (
    if x.toNat % 64 != 0 then s.trap (trapMisalign x)
    else s.awaited (fun s =>
      if !s.unitReady (16 + n / 2) then s
      else if cfg.modeOf != mCPIO || !ltagEn (cfg.tag 0) then s.finish d noToken
      else
        match s.eng.popPool (.stream n 0) with
        | none => if (s.eng.stream n).state == .ended then s.finish d noToken else s
        | some (t, _) =>
          match s.store x 64 t.data false with
          | .error e => s.memStop e
          | .ok s1 =>
            let g := match s1.eng.popPool (.stream n 0) with
              | some (_, g) => g
              | none => s1.eng
            (s1.withEng g).finish d (t.sideband.setWidth 64)))

end Sys2Proof.Machine
end

