-- ==== Sys2Proof/Machine/HashOps.lean ====
section
/-! DEFINITION. The HASH instructions and what the key unit does with them (R305, R321 to R323). -/

namespace Sys2Proof.Machine

/-! Operand fields (R322). -/

def htabHead (x : Word) : Nat := bitsNat x 0 8
def htabTable (x : Word) : Nat := bitsNat x 8 2

/-- HTAB on the hash state: a base of 0 undefines the table and keeps its counters, another one clears them (R322). -/
def Hash.htab (h : Hash) (x y : Word) : Hash :=
  let n := 4 * htabHead x + htabTable x
  if y == 0 then
    match Tbl.find h.tables n with
    | some t => { h with tables := Tbl.put h.tables n { t with desc := 0, base := 0 } }
    | none => h
  else h.setTable (htabHead x) (htabTable x) { desc := x.extractLsb' 0 28, base := y, inserted := 0, lost := 0 }

/-- HSEED. -/
def Hash.hseed (h : Hash) (x y : Word) : Hash := { h with seeds := Tbl.put h.seeds x.toNat (y.extractLsb' 0 32) }

/-- HPOOL. -/
def Hash.hpool (h : Hash) (x y : Word) : Hash := { h with pool := x, slots := y.toNat, next := 1, exh := false }

/-- The hash state as it will stand once the HTAB commands in the queue are performed. -/
def Eng.hashAhead (g : Eng) : Hash :=
  g.commands.foldl (fun h k => match k.instr with
    | .htab _ _ => h.htab k.x k.y
    | _ => h) g.hash

/-! The checks at issue (R321): the value at fault. -/

def hseedBad (x y : Word) : Option Word :=
  if 255 < x.toNat then some x else if y.extractLsb' 32 32 != 0 then some y else none

def htabBad (h : Hash) (x y : Word) : Option Word :=
  if x.extractLsb' 10 2 != 0 || x.extractLsb' 28 36 != 0 || bitsNat x 12 4 < 3 then some x
  else if y.toNat % 64 != 0 || y.extractLsb' 56 8 != 0 then some y
  else if y != 0 && (h.tablesOf (htabHead x)).any (fun q => q.1 != htabTable x && q.2.d != 16 * (bitsNat x 16 4 + 1)) then
    some x
  else none

def hpoolBad (x y : Word) : Option Word :=
  if x.toNat % 64 != 0 || x.extractLsb' 56 8 != 0 then some x
  else if y == 1 || 2 ^ 27 < y.toNat then some y
  else none

/-- A HASH command with its check. -/
def State.issueHash (s : State) (i : Instr) (x y : Word) (bad : Option Word) : State :=
  match bad with
  | some v => s.trap (trapIllegalInfo i v 0)
  | none => s.issue i x y

/-- HSEED. -/
def execHseed (a b : Reg) (s : State) : Host.Outcome State Fault Refusal :=
  .next (s.issueHash (.hseed a b) (s.reg a) (s.reg b) (hseedBad (s.reg a) (s.reg b)))

/-- HTAB. -/
def execHtab (a b : Reg) (s : State) : Host.Outcome State Fault Refusal :=
  .next (s.issueHash (.htab a b) (s.reg a) (s.reg b) (htabBad s.eng.hashAhead (s.reg a) (s.reg b)))

/-- HPOOL. -/
def execHpool (a b : Reg) (s : State) : Host.Outcome State Fault Refusal :=
  .next (s.issueHash (.hpool a b) (s.reg a) (s.reg b) (hpoolBad (s.reg a) (s.reg b)))

/-! HSTAT (R323). -/

/-- A word of HSTAT. -/
def Hash.stat (h : Hash) (x : Word) : Word :=
  let head := htabHead x
  let t := h.table head (htabTable x)
  match bitsNat x 10 2 with
  | 0 => BitVec.ofBool h.exh ++ (0 : BitVec 7) ++ BitVec.ofNat 28 h.slots ++ BitVec.ofNat 28 h.next
  | 1 => match Tbl.find h.tables (4 * head + htabTable x) with | some y => y.lost ++ y.inserted | none => 0
  | 2 => match t with | some y => y.base | none => 0
  | _ => h.seed head ++ (0 : BitVec 4) ++ (match t with | some y => y.desc | none => 0)

/-- HSTAT: it waits for the HASH commands before it. -/
def execHstat (d a : Reg) (s : State) : Host.Outcome State Fault Refusal :=
  let x := s.reg a
  .next (
    if x.extractLsb' 12 52 != 0 then s.trap (trapIllegalInfo (.hstat d a) x 0)
    else s.awaited (fun s => if s.eng.unitBusy 65 then s else s.finish d (s.eng.hash.stat x)))

/-! Performance (R322). -/

/-- Is a KEYST or BGATH stream of a head RUNNING or FAULTED? -/
def Eng.headBusy (g : Eng) (head : Nat) : Bool :=
  (List.range 32).any (fun k =>
    let c := g.streamCfg k
    (c.modeOf == mKEYST || c.modeOf == mBGATH) && c.head == head && (g.stream k).busy)

/-- Is a KEYST stream RUNNING or FAULTED? -/
def Eng.keystBusy (g : Eng) : Bool :=
  (List.range 32).any (fun k => (g.streamCfg k).modeOf == mKEYST && (g.stream k).busy)

/-- A HASH command: done, or waiting for streams. -/
def World.performHash (w : World) (c : Nat) (busy : Bool) (f : Hash → Hash) : Option World :=
  let g := w.eng c
  if busy then none else some (w.setEng c { g with hash := f g.hash })

end Sys2Proof.Machine
end

