-- ==== Sys2Proof/Machine/TraceOps.lean ====
section
/-! DEFINITION. The TRC instructions (R432 to R437). -/

namespace Sys2Proof.Machine

/-- TEV. -/
def execTev (a b : Reg) (s : State) : Host.Outcome State Fault Refusal :=
  let x := s.reg a
  let y := s.reg b
  .next (
    if 0x1F < x.toNat then s.trap (trapIllegalInfo (.tev a b) x 0)
    else if y.extractLsb' 32 32 != 0 then s.trap (trapIllegalInfo (.tev a b) y 0)
    else s.issue (.tev a b) x y)

/-- TCTL. -/
def execTctl (a : Reg) (s : State) : Host.Outcome State Fault Refusal := .next (s.issue (.tctl a) (s.reg a) 0)

/-- TAT. -/
def execTat (a : Reg) (s : State) : Host.Outcome State Fault Refusal :=
  let x := s.reg a
  .next (if x.toNat % 32 != 0 then s.trap (trapMisalign x) else s.issue (.tat a) x 0)

/-- TIME (R436). -/
def execTime (d a : Reg) (s : State) : Host.Outcome State Fault Refusal :=
  let x := s.reg a
  .next (
    if 1 < x.toNat then s.trap (trapIllegalInfo (.time d a) x 0)
    else s.finish d (if x == 0 then BitVec.ofNat 64 s.w.time else s.w.timeStatus))

/-- Would MARK reach a context? -/
def World.marks (w : World) (c : Nat) : Bool := !w.filtered c tMARK && (w.contextOf c).isSome

/-- The world with the mark of a TMARK under way, or without one. -/
def World.setMarking (w : World) (c : Nat) (m : Option (Nat × Bool)) : World :=
  w.setEng c { w.eng c with marking := m }

/-- TMARK once it is performed: `m` is the time it took; `sent` says that its record has been raised. It waits for the events
raised before M, raises MARK when the control processor raises no other event, and waits for its record. A full lossless
ring that it waits for is a stall (World.stillHeld). -/
def State.tmark (s : State) (x : Word) (m : Nat) (sent : Bool) : State :=
  let finish : State :=
    let s1 := s.withWorld (s.w.setMarking s.cur none)
    (s1.withCp { s1.cp with locked := false }).done
  if s.w.unsettled s.cur (if sent then m + 1 else m) then s
  else if sent || !s.w.marks s.cur then finish
  else if s.w.mustFollow s.cur uCP tMARK then s
  else s.withWorld ((s.w.emitMark s.cur m x).setMarking s.cur (some (m, true)))

/-- TMARK: it takes its time when the commands before it are performed, waits for the earlier events, raises MARK and
waits for its record; it is not interrupted. -/
def execTmark (a : Reg) (s : State) : Host.Outcome State Fault Refusal :=
  let x := s.reg a
  .next (
    if x.extractLsb' 32 32 != 0 then s.trap (trapIllegalInfo (.tmark a) x 0)
    else
      match s.eng.marking with
      | none =>
        s.awaited (fun s =>
          let s := s.withCp { s.cp with locked := true }
          if s.unitReady 66 && s.eng.reports.isEmpty then
            (s.withWorld (s.w.setMarking s.cur (some (s.w.time, false)))).tmark x s.w.time false
          else s)
      | some (m, sent) => s.tmark x m sent)

end Sys2Proof.Machine
end

