-- ==== Sys2Proof/Machine/Lnch.lean ====
section
/-! DEFINITION. TAIL and DONE (R245, R246, R267). -/

namespace Sys2Proof.Machine

/-- TAIL: the answer of the job unit, with the block copied. -/
def execTail (d a : Reg) (s : State) : Host.Outcome State Fault Refusal :=
  let x := s.reg a
  .next (
    if s.cp.prv then s.trap (trapIllegal (.tail d a))
    else if x.toNat % 64 != 0 then s.trap (trapMisalign x)
    else s.awaited (fun s =>
      let named (b : Option Block) (s1 : State) : State :=
        let (r, w) := s1.w.nameChild s.cur x b
        (s1.withWorld w).finish d r
      match s.load x 64 with
      | .ok (n, s1) => named (some (Vector.ofFn (fun (i : Fin 8) => BitVec.ofNat 64 (n / 2 ^ (64 * i.val))))) s1
      | .error (.walk w) => s.awaitWalk w
      | .error (.trap _) => named none s))

/-- Have all of a core's streams and copies completed? -/
def Eng.unitsQuiet (g : Eng) : Bool := (List.range 32).all (fun k => !(g.stream k).busy) && g.copies.isEmpty

/-- Is no slot under way, scheduled slots apart, which the scheduler retires? -/
def Eng.slotsQuiet (g : Eng) : Bool :=
  (List.range 8).all (fun v => !(g.vat v).state.live || g.scheduledSlots.contains v)

/-- May DONE end the unit (R246, R267)? -/
def World.mayEnd (w : World) (c : Nat) : Bool :=
  let g := w.eng c
  g.commands.isEmpty && g.slotsQuiet && g.unitsQuiet && w.schedQuiet c

/-- DONE. -/
def execDone (s : State) : Host.Outcome State Fault Refusal :=
  .next (
    if s.cp.prv then s.trap (trapIllegal .done)
    else if !s.w.mayEnd s.cur then s
    else
      let w := (s.w.drainAll s.cur).retireScheduled s.cur
      let w := (w.emit s.cur uCP tUNITDONE (BitVec.ofNat 32 ((s.eng.unit).getD 0))).endUnit s.cur
      let s1 := s.withWorld w
      s1.withCp { s1.cp with mode := .between, retired := s1.cp.retired + 1 })

end Sys2Proof.Machine
end

