-- ==== Sys2Proof/Machine/Perform.lean ====
section
/-! DEFINITION. The performance of a queued command: which one may be performed, and its effect (R145, R253, R259,
R322). -/

namespace Sys2Proof.Machine

/-- Is a command one that VKILL overtakes while it waits? -/
def overtaken (v : Nat) : Instr → Bool
  | .swap u | .arm _ u => u.toNat == v
  | _ => false

/-- The effect of a command whose turn it is at its unit: done, or still waiting. `k` stands in place `n` of the queue. -/
def State.performUnit (s : State) (n : Nat) (k : Command) : Option World :=
  let w := s.w
  let c := s.cur
  let g := s.eng
  match k.instr with
  | .cfg _ v | .cfgw _ v => w.performCfg c v.toNat k
  | .swap v => w.performSwap c v.toNat
  | .arm _ v => w.performArm c v.toNat s.cp.nbv.toNat k
  | .drain v => some (w.performDrain c v.toNat)
  | .vkill v => some (w.performKill c v.toNat)
  | .sdef _ m => w.performSdef c m.toNat k
  | .sgo _ _ m => w.performSgo c m.toNat (!(g.commands.take n).any (fun q => cmdUnit q.instr == 65)) k
  | .tok _ m => w.performTok c m.toNat k
  | .cpy _ => w.performCpy c k
  | .hseed _ _ => w.performHash c (g.headBusy k.x.toNat) (fun h => h.hseed k.x k.y)
  | .htab _ _ => w.performHash c (g.headBusy (htabHead k.x)) (fun h => h.htab k.x k.y)
  | .hpool _ _ => w.performHash c g.keystBusy (fun h => h.hpool k.x k.y)
  | .tev _ _ => w.performTev c k.x k.y
  | .tctl _ => some (w.performTctl c k.x)
  | .tat _ => if w.tatWaits c k then none else some (w.performTat c k)
  | _ => some w

/-- Has some unit of a slot's region saved (R365)? -/
def Eng.someSaved (g : Eng) (v : Nat) : Bool :=
  let x := g.vat v
  (List.range 128).any (fun e => x.has e && (g.elem e).saved) ||
    (List.range 32).any (fun k => x.has (addrStream k) && (g.stream k).saved) ||
    (List.range 4).any (fun n => x.has (addrMatrix n) && (Tbl.get g.mx MxNode.reset n).saved) ||
    (List.range 8).any (fun p => x.has (addrEdge p) && (Tbl.get g.ports EpState.reset p).saved)

/-- VKILL in place `n`: the commands of its slot before it are none, or begin with a SWAP or an ARM that waits. -/
def State.killTurn (s : State) (n v : Nat) : Bool :=
  let g := s.eng
  let first := match (g.commands.take n).find? (fun q => cmdUnit q.instr == v) with
    | none => true
    | some q => overtaken v q.instr && (s.performUnit n q).isNone
  first && (!g.pressing || !g.someSaved v)

/-- The source of the events of a command: its unit, for TEV the control processor (R433). -/
def commandSource (i : Instr) : Nat :=
  match i with
  | .tev _ _ => uCP
  | _ =>
    let key := cmdUnit i
    if key < 8 then addrVat key else if key < 64 then 0x80 + (key - 16) else if key = 64 then uCOPY
    else if key = 65 then uKEY else uTIME

/-- The command in place `n` is performed, or waits: for the commands of its unit before it, for a press, or where the trace
fabric holds its unit up (R420); one that needs a walk first asks for it. VKILL ends the
SWAPs and ARMs that wait before it. -/
def State.perform (s : State) (n : Nat) : Option State :=
  let g := s.eng
  match g.commands[n]? with
  | none => none
  | some k =>
    let before := g.commands.take n
    let rest := g.commands.drop (n + 1)
    let key := cmdUnit k.instr
    let after (cs : List Command) (w : World) : Option State :=
      match w.miss with
      | none => some (s.withWorld (w.setEng s.cur { w.eng s.cur with commands := cs }))
      | some (_, k) => if g.walking k.asid k.va then none else some (s.withEng (g.askWalk k))
    if s.w.heldUnit s.cur (commandSource k.instr) then none
    else
    match k.instr with
    | .vkill v =>
      if s.killTurn n v.toNat then
        (s.performUnit n k).bind (after (before.filter (fun q => !overtaken v.toNat q.instr) ++ rest))
      else none
    | _ =>
      if g.pressing || before.any (fun q => cmdUnit q.instr == key) then none
      else (s.performUnit n k).bind (after (before ++ rest))

/-- The first command of the queue that can be performed, performed. -/
def State.performFirst (s : State) : Option State := (List.range s.eng.commands.length).findSome? s.perform

end Sys2Proof.Machine
end

