-- ==== Sys2Proof/Machine/Cycle.lean ====
section
/-! DEFINITION. The passing of a cycle: the grid of every core acts, contributions become present, watchdogs count (R95,
R139, R173, R413; log 3). -/

namespace Sys2Proof.Machine

/-! Contributions that become present (R94, R95). -/

/-- The unit of a contribution that no register takes contributes no more (R94). -/
def Eng.deadUnit (g : Eng) (k : Entering) : Eng :=
  match k.stage with
  | some i => let x := g.elem k.addr; g.setElem k.addr (x.setStage i { x.stage i with dead := true })
  | none =>
    if k.addr < 0x98 then
      let n := k.addr - 0x90
      g.setNode n { g.mxn n with state := .ended, outs := [] }
    else g.setPort (k.addr - 0x98) { g.port (k.addr - 0x98) with dead := true }

/-- A contribution enters the position its unit is bound to, or is discarded. -/
def World.enterOne (c : Nat) (w : World) (k : Entering) : World :=
  let g := w.eng c
  let n := k.reg.toNat
  let r := g.curd n
  match r.bound k.bind with
  | some j =>
    if r.hasRoom j then
      let r' := r.enter j k.contrib
      let new := (r'.part j).flags &&& ~~~(r.part j).flags
      let g := g.setCurd n r'
      match k.stage, k.vat with
      | some _, some v => w.setEng c (g.setVat v ((g.vat v).record new k.addr w.cycle))
      | _, _ => w.setEng c g
    else w.setEng c (g.addEntering k)
  | none =>
    let w := w.setEng c (g.deadUnit k)
    match k.vat with
    | some v => w.gridFault c v vcCURDBIND n k.addr 0
    | none => w

/-- Every contribution made in a cycle enters, to be present from the next one on. -/
def World.enterAll (w : World) (c : Nat) : World :=
  let g := w.eng c
  g.entering.foldl (World.enterOne c) (w.setEng c { g with entering := [] })

/-! The cycle of a core (R173). -/

/-- Is there nothing in a core that a cycle could change? -/
def Eng.resting (g : Eng) : Bool :=
  g.firing.isNone && !g.sched.forming.any (fun q => recordWhole q.2) && g.flights.isEmpty && g.entering.isEmpty &&
    g.reports.isEmpty && g.marking.isNone && g.vats.all (fun q => !q.2.state.live) &&
    g.elems.all (fun q => q.2.outs.all (fun o => o.2.waiting.isEmpty)) &&
    !g.commands.any (fun k => match k.instr with | .swap _ => true | _ => false)

/-- What happens in the grid of a core by the end of a cycle: all that fires in it, the contributions made, what the vat
controllers see. -/
def World.gridCycle (w : World) (c : Nat) : World :=
  if (w.eng c).resting then w
  else
    let w0 := w.beginGrid c
    let w1 := (((w0.planned c).foldl (World.act c) w0).enterAll c).parkAll c
    let w2 := (w1.guardCycle c).watchVats c
    w.settlePorts ((w2.setEng c { w2.eng c with firing := none }).flushReports c) c

/-! The passing of time. -/

/-- The watchdogs that have reached zero stop their processors (R139). -/
def State.expireAll (s : State) : State :=
  s.cps.foldl (fun t q => { ({ t with cur := q.1 }).wdogExpire with cur := s.cur }) s

/-- A cycle ends and the next begins, in which the package time unit raises what it still has to. -/
def State.tick (s : State) : State :=
  let w := s.w.engs.foldl (fun w q => w.gridCycle q.1) s.w
  let t := (s.withWorld w).holdAll
  (t.withWorld { t.w with cycle := t.w.cycle + 1, time := t.w.time + 9 }.raiseTime).expireAll

/-- Would a number of cycles pass without any effect? -/
def State.rests (s : State) (dt : Nat) : Bool :=
  s.w.held.isEmpty && s.w.timeEvents.isEmpty && s.w.engs.all (fun q => q.2.resting) && s.cps.all (fun q => !q.2.expires (s.w.cycle + dt))

/-- Cycles one by one. -/
def State.ticks (s : State) : Nat → State
  | 0 => s
  | n + 1 => s.tick.ticks n

/-- Cycles pass, and sixteenths of a nanosecond, nine or more to a cycle. -/
def State.pass (s : State) (dt ns16 : Nat) : State :=
  let t := if s.rests dt then s.withWorld { s.w with cycle := s.w.cycle + dt, time := s.w.time + 9 * dt } else s.ticks dt
  t.withWorld { t.w with time := t.w.time + (ns16 - 9 * dt) }

end Sys2Proof.Machine
end

