-- ==== Sys2Proof/Machine/Turn.lean ====
section
/-! DEFINITION. One turn of the schedule, up to the instruction it runs: the passing of time, the fetch, what the control
processor does when it fetches nothing, and what every step settles behind it (R142, R145, R355; log 3, log 5). -/

namespace Sys2Proof.Machine

/-! The schedule. -/

/-- The next turn: the head of the schedule. When the schedule is empty, a cycle for the core in turn: it performs a queued
command, or else its walker reads, or else its control processor acts. -/
def State.nextTurn (s : State) : Act × State :=
  match s.schedule with
  | t :: rest => (t.act, { s.pass t.dt t.ns16 with schedule := rest, cur := t.core.toNat })
  | [] =>
    let s1 := s.pass 1 0
    (if s1.performFirst.isSome then .command (s1.eng.commands.length)
      else if s1.eng.walks.any Walk.live then .event .pageWalk
      else .cp, s1)

/-! The fetch (R142). -/

def trapFetch (va : Word) (r : Refused) (asid : BitVec 16) : Trap := trapXlate va r false true asid

/-- Fetch the word at the program counter. -/
def State.fetch (s : State) : Except MemStop (BitVec 32 × State) :=
  let va := s.cp.pc
  match s.translate .fetch va with
  | (.error (.refused r), _) => .error (.trap (trapFetch va r s.cp.asid))
  | (.error .walk, w) => .error (.walk w)
  | (.ok pa, w) =>
    match (s.withWorld w).physRead va pa 4 false with
    | .ok (n, s1) => .ok (BitVec.ofNat 32 n, s1.withCp { s1.cp with fetched := va })
    | .error t => .error (.trap (if t.code == cXLATE then trapFetch va ⟨rBUS, 0⟩ s.cp.asid else t))

/-! What a turn does. -/

/-- A turn's work: the state after it, an instruction to run, or a stop. -/
inductive Todo where
  | after (s : State)
  | run (i : Instr) (s : State)
  | stop (f : Fault)

/-- The control processor in the running mode fetches and decodes. -/
def State.fetchTurn (s : State) : Todo :=
  match s.fetch with
  | .error e => .after (s.memStop e)
  | .ok (x, s1) =>
    match decodeWord x with
    | .ok i => .run i s1
    | .error _ => .after (s1.trap (trapIllegalWord x))

/-- A turn of the control processor: nothing while the trace fabric holds it up (R420); else a cause to take, the end of IDLE,
or a fetch. -/
def State.cpTurn (s : State) : Todo :=
  let c := s.cp
  if s.w.heldUnit s.cur uCP then .after s
  else
  match c.mode with
  | .running => if s.asyncDue.isSome then .after s.takeAsync else s.fetchTurn
  | .idling => .after (if s.eng.anyPending then (s.withCp { c with mode := .running }).done else s)
  | .rom | .held | .stopped | .between => .after s

/-- A turn of a command: the one in a place of the queue, or the first that can be performed. -/
def State.commandTurn (s : State) (k : Nat) : State :=
  let r := if k < s.eng.commands.length then s.perform k else s.performFirst
  r.getD s

/-- The sources that act in an event: they do nothing more while the trace fabric holds them up (R420). -/
def eventUnits (i : Instr) : List Nat :=
  match i with
  | .culturePlaneLoad v | .planeExchange v | .vatRetire v | .vatStall v => [addrVat v.toNat]
  | .streamReadToken s | .streamWriteToken s | .gatherToken s | .scatterToken s | .bgathQuery s => [addrStream s.toNat]
  | .keystKey s => [addrStream s.toNat, uKEY]
  | .copyFire _ | .copyBeat _ | .copyComplete _ => [uCOPY]
  | .mxWeightToken n | .mxMetadataToken n | .mxAToken n | .mxTile n | .mxEpilogueToken n => [addrMatrix n.toNat]
  | .schedSelect _ | .schedInject _ | .blockAged _ => [uSCHED]
  | .triggerFire _ => [uTIME]
  | .asyncTrapEntry | .workUnitStart | .pressComplete => [uCP]
  | _ => []

/-- Does the trace fabric hold up a unit that acts in an event? -/
def State.eventHeld (s : State) (i : Instr) : Bool := (eventUnits i).any (s.w.heldUnit s.cur)

/-- The work of a turn. -/
def State.todo (s : State) : Act → Todo
  | .cp => s.cpTurn
  | .command k => .after (s.commandTurn k)
  | .drain => .after (s.withWorld (s.w.drainOne s.cur))
  | .event i => if i.isWord then .stop .wordAsEvent else if s.eventHeld i then .after s else .run i s

/-! What a step settles. -/

/-- Behind every turn: a step that the trace fabric holds up, or that needs a walk first, leaves the machine as it was; else
the edge ports of the core return credits and open or shut. -/
def State.settle (s0 s : State) : State :=
  if s.w.stall.isSome || s.w.miss.isSome then s0.withWorld (s0.w.unlessHeld s.w)
  else s.withWorld (s0.w.settlePorts s.w s0.cur)

/-- A state whose next step fetches a word at the program counter of the core in turn: the processor runs, untranslated,
from its DRAM, nothing is pending, queued or held up before it, and the next turn is its own. -/
def State.readyToFetch (s : State) : State :=
  let c := s.cp
  let pc := match regionOf c.pc.toNat with
    | .dram k => if k = s.cur then c.pc else BitVec.ofNat 64 (s.cur * 0x100000000)
    | _ => BitVec.ofNat 64 (s.cur * 0x100000000)
  let s1 := s.withCp { c with
    mode := .running, pc := pc, mstat := mstatOf true false (c.mstat.getLsbD 2) (c.mstat.getLsbD 3) true
    waitFrom := none, locked := false, wdogStart := s.w.cycle }
  let w := s1.w.setEng s.cur { s1.eng with marking := none }
  { s1 with
    w := { w with held := w.held.filter (fun q => q.1 != sourceOf s.cur uCP) }
    schedule := ⟨0, 0, BitVec.ofNat 7 s.cur, .cp⟩ :: s.schedule }

end Sys2Proof.Machine
end

