-- ==== Sys2Proof/Machine/Dispatch.lean ====
section
/-! DEFINITION. The dispatch: one arm for each instruction. -/

namespace Sys2Proof.Machine

def exec (i : Instr) (s : State) : Host.Outcome State Fault Refusal :=
  match i with
  | .nop => Sys2Proof.Machine.execNop s
  | .trap n => Sys2Proof.Machine.execTrap n s
  | .eret => Sys2Proof.Machine.execEret s
  | .brk n => Sys2Proof.Machine.execBrk n s
  | .idle => Sys2Proof.Machine.execIdle s
  | .tlbiAll => Sys2Proof.Machine.execTlbiAll s
  | .tlbiAsid a => Sys2Proof.Machine.execTlbiAsid a s
  | .tlbiVa a => Sys2Proof.Machine.execTlbiVa a s
  | .tlbiVaall a => Sys2Proof.Machine.execTlbiVaall a s
  | .pressSave d a => Sys2Proof.Machine.execPressSave d a s
  | .pressPart d a => Sys2Proof.Machine.execPressPart d a s
  | .pressRestore d a => Sys2Proof.Machine.execPressRestore d a s
  | .srr d r => Sys2Proof.Machine.execSrr d r s
  | .srw a r => Sys2Proof.Machine.execSrw a r s
  | .add d a b w => Sys2Proof.Machine.execAdd d a b w s
  | .sub d a b w => Sys2Proof.Machine.execSub d a b w s
  | .mul d a b w => Sys2Proof.Machine.execMul d a b w s
  | .mulh d a b => Sys2Proof.Machine.execMulh d a b s
  | .mulhu d a b => Sys2Proof.Machine.execMulhu d a b s
  | .div d a b w => Sys2Proof.Machine.execDiv d a b w s
  | .divu d a b w => Sys2Proof.Machine.execDivu d a b w s
  | .rem d a b w => Sys2Proof.Machine.execRem d a b w s
  | .remu d a b w => Sys2Proof.Machine.execRemu d a b w s
  | .and d a b => Sys2Proof.Machine.execAnd d a b s
  | .or d a b => Sys2Proof.Machine.execOr d a b s
  | .xor d a b => Sys2Proof.Machine.execXor d a b s
  | .andn d a b => Sys2Proof.Machine.execAndn d a b s
  | .shl d a b w => Sys2Proof.Machine.execShl d a b w s
  | .shr d a b w => Sys2Proof.Machine.execShr d a b w s
  | .sar d a b w => Sys2Proof.Machine.execSar d a b w s
  | .rol d a b w => Sys2Proof.Machine.execRol d a b w s
  | .min d a b => Sys2Proof.Machine.execMin d a b s
  | .max d a b => Sys2Proof.Machine.execMax d a b s
  | .minu d a b => Sys2Proof.Machine.execMinu d a b s
  | .maxu d a b => Sys2Proof.Machine.execMaxu d a b s
  | .seq d a b => Sys2Proof.Machine.execSeq d a b s
  | .sne d a b => Sys2Proof.Machine.execSne d a b s
  | .slt d a b => Sys2Proof.Machine.execSlt d a b s
  | .sltu d a b => Sys2Proof.Machine.execSltu d a b s
  | .sle d a b => Sys2Proof.Machine.execSle d a b s
  | .sleu d a b => Sys2Proof.Machine.execSleu d a b s
  | .clz d a w => Sys2Proof.Machine.execClz d a w s
  | .ctz d a w => Sys2Proof.Machine.execCtz d a w s
  | .popc d a w => Sys2Proof.Machine.execPopc d a w s
  | .sext d a x => Sys2Proof.Machine.execSext d a x s
  | .zext d a x => Sys2Proof.Machine.execZext d a x s
  | .bswap d a => Sys2Proof.Machine.execBswap d a s
  | .addi d a imm => Sys2Proof.Machine.execAddi d a imm s
  | .andi d a imm => Sys2Proof.Machine.execAndi d a imm s
  | .ori d a imm => Sys2Proof.Machine.execOri d a imm s
  | .xori d a imm => Sys2Proof.Machine.execXori d a imm s
  | .shli d a n => Sys2Proof.Machine.execShli d a n s
  | .shri d a n => Sys2Proof.Machine.execShri d a n s
  | .sari d a n => Sys2Proof.Machine.execSari d a n s
  | .slti d a imm => Sys2Proof.Machine.execSlti d a imm s
  | .sltui d a imm => Sys2Proof.Machine.execSltui d a imm s
  | .lih d a imm => Sys2Proof.Machine.execLih d a imm s
  | .ld d a w o p imm => Sys2Proof.Machine.execLd d a w o p imm s
  | .ldu d a w o p imm => Sys2Proof.Machine.execLdu d a w o p imm s
  | .st st a w o p imm => Sys2Proof.Machine.execSt st a w o p imm s
  | .amoadd d a b w o p => Sys2Proof.Machine.execAmoadd d a b w o p s
  | .amoand d a b w o p => Sys2Proof.Machine.execAmoand d a b w o p s
  | .amoor d a b w o p => Sys2Proof.Machine.execAmoor d a b w o p s
  | .amoxor d a b w o p => Sys2Proof.Machine.execAmoxor d a b w o p s
  | .amomin d a b w o p => Sys2Proof.Machine.execAmomin d a b w o p s
  | .amomax d a b w o p => Sys2Proof.Machine.execAmomax d a b w o p s
  | .amominu d a b w o p => Sys2Proof.Machine.execAmominu d a b w o p s
  | .amomaxu d a b w o p => Sys2Proof.Machine.execAmomaxu d a b w o p s
  | .amoswap d a b w o p => Sys2Proof.Machine.execAmoswap d a b w o p s
  | .casD d a b o p => Sys2Proof.Machine.execCasD d a b o p s
  | .casQ d a b o p => Sys2Proof.Machine.execCasQ d a b o p s
  | .fence o p => Sys2Proof.Machine.execFence o p s
  | .sbar a p => Sys2Proof.Machine.execSbar a p s
  | .wait d a b o p => Sys2Proof.Machine.execWait d a b o p s
  | .jump imm => Sys2Proof.Machine.execJump imm s
  | .call imm => Sys2Proof.Machine.execCall imm s
  | .beq a b imm => Sys2Proof.Machine.execBeq a b imm s
  | .bne a b imm => Sys2Proof.Machine.execBne a b imm s
  | .blt a b imm => Sys2Proof.Machine.execBlt a b imm s
  | .bge a b imm => Sys2Proof.Machine.execBge a b imm s
  | .bltu a b imm => Sys2Proof.Machine.execBltu a b imm s
  | .bgeu a b imm => Sys2Proof.Machine.execBgeu a b imm s
  | .jr a => Sys2Proof.Machine.execJr a s
  | .callr a => Sys2Proof.Machine.execCallr a s
  | .cdecl c a => Sys2Proof.Machine.execCdecl c a s
  | .cput c a x e => Sys2Proof.Machine.execCput c a x e s
  | .crd c d e w => Sys2Proof.Machine.execCrd c d e w s
  | .crdm c a w o p => Sys2Proof.Machine.execCrdm c a w o p s
  | .crdp c d b w => Sys2Proof.Machine.execCrdp c d b w s
  | .settle c => Sys2Proof.Machine.execSettle c s
  | .cclr c => Sys2Proof.Machine.execCclr c s
  | .cstat c d st => Sys2Proof.Machine.execCstat c d st s
  | .cfg a v => Sys2Proof.Machine.execCfg a v s
  | .cfgw a v => Sys2Proof.Machine.execCfgw a v s
  | .swap v => Sys2Proof.Machine.execSwap v s
  | .arm a v => Sys2Proof.Machine.execArm a v s
  | .drain v => Sys2Proof.Machine.execDrain v s
  | .vwait v => Sys2Proof.Machine.execVwait v s
  | .vstat d st v => Sys2Proof.Machine.execVstat d st v s
  | .vkill v => Sys2Proof.Machine.execVkill v s
  | .sdef a st => Sys2Proof.Machine.execSdef a st s
  | .sgo a b st => Sys2Proof.Machine.execSgo a b st s
  | .qarm a t q => Sys2Proof.Machine.execQarm a t q s
  | .qdis q => Sys2Proof.Machine.execQdis q s
  | .cpy a => Sys2Proof.Machine.execCpy a s
  | .tok a st => Sys2Proof.Machine.execTok a st s
  | .trcv d a st => Sys2Proof.Machine.execTrcv d a st s
  | .tail d a => Sys2Proof.Machine.execTail d a s
  | .done => Sys2Proof.Machine.execDone s
  | .hseed a b => Sys2Proof.Machine.execHseed a b s
  | .htab a b => Sys2Proof.Machine.execHtab a b s
  | .hpool a b => Sys2Proof.Machine.execHpool a b s
  | .hstat d a => Sys2Proof.Machine.execHstat d a s
  | .tev a b => Sys2Proof.Machine.execTev a b s
  | .tmark a => Sys2Proof.Machine.execTmark a s
  | .tctl a => Sys2Proof.Machine.execTctl a s
  | .time d a => Sys2Proof.Machine.execTime d a s
  | .tat a => Sys2Proof.Machine.execTat a s
  | .rcsnap a b => Sys2Proof.Machine.execRcsnap a b s
  | .culturePlaneLoad v => Sys2Proof.Machine.execCulturePlaneLoad v s
  | .planeExchange v => Sys2Proof.Machine.execPlaneExchange v s
  | .vatRetire v => Sys2Proof.Machine.execVatRetire v s
  | .vatStall v => Sys2Proof.Machine.execVatStall v s
  | .mcastStall e port tag => Sys2Proof.Machine.execMcastStall e port tag s
  | .tokenDelivery n => Sys2Proof.Machine.execTokenDelivery n s
  | .pass e k => Sys2Proof.Machine.execPass e k s
  | .const e k => Sys2Proof.Machine.execConst e k s
  | .delay e k => Sys2Proof.Machine.execDelay e k s
  | .iadd e k => Sys2Proof.Machine.execIadd e k s
  | .isub e k => Sys2Proof.Machine.execIsub e k s
  | .imul e k => Sys2Proof.Machine.execImul e k s
  | .imulh e k => Sys2Proof.Machine.execImulh e k s
  | .imac e k => Sys2Proof.Machine.execImac e k s
  | .ineg e k => Sys2Proof.Machine.execIneg e k s
  | .iabs e k => Sys2Proof.Machine.execIabs e k s
  | .imin e k => Sys2Proof.Machine.execImin e k s
  | .imax e k => Sys2Proof.Machine.execImax e k s
  | .isadd e k => Sys2Proof.Machine.execIsadd e k s
  | .issub e k => Sys2Proof.Machine.execIssub e k s
  | .iclamp e k => Sys2Proof.Machine.execIclamp e k s
  | .stageAnd e k => Sys2Proof.Machine.execStageAnd e k s
  | .stageOr e k => Sys2Proof.Machine.execStageOr e k s
  | .stageXor e k => Sys2Proof.Machine.execStageXor e k s
  | .stageNot e k => Sys2Proof.Machine.execStageNot e k s
  | .stageShl e k => Sys2Proof.Machine.execStageShl e k s
  | .stageShr e k => Sys2Proof.Machine.execStageShr e k s
  | .stageSar e k => Sys2Proof.Machine.execStageSar e k s
  | .icmp e k => Sys2Proof.Machine.execIcmp e k s
  | .sel e k => Sys2Proof.Machine.execSel e k s
  | .idot4 e k => Sys2Proof.Machine.execIdot4 e k s
  | .idot2 e k => Sys2Proof.Machine.execIdot2 e k s
  | .fadd e k => Sys2Proof.Machine.execFadd e k s
  | .fsub e k => Sys2Proof.Machine.execFsub e k s
  | .fmul e k => Sys2Proof.Machine.execFmul e k s
  | .fma e k => Sys2Proof.Machine.execFma e k s
  | .fnma e k => Sys2Proof.Machine.execFnma e k s
  | .fmin e k => Sys2Proof.Machine.execFmin e k s
  | .fmax e k => Sys2Proof.Machine.execFmax e k s
  | .fabs e k => Sys2Proof.Machine.execFabs e k s
  | .fneg e k => Sys2Proof.Machine.execFneg e k s
  | .fcmp e k => Sys2Proof.Machine.execFcmp e k s
  | .fclamp e k => Sys2Proof.Machine.execFclamp e k s
  | .rcp e k => Sys2Proof.Machine.execRcp e k s
  | .rsq e k => Sys2Proof.Machine.execRsq e k s
  | .sqrt e k => Sys2Proof.Machine.execSqrt e k s
  | .exp2 e k => Sys2Proof.Machine.execExp2 e k s
  | .log2 e k => Sys2Proof.Machine.execLog2 e k s
  | .exp e k => Sys2Proof.Machine.execExp e k s
  | .log e k => Sys2Proof.Machine.execLog e k s
  | .tanh e k => Sys2Proof.Machine.execTanh e k s
  | .sigm e k => Sys2Proof.Machine.execSigm e k s
  | .cvt e k => Sys2Proof.Machine.execCvt e k s
  | .rint e k => Sys2Proof.Machine.execRint e k s
  | .ftoi e k => Sys2Proof.Machine.execFtoi e k s
  | .itof e k => Sys2Proof.Machine.execItof e k s
  | .lsum e k => Sys2Proof.Machine.execLsum e k s
  | .lmax e k => Sys2Proof.Machine.execLmax e k s
  | .lmin e k => Sys2Proof.Machine.execLmin e k s
  | .lscan e k => Sys2Proof.Machine.execLscan e k s
  | .lrec e k => Sys2Proof.Machine.execLrec e k s
  | .shuf e k => Sys2Proof.Machine.execShuf e k s
  | .bcast e k => Sys2Proof.Machine.execBcast e k s
  | .lrot e k => Sys2Proof.Machine.execLrot e k s
  | .steer e k => Sys2Proof.Machine.execSteer e k s
  | .merge e k => Sys2Proof.Machine.execMerge e k s
  | .switch e k => Sys2Proof.Machine.execSwitch e k s
  | .route e k => Sys2Proof.Machine.execRoute e k s
  | .gate e k => Sys2Proof.Machine.execGate e k s
  | .count e k => Sys2Proof.Machine.execCount e k s
  | .sploop e k => Sys2Proof.Machine.execSploop e k s
  | .isect e k => Sys2Proof.Machine.execIsect e k s
  | .seqno e k => Sys2Proof.Machine.execSeqno e k s
  | .eosgen e k => Sys2Proof.Machine.execEosgen e k s
  | .prune e k => Sys2Proof.Machine.execPrune e k s
  | .contrib e k => Sys2Proof.Machine.execContrib e k s
  | .mrd e k => Sys2Proof.Machine.execMrd e k s
  | .mwr e k => Sys2Proof.Machine.execMwr e k s
  | .macc e k => Sys2Proof.Machine.execMacc e k s
  | .mpush e k => Sys2Proof.Machine.execMpush e k s
  | .mpop e k => Sys2Proof.Machine.execMpop e k s
  | .mreord e k => Sys2Proof.Machine.execMreord e k s
  | .mreordRelease e => Sys2Proof.Machine.execMreordRelease e s
  | .streamReadToken st => Sys2Proof.Machine.execStreamReadToken st s
  | .streamWriteToken st => Sys2Proof.Machine.execStreamWriteToken st s
  | .gatherToken st => Sys2Proof.Machine.execGatherToken st s
  | .scatterToken st => Sys2Proof.Machine.execScatterToken st s
  | .copyFire q => Sys2Proof.Machine.execCopyFire q s
  | .copyBeat p => Sys2Proof.Machine.execCopyBeat p s
  | .copyComplete p => Sys2Proof.Machine.execCopyComplete p s
  | .keystKey st => Sys2Proof.Machine.execKeystKey st s
  | .bgathQuery st => Sys2Proof.Machine.execBgathQuery st s
  | .pageWalk => Sys2Proof.Machine.execPageWalk s
  | .streamRetry st agent => Sys2Proof.Machine.execStreamRetry st agent s
  | .copyRetry p agent => Sys2Proof.Machine.execCopyRetry p agent s
  | .mxWeightToken n => Sys2Proof.Machine.execMxWeightToken n s
  | .mxMetadataToken n => Sys2Proof.Machine.execMxMetadataToken n s
  | .mxAToken n => Sys2Proof.Machine.execMxAToken n s
  | .mxTile n => Sys2Proof.Machine.execMxTile n s
  | .mxEpilogueToken n => Sys2Proof.Machine.execMxEpilogueToken n s
  | .epEgressToken p => Sys2Proof.Machine.execEpEgressToken p s
  | .epIngressToken p => Sys2Proof.Machine.execEpIngressToken p s
  | .epCredit n => Sys2Proof.Machine.execEpCredit n s
  | .reduceStore n => Sys2Proof.Machine.execReduceStore n s
  | .schedSelect v => Sys2Proof.Machine.execSchedSelect v s
  | .schedInject v => Sys2Proof.Machine.execSchedInject v s
  | .blockAged v => Sys2Proof.Machine.execBlockAged v s
  | .jobSelect => Sys2Proof.Machine.execJobSelect s
  | .dependenceReread => Sys2Proof.Machine.execDependenceReread s
  | .workUnitStart => Sys2Proof.Machine.execWorkUnitStart s
  | .jobRetire => Sys2Proof.Machine.execJobRetire s
  | .jqdWrite q val agent => Sys2Proof.Machine.execJqdWrite q val agent s
  | .ingressPayloadWrite off data => Sys2Proof.Machine.execIngressPayloadWrite off data s
  | .ingressSidebandWrite val => Sys2Proof.Machine.execIngressSidebandWrite val s
  | .launchMessage node partid tag payload => Sys2Proof.Machine.execLaunchMessage node partid tag payload s
  | .asyncTrapEntry => Sys2Proof.Machine.execAsyncTrapEntry s
  | .wdogExpire => Sys2Proof.Machine.execWdogExpire s
  | .wdogWrite val agent => Sys2Proof.Machine.execWdogWrite val agent s
  | .hmsgWrite val agent => Sys2Proof.Machine.execHmsgWrite val agent s
  | .pressUnitSave u => Sys2Proof.Machine.execPressUnitSave u s
  | .pressComplete => Sys2Proof.Machine.execPressComplete s
  | .hcmdPress arg => Sys2Proof.Machine.execHcmdPress arg s
  | .hcmdRestart entry => Sys2Proof.Machine.execHcmdRestart entry s
  | .hcmdFence => Sys2Proof.Machine.execHcmdFence s
  | .hcmdUnfence => Sys2Proof.Machine.execHcmdUnfence s
  | .bootWrite val => Sys2Proof.Machine.execBootWrite val s
  | .reset => Sys2Proof.Machine.execReset s
  | .linkReplay port => Sys2Proof.Machine.execLinkReplay port s
  | .linkDown port => Sys2Proof.Machine.execLinkDown port s
  | .linkUp port => Sys2Proof.Machine.execLinkUp port s
  | .diePathFailure die => Sys2Proof.Machine.execDiePathFailure die s
  | .thermal die => Sys2Proof.Machine.execThermal die s
  | .eccUeReport => Sys2Proof.Machine.execEccUeReport s
  | .ptpFrame state time utc offset => Sys2Proof.Machine.execPtpFrame state time utc offset s
  | .ppsInput => Sys2Proof.Machine.execPpsInput s
  | .triggerFire n => Sys2Proof.Machine.execTriggerFire n s
  | .sinkRecordWrite die x => Sys2Proof.Machine.execSinkRecordWrite die x s
  | .sridxWrite die x val agent => Sys2Proof.Machine.execSridxWrite die x val agent s
  | .scfgWrite die x val agent => Sys2Proof.Machine.execScfgWrite die x val agent s
  | .sbaseWrite die x val agent => Sys2Proof.Machine.execSbaseWrite die x val agent s
  | .windowWrite addr width val agent => Sys2Proof.Machine.execWindowWrite addr width val agent s
  | .writeFrame addr data => Sys2Proof.Machine.execWriteFrame addr data s
  | .ppsOutput => Sys2Proof.Machine.execPpsOutput s
  | .holdover => Sys2Proof.Machine.execHoldover s

end Sys2Proof.Machine
end

