-- ==== Sys2Proof/Machine/Step.lean ====
section
/-! DEFINITION. One step of the package, and placing an instruction for the next step. -/

namespace Sys2Proof.Machine

/-- One step: a turn of the schedule, and what every step settles behind it. -/
def step (s : State) : Host.Outcome State Fault Refusal :=
  let (a, s1) := s.nextTurn
  match s1.todo a with
  | .stop f => .fault f
  | .after s2 => .next (s1.settle s2)
  | .run i s2 =>
    match exec i s2 with
    | .next s3 => .next (s1.settle s3)
    | .fault f => .fault f
    | .refused r => .refused r

/-- The state with a word stored where the next step fetches (log 4). -/
def State.withFetchWord (s : State) (_nbits w : Nat) : State :=
  let s1 := s.readyToFetch
  s1.withWorld (s1.w.store s1.cp.pc.toNat (leBytes 4 w))

end Sys2Proof.Machine
end

