-- ==== Sys2Proof/Safety.lean ====
section
/-! DEFINITION. What the statements are about: the invariant of the registers, what an instruction leaves as it was, what it
means that an instruction completes. -/

namespace Sys2Proof.Machine

/-! The registers of a control processor: the bits that the specification fixes (R14, R84, R103, R130, R137, R138, R352). -/

/-- The program counter and the saved one are multiples of 4, and every reserved bit of a register that is state reads as
zero. -/
structure Cp.Sound (c : Cp) : Prop where
  pc : c.pc.extractLsb' 0 2 = 0
  tepc : c.tepc.extractLsb' 0 2 = 0
  tvb : c.tvb.extractLsb' 0 12 = 0
  mstat : c.mstat.extractLsb' 5 59 = 0
  tcause : c.tcause.extractLsb' 8 55 = 0
  nbv : c.nbv.extractLsb' 2 62 = 0
  curdctl : c.curdctl.extractLsb' 1 63 = 0
  rootLow : c.ptroot.extractLsb' 0 13 = 0
  rootHigh : c.ptroot.extractLsb' 50 14 = 0

/-- The registers of every core are sound. -/
def State.Sound (s : State) : Prop := ∀ c, (cpOf s.cps c).Sound

/-! Frames. -/

/-- Everything but the control processor in turn stands as it stood, every byte of memory among it. -/
structure Still (s t : State) : Prop where
  world : t.w = s.w
  memory : ∀ a, memRead t.w.mem a = memRead s.w.mem a
  schedule : t.schedule = s.schedule
  cur : t.cur = s.cur
  others : ∀ c, c ≠ s.cur → cpOf t.cps c = cpOf s.cps c

/-- The same, when the units may have changed. -/
structure OthersStill (s t : State) : Prop where
  schedule : t.schedule = s.schedule
  cur : t.cur = s.cur
  others : ∀ c, c ≠ s.cur → cpOf t.cps c = cpOf s.cps c

/-- Every register of a control processor but the general registers, the program counter and the counter of retired
instructions. -/
structure Cp.SameControl (c d : Cp) : Prop where
  mode : d.mode = c.mode
  mstat : d.mstat = c.mstat
  nbv : d.nbv = c.nbv
  curdctl : d.curdctl = c.curdctl
  cycleOff : d.cycleOff = c.cycleOff
  unitid : d.unitid = c.unitid
  joblpb : d.joblpb = c.joblpb
  tvb : d.tvb = c.tvb
  tcause : d.tcause = c.tcause
  tepc : d.tepc = c.tepc
  tinfo : d.tinfo = c.tinfo
  tscratch : d.tscratch = c.tscratch
  asid : d.asid = c.asid
  ptroot : d.ptroot = c.ptroot
  wdogLimit : d.wdogLimit = c.wdogLimit
  wdogStart : d.wdogStart = c.wdogStart
  locked : d.locked = c.locked
  waitFrom : d.waitFrom = c.waitFrom
  fetched : d.fetched = c.fetched

/-- A control processor has written one general register, if it is not g0, and no other (R129). -/
structure Cp.OneReg (c d : Cp) (r : Reg) (v : Word) : Prop where
  zero : d.reg 0 = 0
  written : r ≠ 0 → d.reg r = v
  others : ∀ q, q ≠ r → d.reg q = c.reg q

/-- The control processor has completed an instruction that writes register `r` and nothing else of its own. -/
structure Cp.Completed (c d : Cp) (r : Reg) (v : Word) : Prop where
  control : c.SameControl d
  reg : c.OneReg d r v
  pc : d.pc = c.pc + 4
  retired : d.retired = c.retired + 1

/-- An instruction that writes a register and nothing else has completed. -/
structure Wrote (s t : State) (r : Reg) (v : Word) : Prop where
  still : Still s t
  cp : s.cp.Completed t.cp r v

/-- The instruction answers a next state in which it has written register `r` and nothing else. -/
def Writes (i : Instr) (s : State) (r : Reg) (v : Word) : Prop := ∃ t, exec i s = .next t ∧ Wrote s t r v

/-- The instruction answers a next state in which it has completed, writing register `r` (g0 for none); `p` says what became of the
units. -/
def Completes (i : Instr) (s : State) (r : Reg) (v : Word) (p : State → Prop) : Prop :=
  ∃ t, exec i s = .next t ∧ OthersStill s t ∧ s.cp.Completed t.cp r v ∧ p t

/-- A jump has completed at an address, with the return address in g31 if it links. -/
structure Jumped (s t : State) (link : Bool) (target : Word) : Prop where
  still : Still s t
  control : s.cp.SameControl t.cp
  reg : s.cp.OneReg t.cp (if link then 31 else 0) (s.cp.pc + 4)
  pc : t.cp.pc = target
  retired : t.cp.retired = s.cp.retired + 1

/-- The instruction answers a next state in which it has jumped. -/
def Jumps (i : Instr) (s : State) (link : Bool) (target : Word) : Prop := ∃ t, exec i s = .next t ∧ Jumped s t link target

/-! Traps. -/

/-- A control processor has entered the handler of a cause (R353). -/
structure Cp.Trapped (c d : Cp) (cause : BitVec 8) (async : Bool) (epc : Word) (info : TInfo) : Prop where
  tepc : d.tepc = epc
  code : d.tcause.extractLsb' 0 8 = cause
  async : d.tcause.getLsbD 63 = async
  rest : d.tcause.extractLsb' 8 55 = 0
  tinfo : d.tinfo = info
  pprv : d.mstat.getLsbD 2 = c.mstat.getLsbD 0
  pie : d.mstat.getLsbD 3 = c.mstat.getLsbD 1
  prv : d.mstat.getLsbD 0 = true
  ie : d.mstat.getLsbD 1 = false
  xoff : d.mstat.getLsbD 4 = c.mstat.getLsbD 4
  pc : d.pc = c.tvb + 64 * cause.setWidth 64
  gpr : ∀ r, d.reg r = c.reg r
  kept : d.tvb = c.tvb ∧ d.nbv = c.nbv ∧ d.curdctl = c.curdctl ∧ d.tscratch = c.tscratch ∧ d.asid = c.asid ∧
    d.ptroot = c.ptroot ∧ d.unitid = c.unitid ∧ d.joblpb = c.joblpb ∧ d.retired = c.retired ∧ d.mode = c.mode

/-- The instruction answers a next state in which a synchronous cause has been taken, and memory, the schedule and the other
cores' processors are as they were. -/
def Traps (i : Instr) (s : State) (code : BitVec 8) (epc : Word) (info : TInfo) : Prop :=
  ∃ t, exec i s = .next t ∧ OthersStill s t ∧ (∀ a, memRead t.w.mem a = memRead s.w.mem a) ∧
    s.cp.Trapped t.cp code false epc info

/-! Accesses of the control processor. -/

/-- The virtual address, the bytes and the kind of the access that an instruction makes (R345 to R347, R351). -/
def accessOf (i : Instr) (s : State) : Option (Word × Nat × Access) :=
  match i with
  | .ld _ a w _ _ x | .ldu _ a w _ _ x => some (s.dispAddr a w x, bytesOf w, .read)
  | .st _ a w _ _ x => some (s.dispAddr a w x, bytesOf w, .write)
  | .amoadd _ a _ w _ _ | .amoand _ a _ w _ _ | .amoor _ a _ w _ _ | .amoxor _ a _ w _ _ | .amomin _ a _ w _ _
  | .amomax _ a _ w _ _ | .amominu _ a _ w _ _ | .amomaxu _ a _ w _ _ | .amoswap _ a _ w _ _ =>
    some (s.reg a, bytesOf w, .readWrite)
  | .casD _ a _ _ _ => some (s.reg a, 8, .readWrite)
  | .casQ _ a _ _ _ => some (s.reg a, 16, .readWrite)
  | .wait _ a _ _ _ => some (s.reg a, 8, .read)
  | _ => none

/-- The memory at a local address takes plain accesses of the core in turn: DRAM, or a scratchpad in RAM mode, of its
partition (R277, R345, R402). -/
structure PlainAt (s : State) (pa : PhysAddr) : Prop where
  here : pa.remote = false
  reach : s.w.mayReach s.cur pa = true
  region : (∃ c, regionOf pa.addr = .dram c) ∨
    (∃ c e o, regionOf pa.addr = .pad c e o ∧ ((s.w.eng c).cfg e).bankMode = .ram)

/-- A place where a copy or a stream has a plain access in this cycle: in a scratchpad it comes before the grid begins the
cycle (R278). -/
structure UnitAt (s : State) (pa : PhysAddr) : Prop where
  plain : PlainAt s pa
  early : ∀ c e o, regionOf pa.addr = .pad c e o → s.w.gridBegun c = false

/-- No word that `n` bytes touch fails its error check or is to be corrected (R448). -/
structure SoundAt (s : State) (a n : Nat) : Prop where
  failing : s.w.failing a n = none
  corrected : ∀ u ∈ s.w.eccCe, ¬ ((checkWord u).1 < a + n ∧ a < (checkWord u).1 + (checkWord u).2)

/-- No word that `n` bytes touch fails its error check, in memory or in the cache of the control processor in turn (R448). -/
structure CleanAt (s : State) (a n : Nat) : Prop where
  memory : s.w.failing a n = none
  cache : ∀ u ∈ s.eng.cacheUe, ¬ ((checkWord u).1 < a + n ∧ a < (checkWord u).1 + (checkWord u).2)

/-- A place where the control processor has no access of `n` bytes (R345, R402). -/
def NoAccess (s : State) (pa : PhysAddr) (n : Nat) : Prop :=
  (pa.remote = true ∧ s.w.mayReach s.cur pa = false) ∨
  (pa.remote = false ∧
    match regionOf pa.addr with
    | .dram _ => s.w.mayReach s.cur pa = false
    | .pad c e _ => s.w.mayReach s.cur pa = false ∨ ((s.w.eng c).cfg e).bankMode ≠ .ram
    | .window _ _ => s.cp.prv = false ∨ n ≠ 8
    | .ingress _ _ | .absent => True)

/-- A translation that a unit of the core in turn holds serves an address, aligned to `n` bytes, in plain memory whose words are
sound (R282, R300). -/
structure HeldAt (s : State) (asid : BitVec 16) (e : TlbEntry) (va : Word) (n : Nat) : Prop where
  range : va.extractLsb' 56 8 = 0
  aligned : va.toNat % n = 0
  serves : e.serves asid va.toNat = true
  plain : UnitAt s (e.phys s.eng.node va.toNat)
  sound : s.w.failing (e.phys s.eng.node va.toNat).addr n = none

/-- Where a held translation puts a virtual address. -/
def State.heldAddr (s : State) (e : TlbEntry) (va : Word) : Nat := (e.phys s.eng.node va.toNat).addr

/-- The control processors, memory, the schedule and the units of every other core are as they were. -/
structure UnitsOnly (s t : State) : Prop where
  cps : t.cps = s.cps
  cur : t.cur = s.cur
  schedule : t.schedule = s.schedule
  others : ∀ c, c ≠ s.cur → t.w.eng c = s.w.eng c
  memory : ∀ a, memRead t.w.mem a = memRead s.w.mem a

/-- The byte at an address as the core in turn sees it, behind its own stores (R333). -/
def State.sees (s : State) (a : Nat) : Byte := seenByte s.eng.storeBuf s.w.mem a

/-- The little-endian number of `n` bytes that the core in turn sees (R13). -/
def State.seesNat (s : State) (a n : Nat) : Nat := leNat (s.w.seenBytes s.cur a n)

/-- Is an address among the `n` bytes from `a`? -/
def within (a n x : Nat) : Prop := a ≤ x ∧ x < a + n

/-- Byte `k` of a number. -/
def byteOf (v k : Nat) : Byte := BitVec.ofNat 8 (v / 256 ^ k)

/-- Memory after every earlier store of the core has been performed and `n` bytes of a number were written behind them. -/
def Stored (s t : State) (a n v : Nat) : Prop :=
  t.eng.storeBuf = [] ∧
    ∀ x, (within a n x → memRead t.w.mem x = byteOf v (x - a)) ∧ (¬ within a n x → memRead t.w.mem x = s.sees x)

/-! Results of the ALU, from the integers that a pattern stands for (R149 to R151). -/

/-- Division with the fixed results of R150. -/
def quotS (n : Nat) (x y : BitVec n) : BitVec n :=
  if y = 0 then BitVec.allOnes n else BitVec.ofInt n (x.toInt.tdiv y.toInt)
def quotU (n : Nat) (x y : BitVec n) : BitVec n :=
  if y = 0 then BitVec.allOnes n else BitVec.ofNat n (x.toNat / y.toNat)
def restS (n : Nat) (x y : BitVec n) : BitVec n := if y = 0 then x else BitVec.ofInt n (x.toInt.tmod y.toInt)
def restU (n : Nat) (x y : BitVec n) : BitVec n := if y = 0 then x else BitVec.ofNat n (x.toNat % y.toNat)

/-- Shifts and the rotation: the count is taken modulo the width. -/
def shiftL (n : Nat) (x y : BitVec n) : BitVec n := BitVec.ofNat n (x.toNat * 2 ^ (y.toNat % n))
def shiftR (n : Nat) (x y : BitVec n) : BitVec n := BitVec.ofNat n (x.toNat / 2 ^ (y.toNat % n))
def shiftA (n : Nat) (x y : BitVec n) : BitVec n := BitVec.ofInt n (x.toInt / (2 ^ (y.toNat % n) : Nat))
def rotate (n : Nat) (x y : BitVec n) : BitVec n :=
  BitVec.ofNat n (x.toNat * 2 ^ (y.toNat % n)) ||| BitVec.ofNat n (x.toNat / 2 ^ (n - y.toNat % n))

/-- `k` counts the zero bits above the highest set bit, below the lowest one, or all of them. -/
def CountsLeading {n : Nat} (x : BitVec n) (k : Nat) : Prop :=
  k ≤ n ∧ (∀ i, n - k ≤ i → x.getLsbD i = false) ∧ (k < n → x.getLsbD (n - 1 - k) = true)
def CountsTrailing {n : Nat} (x : BitVec n) (k : Nat) : Prop :=
  k ≤ n ∧ (∀ i, i < k → x.getLsbD i = false) ∧ (k < n → x.getLsbD k = true)

/-! Reports to the host (R442). -/

/-- Is there no place in the report ring, or are reports off? -/
def State.ringFull (s : State) : Prop :=
  s.w.host.hrcfg.getLsbD 8 = false ∨
    (s.w.host.hrwidx - s.w.host.hrridx).toNat = 2 ^ (s.w.host.hrcfg.extractLsb' 0 5).toNat

/-- A report is made: with a place in a ring in DRAM of this package it is written there, 32 bytes, and HRWIDX counts it;
without a place the loss is counted. No other byte of memory changes. -/
structure Told (s t : State) (code core : Nat) (i0 i1 : Word) : Prop where
  lost : s.ringFull → t.w.host.hrwidx = s.w.host.hrwidx ∧
    t.w.host.hrlost = (if s.w.host.hrlost = BitVec.allOnes 32 then s.w.host.hrlost else s.w.host.hrlost + 1) ∧
    ∀ z, memRead t.w.mem z = memRead s.w.mem z
  written : ¬ s.ringFull → ∀ a : Word,
    a = s.w.host.hrbase + BitVec.ofNat 64 (32 * (s.w.host.hrwidx.toNat % 2 ^ (s.w.host.hrcfg.extractLsb' 0 5).toNat)) →
    a.extractLsb' 50 14 = (s.w.eng 0).node → (∃ c, regionOf (a.toNat % 2 ^ 50) = .dram c) → Memory.wf s.w.mem = true →
    t.w.host.hrwidx = s.w.host.hrwidx + 1 ∧ t.w.host.hrlost = s.w.host.hrlost ∧
      ∀ z, (within (a.toNat % 2 ^ 50) 32 z → memRead t.w.mem z =
          byteOf ((code * 2 ^ 56 + core) % 2 ^ 64 + s.w.time % 2 ^ 64 * 2 ^ 64 + i0.toNat * 2 ^ 128 + i1.toNat * 2 ^ 192)
            (z - a.toNat % 2 ^ 50)) ∧
        (¬ within (a.toNat % 2 ^ 50) 32 z → memRead t.w.mem z = memRead s.w.mem z)

/-- A control processor's special registers, its general registers and its saved registers, all but the mode, stand. -/
structure Cp.SameButMode (c d : Cp) : Prop where
  gpr : ∀ r, d.reg r = c.reg r
  pc : d.pc = c.pc
  mstat : d.mstat = c.mstat
  nbv : d.nbv = c.nbv
  curdctl : d.curdctl = c.curdctl
  cycleOff : d.cycleOff = c.cycleOff
  retired : d.retired = c.retired
  unitid : d.unitid = c.unitid
  joblpb : d.joblpb = c.joblpb
  tvb : d.tvb = c.tvb
  tcause : d.tcause = c.tcause
  tepc : d.tepc = c.tepc
  tinfo : d.tinfo = c.tinfo
  tscratch : d.tscratch = c.tscratch
  asid : d.asid = c.asid
  ptroot : d.ptroot = c.ptroot
  wdogLimit : d.wdogLimit = c.wdogLimit
  wdogStart : d.wdogStart = c.wdogStart

/-! Stages. -/

/-- The operation, the element and the stage of an instruction that is a firing (R6, R196, R219). -/
def stageOf : Instr → Option (StageOp × BitVec 7 × BitVec 3)
  | .pass e k => some (.pass, e, k)
  | .const e k => some (.const, e, k)
  | .delay e k => some (.delay, e, k)
  | .iadd e k => some (.iadd, e, k)
  | .isub e k => some (.isub, e, k)
  | .imul e k => some (.imul, e, k)
  | .imulh e k => some (.imulh, e, k)
  | .imac e k => some (.imac, e, k)
  | .ineg e k => some (.ineg, e, k)
  | .iabs e k => some (.iabs, e, k)
  | .imin e k => some (.imin, e, k)
  | .imax e k => some (.imax, e, k)
  | .isadd e k => some (.isadd, e, k)
  | .issub e k => some (.issub, e, k)
  | .iclamp e k => some (.iclamp, e, k)
  | .stageAnd e k => some (.stageAnd, e, k)
  | .stageOr e k => some (.stageOr, e, k)
  | .stageXor e k => some (.stageXor, e, k)
  | .stageNot e k => some (.stageNot, e, k)
  | .stageShl e k => some (.stageShl, e, k)
  | .stageShr e k => some (.stageShr, e, k)
  | .stageSar e k => some (.stageSar, e, k)
  | .icmp e k => some (.icmp, e, k)
  | .sel e k => some (.sel, e, k)
  | .idot4 e k => some (.idot4, e, k)
  | .idot2 e k => some (.idot2, e, k)
  | .fadd e k => some (.fadd, e, k)
  | .fsub e k => some (.fsub, e, k)
  | .fmul e k => some (.fmul, e, k)
  | .fma e k => some (.fma, e, k)
  | .fnma e k => some (.fnma, e, k)
  | .fmin e k => some (.fmin, e, k)
  | .fmax e k => some (.fmax, e, k)
  | .fabs e k => some (.fabs, e, k)
  | .fneg e k => some (.fneg, e, k)
  | .fcmp e k => some (.fcmp, e, k)
  | .fclamp e k => some (.fclamp, e, k)
  | .rcp e k => some (.rcp, e, k)
  | .rsq e k => some (.rsq, e, k)
  | .sqrt e k => some (.sqrt, e, k)
  | .exp2 e k => some (.exp2, e, k)
  | .log2 e k => some (.log2, e, k)
  | .exp e k => some (.exp, e, k)
  | .log e k => some (.log, e, k)
  | .tanh e k => some (.tanh, e, k)
  | .sigm e k => some (.sigm, e, k)
  | .cvt e k => some (.cvt, e, k)
  | .rint e k => some (.rint, e, k)
  | .ftoi e k => some (.ftoi, e, k)
  | .itof e k => some (.itof, e, k)
  | .lsum e k => some (.lsum, e, k)
  | .lmax e k => some (.lmax, e, k)
  | .lmin e k => some (.lmin, e, k)
  | .lscan e k => some (.lscan, e, k)
  | .lrec e k => some (.lrec, e, k)
  | .shuf e k => some (.shuf, e, k)
  | .bcast e k => some (.bcast, e, k)
  | .lrot e k => some (.lrot, e, k)
  | .steer e k => some (.steer, e, k)
  | .merge e k => some (.merge, e, k)
  | .switch e k => some (.switch, e, k)
  | .route e k => some (.route, e, k)
  | .gate e k => some (.gate, e, k)
  | .count e k => some (.count, e, k)
  | .sploop e k => some (.sploop, e, k)
  | .isect e k => some (.isect, e, k)
  | .seqno e k => some (.seqno, e, k)
  | .eosgen e k => some (.eosgen, e, k)
  | .prune e k => some (.prune, e, k)
  | .contrib e k => some (.contrib, e, k)
  | .mrd e k => some (.mrd, e, k)
  | .mwr e k => some (.mwr, e, k)
  | .macc e k => some (.macc, e, k)
  | .mpush e k => some (.mpush, e, k)
  | .mpop e k => some (.mpop, e, k)
  | .mreord e k => some (.mreord, e, k)
  | _ => none

/-- The record that a sink is forming at a stage and the slot are of no scheduled vat (R263 to R265). -/
def NotScheduled (s : State) (v e k : Nat) : Prop :=
  (∀ p, (s.eng.vat v).active = some p → p.scheduled = false) ∧
    recordWhole (Tbl.get s.eng.sched.forming [] (sinkStage e k)) = false

end Sys2Proof.Machine
end

