-- ==== Sys2Proof/Certificates/Slice0/Obligations.lean ====
section
/-! DEFINITION. The statements about the model, one definition each. -/

open Sys2Proof Sys2Proof.Machine

/-- With W = 0 each of the 33 ALU functions answers a next state in which the destination holds the value of R149, computed from the integers that the source patterns stand for; no other register of the processor changes but the program counter and the count of retired instructions, and nothing else of the machine changes. (R149) -/
def Obligations.AluResults : Prop :=
  ∀ (s : State) (d a b : Reg),
    let x := s.reg a
    let y := s.reg b
    Writes (.add d a b 0) s d (BitVec.ofNat 64 (x.toNat + y.toNat)) ∧
    Writes (.sub d a b 0) s d (BitVec.ofInt 64 (x.toInt - y.toInt)) ∧
    Writes (.mul d a b 0) s d (BitVec.ofNat 64 (x.toNat * y.toNat)) ∧
    Writes (.mulh d a b) s d (BitVec.ofInt 64 (x.toInt * y.toInt / 2 ^ 64)) ∧
    Writes (.mulhu d a b) s d (BitVec.ofNat 64 (x.toNat * y.toNat / 2 ^ 64)) ∧
    Writes (.div d a b 0) s d (quotS 64 x y) ∧
    Writes (.divu d a b 0) s d (quotU 64 x y) ∧
    Writes (.rem d a b 0) s d (restS 64 x y) ∧
    Writes (.remu d a b 0) s d (restU 64 x y) ∧
    Writes (.and d a b) s d (x &&& y) ∧
    Writes (.or d a b) s d (x ||| y) ∧
    Writes (.xor d a b) s d (x ^^^ y) ∧
    Writes (.andn d a b) s d (x &&& ~~~y) ∧
    Writes (.shl d a b 0) s d (shiftL 64 x y) ∧
    Writes (.shr d a b 0) s d (shiftR 64 x y) ∧
    Writes (.sar d a b 0) s d (shiftA 64 x y) ∧
    Writes (.rol d a b 0) s d (rotate 64 x y) ∧
    Writes (.min d a b) s d (if x.toInt ≤ y.toInt then x else y) ∧
    Writes (.max d a b) s d (if x.toInt ≥ y.toInt then x else y) ∧
    Writes (.minu d a b) s d (if x.toNat ≤ y.toNat then x else y) ∧
    Writes (.maxu d a b) s d (if x.toNat ≥ y.toNat then x else y) ∧
    Writes (.seq d a b) s d (if x = y then 1 else 0) ∧
    Writes (.sne d a b) s d (if x = y then 0 else 1) ∧
    Writes (.slt d a b) s d (if x.toInt < y.toInt then 1 else 0) ∧
    Writes (.sltu d a b) s d (if x.toNat < y.toNat then 1 else 0) ∧
    Writes (.sle d a b) s d (if x.toInt ≤ y.toInt then 1 else 0) ∧
    Writes (.sleu d a b) s d (if x.toNat ≤ y.toNat then 1 else 0) ∧
    (∃ k, CountsLeading x k ∧ Writes (.clz d a 0) s d (BitVec.ofNat 64 k)) ∧
    (∃ k, CountsTrailing x k ∧ Writes (.ctz d a 0) s d (BitVec.ofNat 64 k)) ∧
    Writes (.popc d a 0) s d (BitVec.ofNat 64 ((List.range 64).filter (fun i => x.getLsbD i)).length) ∧
    (∀ w : BitVec 5, w.toNat < 3 →
      Writes (.sext d a w) s d (BitVec.ofInt 64 (x.setWidth (8 * 2 ^ w.toNat)).toInt) ∧
      Writes (.zext d a w) s d (BitVec.ofNat 64 (x.toNat % 2 ^ (8 * 2 ^ w.toNat)))) ∧
    (∃ v : Word, (∀ k, k < 8 → v.extractLsb' (8 * k) 8 = x.extractLsb' (8 * (7 - k)) 8) ∧ Writes (.bswap d a) s d v)

/-- With W = 1 the functions that admit it work on the low 32 bits of their sources; shifts and rotates take their count modulo 32, CLZ and CTZ count within 32 bits, and the 32-bit result is sign-extended. (R149, R150, R151) -/
def Obligations.AluWordForms : Prop :=
  ∀ (s : State) (d a b : Reg),
    let x := (s.reg a).setWidth 32
    let y := (s.reg b).setWidth 32
    Writes (.add d a b 1) s d ((BitVec.ofNat 32 (x.toNat + y.toNat)).signExtend 64) ∧
    Writes (.sub d a b 1) s d ((BitVec.ofInt 32 (x.toInt - y.toInt)).signExtend 64) ∧
    Writes (.mul d a b 1) s d ((BitVec.ofInt 32 (x.toInt * y.toInt)).signExtend 64) ∧
    Writes (.div d a b 1) s d ((quotS 32 x y).signExtend 64) ∧
    Writes (.divu d a b 1) s d ((quotU 32 x y).signExtend 64) ∧
    Writes (.rem d a b 1) s d ((restS 32 x y).signExtend 64) ∧
    Writes (.remu d a b 1) s d ((restU 32 x y).signExtend 64) ∧
    Writes (.shl d a b 1) s d ((shiftL 32 x y).signExtend 64) ∧
    Writes (.shr d a b 1) s d ((shiftR 32 x y).signExtend 64) ∧
    Writes (.sar d a b 1) s d ((shiftA 32 x y).signExtend 64) ∧
    Writes (.rol d a b 1) s d ((rotate 32 x y).signExtend 64) ∧
    (∃ k, CountsLeading x k ∧ Writes (.clz d a 1) s d (BitVec.ofNat 64 k)) ∧
    (∃ k, CountsTrailing x k ∧ Writes (.ctz d a 1) s d (BitVec.ofNat 64 k)) ∧
    Writes (.popc d a 1) s d (BitVec.ofNat 64 ((List.range 32).filter (fun i => x.getLsbD i)).length)

/-- The quotient and the remainder that DIV and REM, DIVU and REMU write satisfy x = q y + r, with r smaller than y and of the sign of the dividend; a zero divisor gives all ones and the dividend; the most negative number divided by -1 gives itself and 0. (R150) -/
def Obligations.DivisionLaws : Prop :=
  ∀ (s : State) (d a b : Reg),
    let x := s.reg a
    let y := s.reg b
    (y = 0 →
      Writes (.div d a b 0) s d 0xFFFFFFFFFFFFFFFF ∧ Writes (.divu d a b 0) s d 0xFFFFFFFFFFFFFFFF ∧
      Writes (.rem d a b 0) s d x ∧ Writes (.remu d a b 0) s d x) ∧
    (x = 0x8000000000000000 → y = 0xFFFFFFFFFFFFFFFF →
      Writes (.div d a b 0) s d 0x8000000000000000 ∧ Writes (.rem d a b 0) s d 0) ∧
    (y ≠ 0 → ∃ q r : Word, Writes (.divu d a b 0) s d q ∧ Writes (.remu d a b 0) s d r ∧
      x.toNat = q.toNat * y.toNat + r.toNat ∧ r.toNat < y.toNat) ∧
    (y ≠ 0 → ¬ (x = 0x8000000000000000 ∧ y = 0xFFFFFFFFFFFFFFFF) →
      ∃ q r : Word, Writes (.div d a b 0) s d q ∧ Writes (.rem d a b 0) s d r ∧
        x.toInt = q.toInt * y.toInt + r.toInt ∧ r.toInt.natAbs < y.toInt.natAbs ∧
        (r.toInt = 0 ∨ (0 < r.toInt ↔ 0 < x.toInt)))

/-- ADDI, ANDI, ORI, XORI, SLTI, SLTUI, LIH and the three shifts by an immediate write the values of R153 and R154, from the integers the patterns stand for, and nothing else. (R153, R154) -/
def Obligations.ImmediateResults : Prop :=
  ∀ (s : State) (d a : Reg) (i : BitVec 16) (n : BitVec 6),
    let x := s.reg a
    Writes (.addi d a i) s d (BitVec.ofInt 64 (x.toInt + i.toInt)) ∧
    Writes (.andi d a i) s d (x &&& BitVec.ofNat 64 i.toNat) ∧
    Writes (.ori d a i) s d (x ||| BitVec.ofNat 64 i.toNat) ∧
    Writes (.xori d a i) s d (x ^^^ BitVec.ofNat 64 i.toNat) ∧
    Writes (.slti d a i) s d (if x.toInt < i.toInt then 1 else 0) ∧
    Writes (.sltui d a i) s d (if x.toNat < (BitVec.ofInt 64 i.toInt).toNat then 1 else 0) ∧
    Writes (.lih d a i) s d (BitVec.ofNat 64 (x.toNat * 2 ^ 16 + i.toNat)) ∧
    Writes (.shli d a n) s d (BitVec.ofNat 64 (x.toNat * 2 ^ n.toNat)) ∧
    Writes (.shri d a n) s d (BitVec.ofNat 64 (x.toNat / 2 ^ n.toNat)) ∧
    Writes (.sari d a n) s d (BitVec.ofInt 64 (x.toInt / (2 ^ n.toNat : Nat)))

/-- B and CALL go to the address of the instruction plus four times the signed displacement, CALL with the return address in g31; a branch goes there when its condition on the integers holds, else to the next word; JR and CALLR go to the register, read before g31 is written, if it is a multiple of 4, and else take MISALIGN with that address as information. None checks its target. (R155, R156, R157, R158) -/
def Obligations.JumpsAndBranches : Prop :=
  ∀ (s : State) (a b : Reg) (i : BitVec 12) (j : BitVec 26),
    let x := s.reg a
    let y := s.reg b
    let pc := s.cp.pc
    let next := BitVec.ofInt 64 (pc.toInt + 4)
    let far := BitVec.ofInt 64 (pc.toInt + 4 * i.toInt)
    Jumps (.jump j) s false (BitVec.ofInt 64 (pc.toInt + 4 * j.toInt)) ∧
    Jumps (.call j) s true (BitVec.ofInt 64 (pc.toInt + 4 * j.toInt)) ∧
    Jumps (.beq a b i) s false (if x = y then far else next) ∧
    Jumps (.bne a b i) s false (if x = y then next else far) ∧
    Jumps (.blt a b i) s false (if x.toInt < y.toInt then far else next) ∧
    Jumps (.bge a b i) s false (if x.toInt ≥ y.toInt then far else next) ∧
    Jumps (.bltu a b i) s false (if x.toNat < y.toNat then far else next) ∧
    Jumps (.bgeu a b i) s false (if x.toNat ≥ y.toNat then far else next) ∧
    (x.toNat % 4 = 0 → Jumps (.jr a) s false x ∧ Jumps (.callr a) s true x) ∧
    (x.toNat % 4 ≠ 0 →
      Traps (.jr a) s 0x03 pc ⟨x, 0, 0, 0⟩ ∧ Traps (.callr a) s 0x03 pc ⟨x, 0, 0, 0⟩)

/-- A naturally aligned LD or LDU whose translation gives a DRAM address, or a scratchpad address in RAM mode, completes with the little-endian bytes that the core sees behind its own stores, sign-extended by LD and zero-extended by LDU; memory and every other register keep their values. The access meets no word that fails its error check. (R13, R333, R345) -/
def Obligations.Loads : Prop :=
  ∀ (s : State) (d a : Reg) (w o p : BitVec 2) (i : BitVec 10) (pa : PhysAddr) (w1 : World),
    let n : Nat := 2 ^ w.toNat
    let va := BitVec.ofInt 64 ((s.reg a).toInt + i.toInt * n)
    okLoadOrder o = true → va.toNat % n = 0 → s.translate .read va = (.ok pa, w1) → PlainAt s pa →
    CleanAt s pa.addr n →
      Completes (.ld d a w o p i) s d ((BitVec.ofNat (8 * n) (s.seesNat pa.addr n)).signExtend 64)
        (fun t => t.w.mem = s.w.mem ∧ t.eng.storeBuf = s.eng.storeBuf) ∧
      Completes (.ldu d a w o p i) s d ((BitVec.ofNat (8 * n) (s.seesNat pa.addr n)).setWidth 64)
        (fun t => t.w.mem = s.w.mem ∧ t.eng.storeBuf = s.eng.storeBuf)

/-- In a memory of canonical form, a naturally aligned ST whose translation gives a DRAM address, or a scratchpad address in RAM mode, completes; the bytes stored are those of the register, lowest first, at the address that the displacement and the translation give, and the core sees every other byte as before. A byte of memory differs from before only inside the store or inside an earlier store that waited in the buffer. A release store leaves the buffer empty, so that memory itself holds what the core sees: the model's choice (log 6; R336 asks it of the stores of the scope's instance). Stores to a register window or to another package are not spoken of. (R13, R143, R333, R345) -/
def Obligations.Stores : Prop :=
  ∀ (s : State) (r a : Reg) (w o p : BitVec 2) (i : BitVec 10) (pa : PhysAddr) (w1 : World),
    let n : Nat := 2 ^ w.toNat
    let va := BitVec.ofInt 64 ((s.reg a).toInt + i.toInt * n)
    Memory.wf s.w.mem = true → okStoreOrder o = true → va.toNat % n = 0 → s.translate .write va = (.ok pa, w1) → PlainAt s pa →
      Completes (.st r a w o p i) s 0 0 (fun t =>
        (∀ x, (within pa.addr n x → t.sees x = byteOf (s.reg r).toNat (x - pa.addr)) ∧
          (¬ within pa.addr n x → t.sees x = s.sees x)) ∧
        (∀ x, memRead t.w.mem x ≠ memRead s.w.mem x →
          within pa.addr n x ∨ ∃ q ∈ s.eng.storeBuf, within q.addr q.len x) ∧
        (o = 2 → t.eng.storeBuf = []))

/-- In a memory of canonical form, a naturally aligned AMO on plain memory completes with the old value, sign-extended, in its destination, after performing every earlier store of the core, whatever its order code, which is the model's choice (log 6); it writes the function of the old value and of the register, at its width, and every other byte of memory is what the core saw before. (R342, R346) -/
def Obligations.AtomicOperations : Prop :=
  ∀ (s : State) (d a b : Reg) (w o p : BitVec 2) (pa : PhysAddr) (w1 : World),
    let n : Nat := 2 ^ w.toNat
    let old := s.seesNat pa.addr n
    let x := (s.reg b).toNat % 2 ^ (8 * n)
    let signed (v : Nat) : Int := (BitVec.ofNat (8 * n) v).toInt
    let does (i : Instr) (v : Nat) : Prop :=
      Completes i s d ((BitVec.ofNat (8 * n) old).signExtend 64) (fun t => Stored s t pa.addr n v)
    Memory.wf s.w.mem = true → okAmoWidth w = true → (s.reg a).toNat % n = 0 →
    s.translate .readWrite (s.reg a) = (.ok pa, w1) → PlainAt s pa →
    CleanAt s pa.addr n →
      does (.amoadd d a b w o p) ((old + x) % 2 ^ (8 * n)) ∧
      does (.amoand d a b w o p) (old &&& x) ∧
      does (.amoor d a b w o p) (old ||| x) ∧
      does (.amoxor d a b w o p) (old ^^^ x) ∧
      does (.amomin d a b w o p) (if signed old ≤ signed x then old else x) ∧
      does (.amomax d a b w o p) (if signed old ≤ signed x then x else old) ∧
      does (.amominu d a b w o p) (if old ≤ x then old else x) ∧
      does (.amomaxu d a b w o p) (if old ≤ x then x else old) ∧
      does (.amoswap d a b w o p) x

/-- In a memory of canonical form, a naturally aligned CAS on plain memory completes with the old value in the destination, a pair of registers for CAS.q; it writes the new value where the old one is the expected one, and else leaves what the core saw. Every earlier store has been performed before it: the model's choice (log 6). (R347) -/
def Obligations.CompareAndSwap : Prop :=
  ∀ (s : State) (d a b : Reg) (o p : BitVec 2) (pa : PhysAddr) (w1 : World),
    Memory.wf s.w.mem = true → s.translate .readWrite (s.reg a) = (.ok pa, w1) → PlainAt s pa →
    ((s.reg a).toNat % 8 = 0 → CleanAt s pa.addr 8 →
      Completes (.casD d a b o p) s d (BitVec.ofNat 64 (s.seesNat pa.addr 8)) (fun t =>
        Stored s t pa.addr 8 (if s.seesNat pa.addr 8 = (s.reg d).toNat then (s.reg b).toNat else s.seesNat pa.addr 8))) ∧
    ((s.reg a).toNat % 16 = 0 → d.toNat % 2 = 0 → b.toNat % 2 = 0 → CleanAt s pa.addr 16 →
      let old := s.seesNat pa.addr 16
      let two (r : Reg) : Nat := (s.reg r).toNat + 2 ^ 64 * (s.reg (r + 1)).toNat
      ∃ t, exec (.casQ d a b o p) s = .next t ∧ OthersStill s t ∧ s.cp.SameControl t.cp ∧
        t.cp.pc = s.cp.pc + 4 ∧ t.cp.retired = s.cp.retired + 1 ∧
        t.cp.reg d = (if d = 0 then 0 else BitVec.ofNat 64 old) ∧
        t.cp.reg (d + 1) = BitVec.ofNat 64 (old / 2 ^ 64) ∧
        (∀ r, r ≠ d → r ≠ d + 1 → t.cp.reg r = s.cp.reg r) ∧
        Stored s t pa.addr 16 (if old = two d then two b else old))

/-- An access of LD, LDU, ST, an AMO, a CAS or WAIT at an address that is no multiple of its size takes MISALIGN with the address; an aligned one whose translation is refused takes XLATE with the address, the refusal and the address space; one that reaches an ingress port, an absent address, a scratchpad outside RAM mode, a register window without privilege or with another width, or another partition takes XLATE with reason BUS. One without a translation at hand waits at its instruction, with a walk of its page asked for unless one runs (log 14). A trap changes no general register and no byte of memory. (R300, R301, R345, R346, R347, R351, R402) -/
def Obligations.AccessChecks : Prop :=
  ∀ (i : Instr) (s : State) (va : Word) (n : Nat) (k : Access),
    i.wellFormed = true → accessOf i s = some (va, n, k) →
    let pc := s.cp.pc
    let asid := s.cp.asid.setWidth 64
    (va.toNat % n ≠ 0 → Traps i s 0x03 pc ⟨va, 0, 0, 0⟩) ∧
    (va.toNat % n = 0 → ∀ r w1, s.translate k va = (.error (.refused r), w1) →
      Traps i s 0x04 pc ⟨va, refusedInfo r (k != .read) false, asid, 0⟩) ∧
    (va.toNat % n = 0 → ∀ pa w1, s.translate k va = (.ok pa, w1) → NoAccess s pa n →
      Traps i s 0x04 pc ⟨va, refusedInfo ⟨5, 0⟩ (k != .read) false, asid, 0⟩) ∧
    (va.toNat % n = 0 → ∀ w1, s.translate k va = (.error .walk, w1) →
      (s.eng.walking s.cp.asid va = true → w1 = s.w) ∧
      (s.eng.walking s.cp.asid va = false → ∃ q, w1.eng s.cur = s.eng.askWalk q ∧ q.who = .cp ∧ q.asid = s.cp.asid ∧
        q.ptroot = s.cp.ptroot ∧ q.va = va ∧ q.priv = s.cp.prv ∧ q.access = k) ∧
      ∃ t, exec i s = .next t ∧ OthersStill s t ∧ t.w = w1 ∧ t.w.mem = s.w.mem ∧
        t.cp = { s.cp with asked := some s.w.cycle })

/-- In a memory of canonical form: FENCE completes, and the core sees every byte as before; every kind but acq performs its earlier stores of the scope's instance: none to its own core's memory stays in the buffer, at die scope none to its die's, and from pkg scope on none at all, so that memory holds what the core sees. SBAR completes when its mask names only streams and no command waits for one of their generators, takes ILLEGAL for a mask with a high bit set, and otherwise waits. WAIT on plain memory completes with the word once the word has reached the threshold or the core has been woken, and otherwise waits with its program counter unmoved. That a FENCE acq and an SBAR change nothing, since every access of a stream is performed when it starts, is the model's choice (log 6); that a WAIT clears the wake flag also where it leaves at the threshold is its reading (log 9). (R349, R350, R351) -/
def Obligations.OrderingInstructions : Prop :=
  ∀ (s : State) (d a b : Reg) (o p : BitVec 2), Memory.wf s.w.mem = true →
    Completes (.fence o p) s 0 0 (fun t => (∀ x, t.sees x = s.sees x) ∧ t.eng.commands = s.eng.commands ∧
      (o = 1 → t.w = s.w) ∧
      (o ≠ 1 → (∀ q ∈ t.eng.storeBuf, q ∈ s.eng.storeBuf ∧ (regionOf q.addr).core ≠ some s.cur ∧
        (p = 1 → ∀ c, (regionOf q.addr).core = some c → c / 24 ≠ s.cur / 24)) ∧
        (2 ≤ p.toNat → t.eng.storeBuf = [] ∧ ∀ x, memRead t.w.mem x = s.sees x))) ∧
    ((s.reg a).toNat < 2 ^ 32 →
      let busy := ∃ k ∈ s.eng.commands, ∃ n, Instr.generator k.instr = some n ∧
        ((s.reg a).getLsbD (2 * n) = true ∨ (s.reg a).getLsbD (2 * n + 1) = true)
      (¬ busy → Completes (.sbar a p) s 0 0 (fun t => t.w = s.w)) ∧ (busy → exec (.sbar a p) s = .next s)) ∧
    (2 ^ 32 ≤ (s.reg a).toNat →
      Traps (.sbar a p) s 0x01 s.cp.pc ⟨s.reg a, 0, (Instr.sbar a p).word.setWidth 64, 0⟩) ∧
    (∀ pa w1, (s.reg a).toNat % 8 = 0 → s.translate .read (s.reg a) = (.ok pa, w1) → PlainAt s pa →
      CleanAt s pa.addr 8 → okLoadOrder o = true →
      let v := s.seesNat pa.addr 8
      (s.eng.wake = true ∨ (s.reg b).toNat ≤ v →
        Completes (.wait d a b o p) s d (BitVec.ofNat 64 v) (fun t => t.w.mem = s.w.mem ∧ t.eng.wake = false)) ∧
      (s.eng.wake = false → v < (s.reg b).toNat →
        ∃ t, exec (.wait d a b o p) s = .next t ∧ t.cps = s.cps ∧ t.w.mem = s.w.mem))

/-- TRAP and BRK, whatever IE holds, and the taking of a pending asynchronous cause enter the handler by the sequence of R353: TEPC, TCAUSE with the code and the asynchronous bit, TINFO0 to TINFO3, PPRV and PIE from PRV and IE, PRV set, IE clear, and the program counter at TVB + 64 times the code. The general registers and every other special register keep their values. TRAP saves the address behind it, BRK its own; an asynchronous cause, which is taken unless a CFGW or PRESS save has its answer, saves the address of the next instruction, and the cause that comes first in the order of R356 is the one taken. A GUARD counts the drops of its port up to the cycle of the taking, what has arrived in it among them. That a CFGW or PRESS save whose answer is there completes first is the model's reading (log 9). (R353, R354, R355, R356, R359, R410) -/
def Obligations.TrapEntry : Prop :=
  ∀ (s : State) (n : BitVec 12),
    Traps (.trap n) s 0x07 (s.cp.pc + 4) ⟨n.setWidth 64, 0, 0, 0⟩ ∧
    Traps (.brk n) s 0x08 s.cp.pc ⟨n.setWidth 64, 0, 0, 0⟩ ∧
    (s.cp.ie = true → s.cp.locked = false → s.cp.mode = .running → s.answered = false → s.eng.pend ≠ [] →
      let rank (q : Pending) : Nat := if q.code = 0x09 then 0 else q.code.toNat
      ∃ t, ∃ q ∈ s.eng.pend,
        let u := if q.code = 0x16 then s.withWorld ((s.w.arrived s.cur).guardCycle s.cur) else s
        exec .asyncTrapEntry s = .next t ∧ OthersStill s t ∧ t.w.mem = s.w.mem ∧
        (∀ q' ∈ s.eng.pend, rank q < rank q' ∨ (rank q = rank q' ∧ q.source ≤ q'.source)) ∧
        s.cp.Trapped t.cp q.code true s.cp.pc (if q.code = 0x16 then
          { q.info with t1 := (u.eng.port q.source).dcnt.setWidth 64 } else q.info) ∧
        (∀ q' : Pending, q' ∈ t.eng.pend ↔ q' ∈ u.eng.pend ∧ ¬ (q'.code = q.code ∧ q'.source = q.source)))

/-- In the privileged mode ERET goes to TEPC and restores PRV from PPRV and IE from PIE, clearing both; XOFF, the trap registers and the general registers keep their values, and but for a held query under DENSE nothing else changes. NOP completes and changes nothing else. IDLE in the privileged mode completes once an asynchronous cause is pending, whatever IE holds; until then the processor idles with its program counter at the IDLE. Without privilege ERET and IDLE take PRIV. (R43, R131, R359) -/
def Obligations.TrapReturn : Prop :=
  ∀ s : State,
    (s.cp.prv = true → ∃ t, exec .eret s = .next t ∧ OthersStill s t ∧ t.w.mem = s.w.mem ∧
      t.cp.pc = s.cp.tepc ∧ t.cp.retired = s.cp.retired + 1 ∧
      t.cp.mstat.getLsbD 0 = s.cp.mstat.getLsbD 2 ∧ t.cp.mstat.getLsbD 1 = s.cp.mstat.getLsbD 3 ∧
      t.cp.mstat.getLsbD 2 = false ∧ t.cp.mstat.getLsbD 3 = false ∧ t.cp.mstat.getLsbD 4 = s.cp.mstat.getLsbD 4 ∧
      t.cp.mstat.extractLsb' 5 59 = 0 ∧
      (∀ r, t.cp.reg r = s.cp.reg r) ∧ t.cp.tepc = s.cp.tepc ∧ t.cp.tcause = s.cp.tcause ∧ t.cp.tinfo = s.cp.tinfo ∧
      t.cp.tvb = s.cp.tvb ∧ t.cp.tscratch = s.cp.tscratch ∧ t.cp.asid = s.cp.asid ∧ t.cp.ptroot = s.cp.ptroot ∧
      (s.cp.tcause.extractLsb' 0 8 ≠ 0x13 → t.w = s.w)) ∧
    (s.cp.prv = false → Traps .eret s 0x02 s.cp.pc ⟨(Instr.word .eret).setWidth 64, 0, 0, 0⟩) ∧
    Completes .nop s 0 0 (fun t => t.w = s.w) ∧
    (s.cp.prv = true → s.cp.mode = .running → s.eng.pend ≠ [] → Completes .idle s 0 0 (fun t => t.w = s.w)) ∧
    (s.cp.prv = true → s.eng.pend = [] →
      ∃ t, exec .idle s = .next t ∧ Still s t ∧ t.cp = { s.cp with mode := .idling }) ∧
    (s.cp.prv = false → Traps .idle s 0x02 s.cp.pc ⟨(Instr.word .idle).setWidth 64, 0, 0, 0⟩)

/-- In a memory of canonical form and in the privileged mode each TLBI completes, with every entry it names gone from the TLB of the core and from its streams, copies and matrix nodes, and every other entry kept; every store that waited has been performed, and the walks under way note what was named, so that their result for such a page is not kept. TLBI asid with a bit above the identifier set takes ILLEGAL, and without privilege each takes PRIV, TLBI asid whatever its operand holds, which is the model's reading (log 26). The entries of matrix nodes, which no rule names, are the model's own (log 14). (R304, R360) -/
def Obligations.TlbInvalidation : Prop :=
  ∀ (s : State) (a : Reg), Memory.wf s.w.mem = true →
    let x := s.reg a
    let page (e : TlbEntry) : Prop := x.toNat / 2 ^ e.bits * 2 ^ e.bits = e.va
    let drops (i : Instr) (kind : TlbiKind) (named : TlbEntry → Prop) : Prop := Completes i s 0 0 (fun t =>
      (∀ z, memRead t.w.mem z = s.sees z) ∧ t.eng.storeBuf = [] ∧ t.eng.commands = s.eng.commands ∧
      t.eng.walks = s.eng.walks.map (fun q => if q.live then { q with named := q.named ++ [kind] } else q) ∧
      (∀ e, e ∈ t.eng.tlb ↔ e ∈ s.eng.tlb ∧ ¬ named e) ∧
      (∀ k e, (t.eng.stream k).entry = some e ↔ (s.eng.stream k).entry = some e ∧ ¬ named e) ∧
      (∀ k z, Tbl.find s.eng.copies k = some z → ∃ z', Tbl.find t.eng.copies k = some z' ∧
        ∀ e, (z'.srcEntry = some e ↔ z.srcEntry = some e ∧ ¬ named e) ∧
          (z'.dstEntry = some e ↔ z.dstEntry = some e ∧ ¬ named e)) ∧
      (∀ k z, Tbl.find s.eng.mx k = some z → ∃ z', Tbl.find t.eng.mx k = some z' ∧
        ∀ e, z'.entry = some e ↔ z.entry = some e ∧ ¬ named e))
    (s.cp.prv = true →
      drops .tlbiAll .all (fun _ => True) ∧
      (x.toNat < 2 ^ 16 → drops (.tlbiAsid a) (.asid (x.extractLsb' 0 16)) (fun e => e.global = false ∧ e.asid.toNat = x.toNat)) ∧
      (2 ^ 16 ≤ x.toNat → Traps (.tlbiAsid a) s 0x01 s.cp.pc
        ⟨(Instr.tlbiAsid a).word.setWidth 64, 0, (Instr.tlbiAsid a).word.setWidth 64, 0⟩) ∧
      drops (.tlbiVa a) (.va s.cp.asid x.toNat) (fun e => (e.global = true ∨ e.asid = s.cp.asid) ∧ page e) ∧
      drops (.tlbiVaall a) (.vaall x.toNat) page) ∧
    (s.cp.prv = false → ∀ i ∈ [Instr.tlbiAll, .tlbiAsid a, .tlbiVa a, .tlbiVaall a],
      Traps i s 0x02 s.cp.pc ⟨i.word.setWidth 64, 0, 0, 0⟩)

/-- SRR of a register that the mode may read writes its value: the identity, MSTAT, NBV, CURDCTL, CYCLE and RETIRED, UNITID, JOBLPB, TSLOT, PARTID and TENANT in both modes; the trap registers, ASID, PTROOT, WDOG with its remaining count, and the trace filters in the privileged mode only, where the unprivileged mode takes PRIV. Every unlisted number takes PRIV in both modes. WDOG counts from the cycle of the last write of it: the model's choice (log 26). (R133, R134, R135, R136, R139, R361) -/
def Obligations.SpecialReads : Prop :=
  ∀ (s : State) (d : Reg),
    let p := s.cp
    let g := s.eng
    let denied (n : BitVec 12) : Prop :=
      Traps (.srr d n) s 0x02 p.pc ⟨(Instr.srr d n).word.setWidth 64, 0, 0, 0⟩
    let higher (n : BitVec 12) (v : Word) : Prop :=
      (p.prv = true → Writes (.srr d n) s d v) ∧ (p.prv = false → denied n)
    (s.cur < 96 → Writes (.srr d 0x000) s d
      (BitVec.ofNat 64 (g.node.toNat * 2 ^ 50 + s.cur / 24 * 2 ^ 12 + s.cur % 24 * 2 ^ 7 + s.cur))) ∧
    Writes (.srr d 0x001) s d 0x0000000003010001 ∧ Writes (.srr d 0x002) s d p.mstat ∧
    Writes (.srr d 0x003) s d p.nbv ∧ Writes (.srr d 0x004) s d p.curdctl ∧
    Writes (.srr d 0x005) s d (BitVec.ofNat 64 s.w.cycle + p.cycleOff) ∧ Writes (.srr d 0x006) s d p.retired ∧
    Writes (.srr d 0x007) s d (BitVec.ofNat 64 p.unitid.toNat) ∧ Writes (.srr d 0x008) s d p.joblpb ∧
    Writes (.srr d 0x009) s d g.tslot ∧ Writes (.srr d 0x022) s d (BitVec.ofNat 64 g.partid.toNat) ∧
    Writes (.srr d 0x023) s d (BitVec.ofNat 64 g.tenant.toNat) ∧
    higher 0x010 p.tvb ∧ higher 0x011 p.tcause ∧ higher 0x012 p.tepc ∧ higher 0x013 p.tinfo.t0 ∧
    higher 0x014 p.tinfo.t1 ∧ higher 0x015 p.tinfo.t2 ∧ higher 0x016 p.tinfo.t3 ∧ higher 0x017 p.tscratch ∧
    higher 0x020 (BitVec.ofNat 64 p.asid.toNat) ∧ higher 0x021 p.ptroot ∧
    higher 0x024 (BitVec.ofNat 64
      ((p.wdogLimit.toNat - (s.w.cycle - p.wdogStart) / 1024) * 2 ^ 32 + p.wdogLimit.toNat)) ∧
    (∀ n : BitVec 12, 0x100 ≤ n.toNat → n.toNat ≤ 0x1FF → higher n (Tbl.get g.tfilt 0 (n.toNat - 0x100))) ∧
    (∀ n : BitVec 12, (0x00A ≤ n.toNat ∧ n.toNat ≤ 0x00F) ∨ (0x018 ≤ n.toNat ∧ n.toNat ≤ 0x01F) ∨
      (0x025 ≤ n.toNat ∧ n.toNat ≤ 0x0FF) ∨ 0x200 ≤ n.toNat → denied n)

/-- In the privileged mode SRW of a writable register with no reserved bit set completes, and the register then reads as the value written, WDOG with its count restarted and RETIRED counting the SRW itself; every other special register but RETIRED, every general register and memory keep their values. An SRW of a register that the window has written in the same cycle is judged in the mode before that write and completes before it, so that the window's value stands, in RETIRED too (log 26). That RETIRED counts its own SRW is the model's choice (log 26). A reserved bit or value takes ILLEGAL. REVID, UNITID and JOBLPB take PRIV in both modes, and CURDCTL is the only register that the unprivileged mode writes, under the same rules. (R14, R84, R103, R133, R134, R135, R137, R138, R139, R352, R361) -/
def Obligations.SpecialWrites : Prop :=
  ∀ (s : State) (a : Reg) (r : BitVec 12),
    let v := s.reg a
    let n := r.toNat
    let c := s.cur
    let i := Instr.srw a r
    let writable := n ∈ [0x000, 0x002, 0x003, 0x004, 0x005, 0x006, 0x009, 0x020, 0x021, 0x024] ∨
      (0x010 ≤ n ∧ n ≤ 0x017) ∨ (s.eng.locked = false ∧ (n = 0x022 ∨ n = 0x023 ∨ (0x100 ≤ n ∧ n ≤ 0x1FF)))
    let legal : Prop :=
      (n = 0x000 → v.extractLsb' 0 50 = (s.srRead c 0).extractLsb' 0 50) ∧ (n = 0x002 → v.toNat < 2 ^ 5) ∧
      (n = 0x003 → v = 1 ∨ v = 2 ∨ v = 3) ∧ (n = 0x004 → v.toNat < 2) ∧
      (n = 0x009 → 8 ≤ v.toNat ∧ v.toNat ≤ 4096 ∧ v.toNat % 8 = 0) ∧
      (n = 0x010 → v.toNat % 4096 = 0) ∧ (n = 0x011 → v.extractLsb' 8 55 = 0) ∧ (n = 0x012 → v.toNat % 4 = 0) ∧
      (n = 0x020 ∨ n = 0x022 → v.toNat < 2 ^ 16) ∧ (n = 0x021 → v.toNat % 2 ^ 13 = 0 ∧ v.toNat < 2 ^ 50) ∧
      (n = 0x023 → v.toNat < 2 ^ 8)
    let reads : Word := if n = 0x006 then v + 1 else if n = 0x024 then v.extractLsb' 0 32 ++ v.extractLsb' 0 32 else v
    let taken : Prop := ∃ t, exec i s = .next t ∧ OthersStill s t ∧ t.w.mem = s.w.mem ∧ t.cp.pc = s.cp.pc + 4 ∧
      (∀ q, t.cp.reg q = s.cp.reg q) ∧ t.srRead c n = reads ∧
      (n ≠ 0x006 → t.cp.retired = s.cp.retired + 1) ∧ (∀ m, m ≠ n → m ≠ 0x006 → t.srRead c m = s.srRead c m)
    let denied : Prop := Traps i s 0x02 s.cp.pc ⟨i.word.setWidth 64, 0, 0, 0⟩
    let free : Prop := s.cp.winAt = s.w.cycle → n ∉ s.cp.winSrs
    let mode (b : Bool) : Prop := (free → s.cp.prv = b) ∧ (¬ free → s.cp.winPrv = b)
    let before : Prop := ∃ t, exec i s = .next t ∧ Still s t ∧
      t.cp = { s.cp with pc := s.cp.pc + 4, retired := if n = 0x006 then s.cp.retired else s.cp.retired + 1 }
    let wrong : Prop := Traps i s 0x01 s.cp.pc ⟨i.word.setWidth 64, 0, i.word.setWidth 64, 0⟩
    (mode true → writable → legal → (free → taken) ∧ (¬ free → before)) ∧
    (mode true → writable → ¬ legal → wrong) ∧
    (mode true → ¬ writable → denied) ∧
    (mode false → n = 0x004 → (legal → (free → taken) ∧ (¬ free → before)) ∧ (¬ legal → wrong)) ∧
    (mode false → n ≠ 0x004 → denied)

/-- Without privilege each PRESS takes PRIV, and a misaligned area or table takes MISALIGN. PRESS works behind its own core's stores. PRESS save begins a press of the core when none is under way, waits while it runs, and completes with its status once it has ended. PRESS part begins a press on every core of the partition whose table it names and completes with 0, or with IMAGE where the table does not lie in the partition's DRAM; it waits while one is under way. PRESS restore completes with BUSY beside a live slot or stream, with FORMAT where no image of this core stands or the area is not the partition's, with CONFIG where a configuration read again does not carry its identifier or a weight buffer not its tag, and else with DONE and the units of the image, its commands behind those that are queued. Memory is as the core saw it but for the lines that a restore writes. Where a configuration read needs a walk first, the miss is noted, so that the step waits. IMAGE for a table outside the partition, and the commands' order, are log 31; FORMAT where no image that the model wrote is found is log 13; the emptying of the whole store buffer is log 6; the walk is log 14. (R333, R362, R365, R367, R383) -/
def Obligations.PressInstructions : Prop :=
  ∀ (s : State) (d a : Reg), Memory.wf s.w.mem = true →
    let x := s.reg a
    let w := s.w.drainAll s.cur
    let s1 := s.withWorld w
    let priv (i : Instr) : Prop := Traps i s 0x02 s.cp.pc ⟨i.word.setWidth 64, 0, 0, 0⟩
    let table := w.pressTable (w.partOf s.cur) x.toNat
    let live := (∃ v, v < 8 ∧ (s.eng.vat v).state.live = true) ∨ ∃ q ∈ s.eng.streams, q.2.busy = true
    let seen (t : State) : Prop := ∀ y, memRead t.w.mem y = s.sees y
    (s.cp.prv = false → priv (.pressSave d a) ∧ priv (.pressPart d a) ∧ priv (.pressRestore d a)) ∧
    (s.cp.prv = true →
      (x.toNat % 64 ≠ 0 → Traps (.pressSave d a) s 0x03 s.cp.pc ⟨x, 0, 0, 0⟩ ∧
        Traps (.pressRestore d a) s 0x03 s.cp.pc ⟨x, 0, 0, 0⟩) ∧
      (x.toNat % 8 ≠ 0 → Traps (.pressPart d a) s 0x03 s.cp.pc ⟨x, 0, 0, 0⟩) ∧
      (x.toNat % 64 = 0 →
        (s.eng.press = none → ∃ t, ∃ p, exec (.pressSave d a) s = .next t ∧ t.cps = s.cps ∧ seen t ∧
          t.eng.press = some p ∧ p.area = x ∧ p.part = false ∧
          (∀ v, v ∈ p.covered ↔ v < 8 ∧ (s.eng.vat v).state.live = true)) ∧
        (∀ p, s.eng.press = some p → p.status = none → exec (.pressSave d a) s = .next s) ∧
        (∀ p st, s.eng.press = some p → p.status = some st →
          Completes (.pressSave d a) s d (st.setWidth 64) (fun t => t.eng.press = none ∧ t.w.mem = s.w.mem))) ∧
      (x.toNat % 8 = 0 →
        ((∃ q ∈ table, (w.eng q.1).press ≠ none) → exec (.pressPart d a) s = .next s) ∧
        ((∀ q ∈ table, (w.eng q.1).press = none) →
          (w.areaOk s.cur x.toNat (8 * table.length) = true → Completes (.pressPart d a) s d 0 seen) ∧
          (w.areaOk s.cur x.toNat (8 * table.length) = false →
            Completes (.pressPart d a) s d 2 (fun t => t.w = s.w)))) ∧
      (x.toNat % 64 = 0 →
        (live → Completes (.pressRestore d a) s d 3 (fun t => t.w = w)) ∧
        (¬ live → w.areaOk s.cur x.toNat 576 = false → Completes (.pressRestore d a) s d 4 (fun t => t.w = w)) ∧
        (¬ live → w.areaOk s.cur x.toNat 576 = true →
          (∀ im, w.findImage x.toNat = some im → im.core ≠ s.cur → Completes (.pressRestore d a) s d 4 (fun t => t.w = w)) ∧
          (w.findImage x.toNat = none → Completes (.pressRestore d a) s d 4 (fun t => t.w = w)) ∧
          (∀ im, w.findImage x.toNat = some im → im.core = s.cur →
            let q := s1.rereadAll im
            (q.1 = none → Completes (.pressRestore d a) s d 5 (fun t => t.w = { w with miss := q.2.miss })) ∧
            (∀ ls, q.1 = some ls → s.eng.tagsMatch im = false → Completes (.pressRestore d a) s d 5 (fun t => t.w = w)) ∧
            (∀ ls, q.1 = some ls → s.eng.tagsMatch im = true →
              Completes (.pressRestore d a) s d 0 (fun t =>
                t.eng.curds = im.eng.curds ∧ t.eng.hash = im.eng.hash ∧ t.eng.commands = s.eng.commands ++ im.eng.commands ∧ t.eng.jmask = im.eng.jmask ∧
                t.eng.partid = s.eng.partid ∧ (∀ v, v < 8 → (t.eng.vat v).state = (im.eng.vat v).state) ∧
                (∀ k, im.eng.coversStream im.covered k = true → t.eng.stream k = im.eng.stream k) ∧
                (∀ y, (∀ l ∈ im.lines, ¬ within l.1 l.2.length y) → memRead t.w.mem y = s.sees y)))))))

/-- Under a press a covered element saves once it is stopped, the marker of every enabled tag is there and no copy writes it; a declared curd register saves once its contributors have; a stream that has nothing owed or can send nothing, behind its markers unless it is a source; a matrix node behind its markers, drained; an edge port that has stopped, or an egress port that no link feeds. A stream and a node put a marker on their link. A press that finds a covered unit BLOCKED ends with VATBLK. A press of the core whose units have all saved completes: where the image fits the size in its first doubleword, its length, the identity of the core and the status DONE stand behind that doubleword, the records stand at offset 576, the section of the processor and all memory outside are as before, covered slots that live read FREE, the others stand, and the streams are idle (log 31); where it does not, the status is IMAGE and memory is as before. (R363, R364, R365, R366) -/
def Obligations.PressEnds : Prop :=
  ∀ (s : State) (p : Press), s.cur < 96 → s.eng.press = some p → p.active = true → Memory.wf s.w.mem = true →
    let ended (t : State) (st : BitVec 8) : Prop := t.eng.press = some { p with active := false, status := some st }
    (∀ e : BitVec 7, s.eng.covers p.covered e.toNat = true → (s.eng.elem e.toNat).pressed = true →
      s.eng.allMarked (s.eng.elemTags e.toNat) = true → s.w.inbound s.cur (· == e.toNat) = false →
      ∃ t, exec (.pressUnitSave (.element e)) s = .next t ∧ t.cps = s.cps ∧ t.w.mem = s.w.mem ∧
        (t.eng.elem e.toNat).saved = true ∧ (∀ k, k ≠ e.toNat → t.eng.elem k = s.eng.elem k) ∧
        (∀ c, c ≠ s.cur → t.w.eng c = s.w.eng c)) ∧
    (∀ n : BitVec 6, (s.eng.curd n.toNat).declared = true →
      (∀ b ∈ (s.eng.curd n.toNat).binds.toList, s.eng.contributorSaved p.covered b = true) →
      ∃ t, ∃ p', exec (.pressUnitSave (.curd n)) s = .next t ∧ t.cps = s.cps ∧ t.w.mem = s.w.mem ∧
        t.eng.press = some p' ∧ n.toNat ∈ p'.curds ∧ (∀ k ∈ p.curds, k ∈ p'.curds)) ∧
    (-- a marker on the link of a unit
      let marked (t : State) (l : Option (Endpoint × Nat)) : Prop :=
        ∀ d h, l = some (d, h) → ∃ f, t.eng.flights = s.eng.flights ++ [f] ∧ f.dest = d ∧ f.tok.kind = kPRESS
      (∀ k : BitVec 5, s.eng.coversStream p.covered k.toNat = true →
        let x := s.eng.stream k.toNat
        let l := streamLink s.eng.cfg k.toNat
        let source := pressSource (s.eng.streamCfg k.toNat).modeOf = true
        x.saved = false → (x.out = [] ∧ x.buf = [] ∧ x.orders = [] ∨ s.eng.outHeld l = true) →
        (source ∨ s.eng.allMarked (s.eng.streamTags k.toNat) = true ∧ x.lane = 0) →
        ∃ t, exec (.pressUnitSave (.stream k)) s = .next t ∧ UnitsOnly s t ∧ marked t l ∧
          t.eng.stream k.toNat = { x with pressed := true, saved := true } ∧
          ∀ j, j ≠ k.toNat → t.eng.stream j = s.eng.stream j) ∧
      (∀ n : BitVec 2, s.eng.covers p.covered (addrMatrix n.toNat) = true →
        let x := s.eng.mxn n.toNat
        x.saved = false → s.eng.allMarked (nodeTags n.toNat) = true → x.outs = [] → x.out = [] →
        ∃ t, exec (.pressUnitSave (.matrix n)) s = .next t ∧ UnitsOnly s t ∧ marked t (matrixLink s.eng.cfg n.toNat) ∧
          t.eng.mxn n.toNat = { x with pressed := true, saved := true } ∧
          ∀ j, j ≠ n.toNat → t.eng.mxn j = s.eng.mxn j) ∧
      ∀ q : BitVec 3, s.eng.covers p.covered (addrEdge q.toNat) = true →
        let x := s.eng.port q.toNat
        x.saved = false → (x.pressed = true ∨
          (s.eng.epCfg q.toNat).isIngress = false ∧ s.eng.linked (.edge q.toNat) = false) →
        ∃ t, exec (.pressUnitSave (.edge q)) s = .next t ∧ UnitsOnly s t ∧
          t.eng.port q.toNat = { x with pressed := true, saved := true } ∧
          ∀ j, j ≠ q.toNat → t.eng.port j = s.eng.port j) ∧
    (p.part = false → p.host = false →
      (s.eng.pressBlocked p.covered = true →
        ∃ t, exec .pressComplete s = .next t ∧ t.cps = s.cps ∧ t.w.mem = s.w.mem ∧ ended t 1) ∧
      (s.eng.pressBlocked p.covered = false → s.eng.allSaved p = true →
        let body := s.w.imageBody s.cur s.w.images.length p.covered
        let len := 576 + body.length
        let a := p.area.toNat
        let fits := s.w.areaOk s.cur a len = true ∧ len ≤ memNat s.w.mem a 8
        ∃ t, exec .pressComplete s = .next t ∧ t.cps = s.cps ∧
          (fits → memNat t.w.mem (a + 8) 8 = len ∧ memNat t.w.mem (a + 16) 8 = 3 * 2 ^ 24 + 2 ^ 16 + s.cur ∧
            memNat t.w.mem (a + 24) 8 = 0 ∧ memBytes t.w.mem (a + 576) body.length = body ∧
            (∀ x, x < a + 8 ∨ (a + 64 ≤ x ∧ x < a + 576) ∨ a + len ≤ x → memRead t.w.mem x = memRead s.w.mem x) ∧
            (∀ v ∈ p.covered, ((s.eng.vat v).state.live = true → (t.eng.vat v).state = .free) ∧
              ((s.eng.vat v).state.live = false → (t.eng.vat v).state = (s.eng.vat v).state)) ∧
            (∀ k, s.eng.coversStream p.covered k = true → (t.eng.stream k).state = .idle) ∧ ended t 0) ∧
          (¬ fits → t.w.mem = s.w.mem ∧ ended t 2)))

/-- A CRD or CRDP of a declared register completes with the fold of its element over its positions, once every position of the mask up to the last is closed or at once under now, unless PTRAP is set and a partial is poisoned, which takes CURD_POISON with the register and the first position of POISON of the generation; while it must wait it does not move. CRDM to plain memory stores the image of all elements, or takes that trap. A read changes no partial. A read of an undeclared register takes CURD_UNBOUND with reason 0. (R98, R101, R104, R110, R113, R114) -/
def Obligations.CurdReads : Prop :=
  ∀ (s : State) (c : CurdReg) (d a b : Reg) (e : BitVec 4) (w : BitVec 1) (o p : BitVec 2),
    let r := s.eng.curd c.toNat
    let y := s.reg b
    let k := y.toNat / 16 % 8
    let f := if r.isAff then y.toNat % 8 else y.toNat % 16
    let closed (k : Nat) : Prop := ∀ j : Fin 8, j.val ≤ k → r.mask.getLsbD j.val = true → (r.part j).closed = true
    let poisoned (k : Nat) : Prop :=
      s.cp.curdctl.getLsbD 0 = true ∧ ∃ j : Fin 8, j.val ≤ k ∧ (r.part j).flags &&& flagPoison ≠ 0
    let trapped (i : Instr) (k : Nat) : Prop := s.cp.curdctl.getLsbD 0 = true → ∀ j : Fin 8, j.val ≤ k →
      (r.part j).flags &&& flagPoison ≠ 0 → (∀ l : Fin 8, l < j → (r.part l).flags &&& flagPoison = 0) →
      let m := if r.arose.getLsbD 5 = true then min (r.first.get 5).toNat j.val else j.val
      Traps i s 0x06 s.cp.pc ⟨c.setWidth 64, BitVec.ofNat 64 m, 0, 0⟩
    let kept (t : State) : Prop := t.w.mem = s.w.mem ∧ (t.eng.curd c.toNat).parts = r.parts ∧
      (t.eng.curd c.toNat).decl = r.decl ∧ (t.eng.curd c.toNat).gen = r.gen ∧
      ∀ n, n ≠ c.toNat → t.eng.curd n = s.eng.curd n
    (r.gen = 0 → (r.isAff = true → e.toNat ≤ 7) →
      ∀ i ∈ [Instr.crd c d e w, .crdp c d b w, .crdm c a w o p], Traps i s 0x05 s.cp.pc ⟨0, 0, 0, 0⟩) ∧
    (r.gen ≠ 0 →
      (r.isAff = true → 7 < e.toNat →
        Traps (.crd c d e w) s 0x01 s.cp.pc
          ⟨(Instr.crd c d e w).word.setWidth 64, 0, (Instr.crd c d e w).word.setWidth 64, 0⟩) ∧
      ((r.isAff = true → e.toNat ≤ 7) →
        (w = 0 → ¬ closed 7 → exec (.crd c d e w) s = .next s) ∧
        ((w = 0 → closed 7) → ¬ poisoned 7 →
          Completes (.crd c d e w) s d (BitVec.ofNat 64 (r.foldRead 7 e.toNat).1) kept) ∧
        ((w = 0 → closed 7) → trapped (.crd c d e w) 7)) ∧
      (w = 0 → ¬ closed k → exec (.crdp c d b w) s = .next s) ∧
      ((w = 0 → closed k) → ¬ poisoned k →
        Completes (.crdp c d b w) s d (BitVec.ofNat 64 (r.foldRead k f).1) kept) ∧
      ((w = 0 → closed k) → trapped (.crdp c d b w) k) ∧
      (∀ pa w1, Memory.wf s.w.mem = true → (s.reg a).toNat % r.imageLen = 0 →
        s.translate .write (s.reg a) = (.ok pa, w1) → PlainAt s pa →
        (w = 0 → ¬ closed 7 → exec (.crdm c a w o p) s = .next s) ∧
        ((w = 0 → closed 7) → trapped (.crdm c a w o p) 7) ∧
        ((w = 0 → closed 7) → ¬ poisoned 7 → Completes (.crdm c a w o p) s 0 0 (fun t =>
          (t.eng.curd c.toNat).parts = r.parts ∧
          (∀ x, ¬ within pa.addr r.imageLen x → t.sees x = s.sees x) ∧
          (r.isAff = false → ∀ i j, i < 16 → j < r.elemSize →
            t.sees (pa.addr + i * r.elemSize + j) = byteOf (r.foldRead 7 i).1 j)))))

/-- With every position of the mask closed, CRD completes with the fold of its element over the positions that hold it, in ascending position, whatever the order or the time of the contributions. With none it is the empty fold. IADD gives the sum modulo the width, MAX and MIN of integers the largest and the smallest value, AND, OR and XOR work on every bit, FIRST gives the lowest position's value. ADDO rounds each sum to the accumulator and the result to the format; ADDX and SADD add exactly and round, or saturate, at the read; MAX and MIN of floats propagate NaN; AFF composes the pairs. (R71, R73, R90, R96, R98, R99, R113) -/
def Obligations.CurdFolds : Prop :=
  ∀ (s : State) (c : CurdReg) (d : Reg) (e : BitVec 4),
    let r := s.eng.curd c.toNat
    let op := (r.decl.extractLsb' 0 8).toNat
    let fmt := fmtOfCode (r.decl.extractLsb' 8 4)
    let held := (List.finRange 8).filter (fun j => (r.part j).present.getLsbD e.toNat)
    let vals := held.map (fun j => (r.part j).vals[e.toNat])
    let draw (j : Nat) : Nat := (cdraw r.gen.toNat e.toNat j).toNat
    let draw2 (j : Nat) : Nat := (xorshift (cdraw r.gen.toNat e.toNat j)).toNat
    let reads (v : Word) : Prop := Completes (.crd c d e 0) s d v (fun t => t.w.mem = s.w.mem)
    let folds (f : Nat → PVal → PVal → PVal) (fin : PVal → Nat) : Prop := ∀ j rest, held = j :: rest →
      reads (BitVec.ofNat 64 (fin (rest.foldl (fun a k => f k.val a (r.part k).vals[e.toNat]) (r.part j).vals[e.toNat])))
    let f32 (v : Nat) : Val := decodeFloat f32Fmt v
    r.gen ≠ 0 → s.cp.curdctl.getLsbD 0 = false → op ≤ 10 → (op = 10 → e.toNat < 8) →
    (∀ j : Fin 8, r.mask.getLsbD j.val = true → (r.part j).closed = true) →
      (held = [] →
        (op = 0 ∨ op = 1 ∨ op = 2 ∨ op = 3 ∨ op = 7 ∨ op = 8 ∨ op = 9 → reads 0) ∧
        (op = 6 → reads (BitVec.ofNat 64 (2 ^ fmt.width - 1))) ∧ (op = 10 → reads 0x3F800000) ∧
        (op = 4 → (∀ n, fmt = .int n → reads (BitVec.ofNat 64 (2 ^ (n - 1)))) ∧ (fmt = .float f32Fmt → reads 0xFF800000) ∧
          (fmt = .float f16Fmt → reads 0xFC00) ∧ (fmt = .float bf16Fmt → reads 0xFF80)) ∧
        (op = 5 → (∀ n, fmt = .int n → reads (BitVec.ofNat 64 (2 ^ (n - 1) - 1))) ∧ (fmt = .float f32Fmt → reads 0x7F800000) ∧
          (fmt = .float f16Fmt → reads 0x7C00) ∧ (fmt = .float bf16Fmt → reads 0x7F80))) ∧
      (held ≠ [] →
        (op = 2 → ∃ v : Word, reads v ∧ v.toNat % 2 ^ fmt.width = (vals.map (·.pat)).sum % 2 ^ fmt.width) ∧
        (∀ n, fmt = .int n →
          (op = 4 → ∃ v ∈ vals, reads (BitVec.ofNat 64 v.pat) ∧ ∀ y ∈ vals, patInt n y.pat ≤ patInt n v.pat) ∧
          (op = 5 → ∃ v ∈ vals, reads (BitVec.ofNat 64 v.pat) ∧ ∀ y ∈ vals, patInt n v.pat ≤ patInt n y.pat)) ∧
        (op = 6 → ∃ v : Word, reads v ∧ ∀ i, i < 64 → (v.getLsbD i = true ↔ ∀ y ∈ vals, y.bits.getLsbD i = true)) ∧
        (op = 7 → ∃ v : Word, reads v ∧ ∀ i, i < 64 → (v.getLsbD i = true ↔ ∃ y ∈ vals, y.bits.getLsbD i = true)) ∧
        (op = 8 → ∃ v : Word, reads v ∧
          ∀ i, i < 64 → (v.getLsbD i = true ↔ (vals.filter (fun y => y.bits.getLsbD i)).length % 2 = 1)) ∧
        (op = 9 → folds (fun _ a _ => a) (·.pat))) ∧
      (op = 0 → folds (fun k a y => .ofPat (round (.float r.accFmt) r.rnd (draw k)
          (exactSum [decodeFloat r.accFmt a.pat, decodeFloat r.accFmt y.pat] r.rnd).1).1)
        (fun a => (round fmt r.rnd (draw 8) (decodeFloat r.accFmt a.pat)).1)) ∧
      (op = 1 ∨ op = 3 → folds (fun _ a y => .ofXP (xpAdd a.xp y.xp).1) (fun a => (round fmt r.rnd (draw 8) (xpVal a.xp)).1)) ∧
      (∀ n, fmt = .float n → (op = 4 → folds (fun _ a y => .ofPat (maxPatF n a.pat y.pat)) (·.pat)) ∧
        (op = 5 → folds (fun _ a y => .ofPat (minPatF n a.pat y.pat)) (·.pat))) ∧
      (op = 10 → folds (fun k a y =>
          .ofPair (round (.float f32Fmt) r.rnd (draw k) ((f32 y.fst).mul (f32 a.fst)).1).1
            (round (.float f32Fmt) r.rnd (draw2 k) (exactSum [((f32 y.fst).mul (f32 a.snd)).1, f32 y.snd] r.rnd).1).1)
        (fun a => a.fst + a.snd * 2 ^ 32))

/-- CDECL of a legal record declares the register anew, at generation 1 with nothing present; a record found wrong takes ILLEGAL with its address and the offset of the field. CPUT enters one element at the position bound to the control processor, closes it if told to, and takes CURD_UNBOUND with its reason where the register is undeclared, no position is bound to it or the partial is closed. SETTLE, when all positions of the mask are closed, leaves elements at position 0 only, present where some position held them. CCLR starts the next generation, each position holding at most what was pending there. CSTAT reads the three words. None touches another register or memory. (R90, R93, R97, R110, R112, R115, R116, R117, R118) -/
def Obligations.CurdUpdates : Prop :=
  ∀ (s : State) (c : CurdReg) (d a : Reg) (e : BitVec 4) (x : BitVec 1),
    let r := s.eng.curd c.toNat
    let v := s.reg a
    let only (t : State) : Prop := ∀ n, n ≠ c.toNat → t.eng.curd n = s.eng.curd n
    let sees (t : State) : Prop := ∀ y, t.sees y = s.sees y
    (v.toNat % 8 ≠ 0 → Traps (.cdecl c a) s 0x03 s.cp.pc ⟨v, 0, 0, 0⟩) ∧
    (∀ w0 w1 w2 w3 s1, v.toNat % 8 = 0 → s.loadWords [v, v + 8, v + 16, v + 24] = .ok ([w0, w1, w2, w3], s1) →
      (recordError w0 (bindsOf w1 w2).toList w3 = none →
        Completes (.cdecl c a) s 0 0 (fun t => t.w.mem = s1.w.mem ∧
          (t.eng.curd c.toNat).decl = w0.extractLsb' 0 24 ∧ (t.eng.curd c.toNat).gen = 1 ∧
          (∀ j : Fin 8, ((t.eng.curd c.toNat).part j).present = 0 ∧ ((t.eng.curd c.toNat).part j).closed = false ∧
            (t.eng.curd c.toNat).binds.get j = (w2 ++ w1).extractLsb' (16 * j.val) 16))) ∧
      (∀ f, recordError w0 (bindsOf w1 w2).toList w3 = some f →
        ∃ t, exec (.cdecl c a) s = .next t ∧ t.eng.curds = s1.eng.curds ∧
          s.cp.Trapped t.cp 0x01 false s.cp.pc ⟨v, BitVec.ofNat 64 f, (Instr.cdecl c a).word.setWidth 64, 0⟩)) ∧
    ((r.isAff = true → e.toNat ≤ 7) →
      (r.gen = 0 → Traps (.cput c a x e) s 0x05 s.cp.pc ⟨0, 0, 0, 0⟩) ∧
      (r.gen ≠ 0 → (∀ j : Fin 8, r.binds.get j ≠ 0x5000) → Traps (.cput c a x e) s 0x05 s.cp.pc ⟨1, 0, 0, 0⟩) ∧
      (∀ j : Fin 8, r.gen ≠ 0 → r.binds.get j = 0x5000 → (∀ i : Fin 8, r.binds.get i = 0x5000 → i = j) →
        ((r.part j).closed = true → Traps (.cput c a x e) s 0x05 s.cp.pc ⟨2, 0, 0, 0⟩) ∧
        (Memory.wf s.w.mem = true → (r.part j).closed = false → Completes (.cput c a x e) s 0 0 (fun t =>
          let q := (t.eng.curd c.toNat).part j
          only t ∧ sees t ∧ (∀ i : Fin 8, i ≠ j → (t.eng.curd c.toNat).part i = r.part i) ∧
          (∀ i, i < 16 → (q.present.getLsbD i = true ↔ (r.part j).present.getLsbD i = true ∨ i = e.toNat)) ∧
          (∀ i (h : i < 16), i ≠ e.toNat → q.vals[i] = (r.part j).vals[i]) ∧
          q.entries = (r.part j).entries + 1 ∧ q.closed = (x == 1) ∧
          (r.decl.extractLsb' 0 8 = 2 → r.decl.extractLsb' 8 4 = 0 → (r.part j).present.getLsbD e.toNat = true →
            (q.vals[e.toNat]).pat = ((r.part j).vals[e.toNat].pat + v.toNat) % 2 ^ 32))))) ∧
    (r.gen = 0 → Traps (.settle c) s 0x05 s.cp.pc ⟨0, 0, 0, 0⟩ ∧ Traps (.cclr c) s 0x05 s.cp.pc ⟨0, 0, 0, 0⟩) ∧
    (r.gen ≠ 0 →
      Completes (.cclr c) s 0 0 (fun t => only t ∧ t.w.mem = s.w.mem ∧
        (t.eng.curd c.toNat).gen = (if r.gen = BitVec.allOnes 32 then 1 else r.gen + 1) ∧
        (∀ j : Fin 8, (r.part j).pending = none →
          ((t.eng.curd c.toNat).part j).present = 0 ∧ ((t.eng.curd c.toNat).part j).closed = false ∧
          ((t.eng.curd c.toNat).part j).entries = 0)) ∧
      (s.cp.curdctl.getLsbD 0 = false →
        (∀ j : Fin 8, r.mask.getLsbD j.val = true → (r.part j).closed = true) →
        Completes (.settle c) s 0 0 (fun t => only t ∧ t.w.mem = s.w.mem ∧
          (∀ j : Fin 8, j ≠ 0 → ((t.eng.curd c.toNat).part j).present = 0) ∧
          (∀ i, i < 16 → (((t.eng.curd c.toNat).part 0).present.getLsbD i = true ↔
            ∃ j : Fin 8, (r.part j).present.getLsbD i = true)) ∧
          (∀ j : Fin 8, ((t.eng.curd c.toNat).part j).closed = (r.part j).closed)))) ∧
    (∃ z : Word, Writes (.cstat c d 0) s d z ∧ ∀ j : Fin 8,
      z.getLsbD j.val = (r.part j).closed ∧ (z.getLsbD (8 + j.val) = true ↔ (r.part j).present ≠ 0) ∧
      z.getLsbD (56 + j.val) = r.src.getLsbD j.val) ∧
    (∃ z : Word, Writes (.cstat c d 1) s d z ∧ ∀ j : Fin 8, z.extractLsb' (8 * j.val) 6 = (r.part j).flags) ∧
    (∃ z : Word, Writes (.cstat c d 2) s d z ∧ z.extractLsb' 0 24 = r.decl ∧ z.extractLsb' 32 32 = r.gen ∧
      ∀ j : Fin 8, z.getLsbD (24 + j.val) = (r.part j).pending.isSome)

/-- CFG, SWAP, ARM, DRAIN, VKILL, SDEF, SGO, TOK, CPY, HSEED, HTAB, HPOOL, TEV, TCTL and TAT with operands that pass their checks complete when the command queue has room: the command stands last in the queue with its operand values and the address space in force, the earlier stores to the core's own memory have been performed, every byte is as the core saw it, and no register changes. With sixteen commands queued the processor stalls and nothing changes. A misaligned record address takes MISALIGN, and a bad operand of TEV or of a HASH command takes ILLEGAL with the value at fault. That HTAB is checked against the tables as the queued HTAB commands will leave them is the model's reading (log 27). (R145, R254, R291, R321, R430, R432, R435) -/
def Obligations.QueuedCommands : Prop :=
  ∀ (s : State) (a b : Reg) (v : BitVec 3) (n : BitVec 5), Memory.wf s.w.mem = true →
    let x := s.reg a
    let y := s.reg b
    let queued (i : Instr) (x y : Word) : Prop :=
      (s.eng.commands.length < 16 → Completes i s 0 0 (fun t =>
        t.eng.commands = s.eng.commands ++ [⟨i, x, y, s.cp.asid, s.cp.ptroot, s.cp.prv, s.cp.xoff⟩] ∧
        (∀ q ∈ t.eng.storeBuf, q ∈ s.eng.storeBuf ∧ (regionOf q.addr).core ≠ some s.cur) ∧ ∀ z, t.sees z = s.sees z)) ∧
      (16 ≤ s.eng.commands.length → exec i s = .next s)
    let aligned (m : Nat) (i : Instr) : Prop :=
      (x.toNat % m = 0 → queued i x 0) ∧ (x.toNat % m ≠ 0 → Traps i s 0x03 s.cp.pc ⟨x, 0, 0, 0⟩)
    let illegal (i : Instr) (z : Word) : Prop := Traps i s 0x01 s.cp.pc ⟨z, 0, i.word.setWidth 64, 0⟩
    aligned 64 (.cfg a v) ∧ aligned 8 (.arm a v) ∧ aligned 64 (.sdef a n) ∧ aligned 64 (.tok a n) ∧
    aligned 64 (.cpy a) ∧ aligned 32 (.tat a) ∧
    queued (.swap v) 0 0 ∧ queued (.drain v) 0 0 ∧ queued (.vkill v) 0 0 ∧ queued (.sgo a b n) x y ∧
    queued (.tctl a) x 0 ∧
    (x.toNat ≤ 0x1F → y.toNat < 2 ^ 32 → queued (.tev a b) x y) ∧
    (0x1F < x.toNat → illegal (.tev a b) x) ∧ (x.toNat ≤ 0x1F → 2 ^ 32 ≤ y.toNat → illegal (.tev a b) y) ∧
    (x.toNat ≤ 255 → y.toNat < 2 ^ 32 → queued (.hseed a b) x y) ∧
    (255 < x.toNat → illegal (.hseed a b) x) ∧ (x.toNat ≤ 255 → 2 ^ 32 ≤ y.toNat → illegal (.hseed a b) y) ∧
    (htabBad s.eng.hashAhead x y = none → queued (.htab a b) x y) ∧
    (∀ z, htabBad s.eng.hashAhead x y = some z → illegal (.htab a b) z) ∧
    (x.toNat % 64 = 0 → x.toNat < 2 ^ 56 → y ≠ 1 → y.toNat ≤ 2 ^ 27 → queued (.hpool a b) x y) ∧
    (¬ (x.toNat % 64 = 0 ∧ x.toNat < 2 ^ 56) → illegal (.hpool a b) x) ∧
    (x.toNat % 64 = 0 → x.toNat < 2 ^ 56 → y = 1 ∨ 2 ^ 27 < y.toNat → illegal (.hpool a b) y)

/-- While no press is under way and the trace fabric does not hold its unit up, the command at the head of the queue is performed, leaves the queue, and the others stay in order. CFG starts a load. ARM waits for a live vat, takes NOPLANE or the fault of its checks, or arms the vat under what was in force. DRAIN makes an armed or running vat DRAINING. SDEF, SGO and TOK wait for their stream; each changes, starts or sends on it, or ends with reason COMMAND. CPY puts a copy into the lowest free place. HASH commands wait for their streams and change the seed, the table or the pool; base 0 undefines a table and keeps its counts. TEV raises its event once the processor has raised no other in the cycle, TCTL sets JMASK from the next cycle on (R424), TAT takes a trigger up, cancels one or answers ERROR. SWAP and VKILL are in PlaneExchange and VatEnds. (R145, R256, R257, R292, R293, R294, R297, R322, R424, R433, R435, R437) -/
def Obligations.CommandEffects : Prop :=
  ∀ (s : State) (k : Command) (rest : List Command), s.eng.commands = k :: rest → s.eng.pressing = false →
    s.w.heldUnit s.cur (commandSource k.instr) = false → s.w.miss = none →
    let done (p : State → Prop) : Prop := ∃ t, s.perform 0 = some t ∧ t.cps = s.cps ∧ t.eng.commands = rest ∧ p t
    let waits : Prop := s.perform 0 = none
    let still (t : State) : Prop := t.w.mem = s.w.mem
    let pends (t : State) (code : BitVec 8) (n : Nat) : Prop := ∃ q ∈ t.eng.pend, q.code = code ∧ q.source = n
    let read (priv xoff : Bool) (u n : Nat) (va : Word) (a : Nat) : Prop :=
      s.w.commandXlat s.cur u k.asid k.ptroot priv xoff .read va = (.ok ⟨false, 0, a⟩, s.w) ∧
        PlainAt s ⟨false, 0, a⟩ ∧ SoundAt s a n
    let stream (t : State) (n : Nat) := t.eng.stream n
    let refused (n : Nat) : Prop := done (fun t => still t ∧ stream t n = { stream s n with reason := 6 } ∧ pends t 0x11 n)
    (∀ a v, k.instr = .cfg a v → (s.eng.vat v.toNat).cst ≠ .loading →
      done (fun t => still t ∧ (t.eng.vat v.toNat).cst = .loading ∧ (t.eng.vat v.toNat).loadAt = some k)) ∧
    (∀ a v, k.instr = .arm a v →
      let x := s.eng.vat v.toNat
      let y (t : State) := t.eng.vat v.toNat
      (x.state.live = true → waits) ∧
      (x.state.live = false → x.state ≠ .residue →
        (x.state = .free ∨ x.active = none → done (fun t => (y t).state = x.state ∧ (y t).code = 11 ∧ pends t 0x10 v.toNat)) ∧
        ∀ p, x.state ≠ .free → x.active = some p →
          (∀ c e, s.eng.armFault v.toNat p = some (c, e) →
            done (fun t => (y t).state = .blocked ∧ (y t).code = c ∧ (y t).faddr = e ∧ pends t 0x10 v.toNat)) ∧
          (s.eng.armFault v.toNat p = none → done (fun t => (y t).state = .armed ∧ (y t).cw = k.x ∧
            (y t).nbv = s.cp.nbv.toNat ∧ (y t).reported = [] ∧ (y t).asid = k.asid ∧ (y t).ptroot = k.ptroot ∧
            (y t).priv = k.priv ∧ (y t).xoff = k.xoff)))) ∧
    (∀ v, k.instr = .drain v → done (fun t => still t ∧ (t.eng.vat v.toNat).state =
      if (s.eng.vat v.toNat).state = .armed ∨ (s.eng.vat v.toNat).state = .running then .draining
      else (s.eng.vat v.toNat).state)) ∧
    (∀ a n, k.instr = .sdef a n →
      let x := stream s n.toNat
      let old := s.eng.streamCfg n.toNat
      (x.busy = true → waits) ∧
      (x.busy = false → ∀ r w1, s.w.sdefWords s.cur n.toNat k 65 0 { old with blocked := none } = (r, w1) → w1.miss = none →
        (∀ cfg, r = .ok cfg → done (fun t => t.eng.streamCfg n.toNat = { cfg with blocked := old.blocked } ∧
          (stream t n.toNat).state = .idle ∧ (stream t n.toNat).defined = true ∧ (stream t n.toNat).asid = k.asid ∧
          (stream t n.toNat).ptroot = k.ptroot)) ∧
        (r = .bad → done (fun t => (stream t n.toNat).state = x.state ∧ (stream t n.toNat).reason = 6 ∧
          t.eng.streamCfg n.toNat = old ∧ pends t 0x11 n.toNat)))) ∧
    (∀ a b n, k.instr = .sgo a b n →
      let x := stream s n.toNat
      (x.busy = true → waits) ∧ (x.busy = false → s.eng.sgoBad n.toNat k = true → refused n.toNat) ∧
      (x.busy = false → s.eng.sgoBad n.toNat k = false → done (fun t => still t ∧ (stream t n.toNat).state = .running ∧
        (stream t n.toNat).base = k.x ∧ (stream t n.toNat).count = (k.y.extractLsb' 0 32).toNat ∧
        (stream t n.toNat).pos = 0 ∧ (stream t n.toNat).posted = 0 ∧ (stream t n.toNat).asid = x.asid ∧
        ∀ m, m ≠ n.toNat → stream t m = stream s m))) ∧
    (∀ a n, k.instr = .tok a n →
      ((stream s n.toNat).busy = true → waits) ∧
      ∀ pa pb, (stream s n.toNat).busy = false → read false false (addrStream n.toNat) 64 k.x pa →
        read false false (addrStream n.toNat) 8 (k.x + 64) pb →
        let side := memWord s.w.mem pb
        let tok := Token.ofSideband (side.extractLsb' 0 24) (BitVec.ofNat 512 (memNat s.w.mem pa 64))
        (2 ^ 24 ≤ side.toNat ∨ streamLink s.eng.cfg n.toNat = none → refused n.toNat) ∧
        ∀ d h, side.toNat < 2 ^ 24 → streamLink s.eng.cfg n.toNat = some (d, h) → s.eng.reserveFree d = true →
          s.w.gridBegun s.cur = false → Memory.wf s.w.mem = true →
          done (fun t => (∀ z, t.sees z = s.sees z) ∧ (tok.r = false → still t) ∧
            (tok.r = true → 2 ≤ ((s.eng.streamCfg n.toNat).oport.extractLsb' 14 2).toNat → t.eng.storeBuf = []) ∧
            ∃ f, t.eng.flights = s.eng.flights ++ [f] ∧ f.dest = d ∧ f.tok.data = tok.data ∧ f.tok.kind = tok.kind ∧
              f.tok.valid = tok.valid)) ∧
    (∀ a, k.instr = .cpy a → (s.eng.freePlace = none → waits) ∧
      ∀ p pa, s.eng.freePlace = some p → read false false uCOPY 64 k.x pa →
        done (fun t => still t ∧ ∃ y, t.eng.copy p = some y ∧ y.state = .running ∧ y.written = 0 ∧ y.from' = none ∧
          ∀ i, i < 8 → y.crec.word i = memWord s.w.mem (pa + 8 * i))) ∧
    (∀ a b, k.instr = .hseed a b →
      (s.eng.headBusy k.x.toNat = true → waits) ∧ (s.eng.headBusy k.x.toNat = false →
        done (fun t => still t ∧
          ∀ h, t.eng.hash.seed h = if h = k.x.toNat then k.y.extractLsb' 0 32 else s.eng.hash.seed h))) ∧
    (∀ a b, k.instr = .hpool a b → (s.eng.keystBusy = true → waits) ∧ (s.eng.keystBusy = false →
      done (fun t => still t ∧ t.eng.hash = { s.eng.hash with pool := k.x, slots := k.y.toNat, next := 1, exh := false }))) ∧
    (∀ a b, k.instr = .htab a b →
      let h := htabHead k.x
      let n := htabTable k.x
      (s.eng.headBusy h = true → waits) ∧
      (s.eng.headBusy h = false → k.y ≠ 0 → done (fun t => still t ∧ t.eng.hash.table h n =
        some { desc := k.x.extractLsb' 0 28, base := k.y, inserted := 0, lost := 0 })) ∧
      (s.eng.headBusy h = false → k.y = 0 → done (fun t => still t ∧ t.eng.hash.table h n = none ∧
        ∀ z, Tbl.find s.eng.hash.tables (4 * h + n) = some z → ∃ z', Tbl.find t.eng.hash.tables (4 * h + n) = some z' ∧
          z'.inserted = z.inserted ∧ z'.lost = z.lost))) ∧
    (∀ a b, k.instr = .tev a b →
      let type : BitVec 8 := (k.x.extractLsb' 0 5).setWidth 8
      (s.w.mustFollow s.cur uCP type = true → waits) ∧
      (s.w.filtered s.cur type = true ∨ s.w.contextOf s.cur = none → done (fun t => still t ∧ t.w.sinks = s.w.sinks)) ∧
      (∀ c, s.w.filtered s.cur type = false → s.w.contextOf s.cur = some c → s.w.hasRaised s.cur uCP = false →
        (s.w.sink c).buf.length < 64 → (s.w.sink c).waiting = [] → s.w.stall = none →
        done (fun t => still t ∧ (t.w.sink c).buf.length = (s.w.sink c).buf.length + 1 ∧
          BitVec.ofNat 64 s.w.time ++ type ++ BitVec.ofNat 2 (s.cur / 24) ++ BitVec.ofNat 5 (s.cur % 24) ++
            BitVec.ofNat 9 0x100 ++ s.eng.tenant ++ k.y.extractLsb' 0 32 ∈ (t.w.sink c).buf))) ∧
    (∀ a, k.instr = .tctl a → done (fun t => still t ∧ t.eng.jmask = k.x ∧ t.eng.tfilt = s.eng.tfilt ∧
      t.eng.masks s.w.cycle = s.eng.masks s.w.cycle ∧ (t.eng.masks (s.w.cycle + 1)).2 = k.x)) ∧
    ∀ a pa, k.instr = .tat a → read k.priv k.xoff uTIME 24 k.x pa →
      let d0 := memWord s.w.mem pa
      let d1 := memWord s.w.mem (pa + 8)
      let arg := memWord s.w.mem (pa + 16)
      let kind := (d1.extractLsb' 4 4).toNat
      let n := (d1.extractLsb' 0 4).toNat
      let good : Prop := d0.toNat < 2 ^ 60 ∧ d1.toNat < 2 ^ 16 ∧ kind ≤ 4 ∧ (kind = 0 → d0 = 0) ∧
        (kind ≠ 1 → d1.extractLsb' 11 5 = 0) ∧ (kind ≠ 3 → d1.extractLsb' 8 3 = 0) ∧
        (kind = 1 ∨ kind = 3 → arg.toNat % 64 = 0) ∧ (kind ≠ 1 → kind ≠ 3 → arg = 0)
      let writes (at' : Word) (q : Command) (v : Nat) (p : State → Prop) : Prop := ∀ pb,
        s.w.commandXlat s.cur uTIME q.asid q.ptroot q.priv q.xoff .write (at' + 24) = (.ok ⟨false, 0, pb⟩, s.w) →
        PlainAt s ⟨false, 0, pb⟩ → Memory.wf s.w.mem = true →
        done (fun t => p t ∧ ∀ z, (within pb 8 z → memRead t.w.mem z = byteOf v (z - pb)) ∧
          (¬ within pb 8 z → memRead t.w.mem z = memRead s.w.mem z))
      (good → kind = 2 ∨ kind = 4 → Tbl.find s.eng.triggers n = none →
        done (fun t => still t ∧ (∀ m, m ≠ n → Tbl.find t.eng.triggers m = Tbl.find s.eng.triggers m) ∧
          ∃ z, Tbl.find t.eng.triggers n = some z ∧ z.target = d0.toNat ∧ z.kind.toNat = kind ∧ z.addr = k.x ∧
            z.asid = k.asid ∧ z.late = decide (16 * d0.toNat < s.w.time))) ∧
      (good → kind = 0 → Tbl.find s.eng.triggers n = none →
        done (fun t => still t ∧ t.eng.triggers = s.eng.triggers)) ∧
      (∀ z, good → kind = 0 → Tbl.find s.eng.triggers n = some z →
        writes z.addr { k with asid := z.asid, ptroot := z.ptroot, priv := z.priv, xoff := z.xoff } (2 ^ 61)
          (fun t => Tbl.find t.eng.triggers n = none)) ∧
      (¬ good → writes k.x k (2 ^ 60) (fun t => t.eng.triggers = s.eng.triggers))

/-- With sixteen commands queued VWAIT, VSTAT, HSTAT and CFGW stall. Else VWAIT completes when its slot has performed the earlier commands and is not live; VSTAT and HSTAT complete with their word when the earlier commands of the slot or of the key unit are performed; CFGW completes when its command has been performed and the load has ended. Each is a release at core scope. DONE ends the unit of an unprivileged program once nothing of the core is under way. Until then each waits and changes nothing else; TAIL and DONE in the privileged mode take ILLEGAL, HSTAT with a high bit takes ILLEGAL, CFGW at a misaligned address MISALIGN. That CFGW queues its command in one turn and completes in another is the model's choice (log 9); that each waits for its own unit alone is its reading (log 8). (R145, R245, R246, R254, R258, R260, R321, R323) -/
def Obligations.WaitingInstructions : Prop :=
  ∀ (s : State) (d a : Reg) (v : BitVec 3) (n : BitVec 5),
    let x := s.reg a
    let w := s.w.releaseAt s.cur 0
    let room := s.eng.commands.length < 16
    let busy (u : Nat) : Prop := ∃ k ∈ s.eng.commands, cmdUnit k.instr = u
    let live := (s.eng.vat v.toNat).state.live = true
    let loading := (s.eng.vat v.toNat).cst = .loading
    let answers (i : Instr) (z : Word) : Prop := Completes i s d z (fun t => t.w = w)
    let waits (i : Instr) : Prop := exec i s = .next (s.withWorld w)
    (¬ room → exec (.vwait v) s = .next s ∧ exec (.vstat d n v) s = .next s ∧
      (x.toNat < 2 ^ 12 → exec (.hstat d a) s = .next s) ∧
      (x.toNat % 64 = 0 → s.cp.waitFrom = none → exec (.cfgw a v) s = .next s)) ∧
    (room →
      (¬ busy v.toNat → ¬ live → Completes (.vwait v) s 0 0 (fun t => t.w = w)) ∧
      (busy v.toNat ∨ live → waits (.vwait v)) ∧
      (¬ busy v.toNat → answers (.vstat d n v) (s.eng.vstat v.toNat n.toNat)) ∧
      (busy v.toNat → waits (.vstat d n v)) ∧
      (x.toNat < 2 ^ 12 → ¬ busy 65 → answers (.hstat d a) (s.eng.hash.stat x)) ∧
      (x.toNat < 2 ^ 12 → busy 65 → waits (.hstat d a))) ∧
    (2 ^ 12 ≤ x.toNat → Traps (.hstat d a) s 0x01 s.cp.pc ⟨x, 0, (Instr.hstat d a).word.setWidth 64, 0⟩) ∧
    (x.toNat % 64 ≠ 0 → Traps (.cfgw a v) s 0x03 s.cp.pc ⟨x, 0, 0, 0⟩) ∧
    (x.toNat % 64 = 0 →
      (s.cp.waitFrom = none → room → ∃ t, exec (.cfgw a v) s = .next t ∧ OthersStill s t ∧
        t.cp.pc = s.cp.pc ∧ t.cp.waitFrom ≠ none ∧ (∀ r, t.cp.reg r = s.cp.reg r) ∧
        t.eng.commands = s.eng.commands ++ [⟨.cfgw a v, x, 0, s.cp.asid, s.cp.ptroot, s.cp.prv, s.cp.xoff⟩]) ∧
      (s.cp.waitFrom ≠ none → ¬ busy v.toNat → ¬ loading → ∃ t, exec (.cfgw a v) s = .next t ∧ Still s t ∧
        t.cp = { s.cp with pc := s.cp.pc + 4, retired := s.cp.retired + 1, waitFrom := none }) ∧
      (s.cp.waitFrom ≠ none → busy v.toNat ∨ loading → exec (.cfgw a v) s = .next s)) ∧
    (s.cp.prv = false → s.w.mayEnd s.cur = true → ∃ t, exec .done s = .next t ∧ OthersStill s t ∧
      t.cp = { s.cp with mode := .between, retired := s.cp.retired + 1 } ∧ t.eng.unit = none) ∧
    (s.cp.prv = false → s.w.mayEnd s.cur = false → exec .done s = .next s) ∧
    (s.cp.prv = true → ∀ i ∈ [Instr.done, .tail d a],
      Traps i s 0x01 s.cp.pc ⟨i.word.setWidth 64, 0, i.word.setWidth 64, 0⟩)

/-- While the command queue has room, each but TIME, and a TMARK under way, releases the core's own stores. QARM and QDIS, once the copy engine has performed the earlier commands, arm a queue with a valid record in the named slot and disarm it. TRCV of a stream that holds a token stores its payload and completes with its sideband, taking the token; a stream that can give none answers all ones. RCSNAP stores the eight counters of a routing stage and clears them. TAIL of a readable block names the one child of the job and answers 0, or 1 when there is one or no job. TMARK, which takes its time once it is performed, completes when every earlier event of the core, and its own MARK, has its record; TIME completes with the package time or the time status, or takes ILLEGAL for another operand. That TMARK and RCSNAP keep causes away while they wait, and that RCSNAP translates again as it stores, is the model's choice (log 9). (R245, R295, R296, R371, R424, R428, R432, R434, R436) -/
def Obligations.DirectUnitInstructions : Prop :=
  ∀ (s : State) (d a b : Reg) (q : BitVec 3) (n : BitVec 5), Memory.wf s.w.mem = true →
    let x := s.reg a
    let y := s.reg b
    let cfg := s.eng.streamCfg n.toNat
    let sees (t : State) : Prop := ∀ z, t.sees z = s.sees z
    let w := s.w.releaseAt s.cur 0
    let s0 := s.withWorld w
    let room := s.eng.commands.length < 16
    (room → s.unitReady 64 = true →
      Completes (.qdis q) s 0 0 (fun t => sees t ∧ (t.eng.queue q.toNat).slot = none ∧
        (t.eng.queue q.toNat).triggers = (s.eng.queue q.toNat).triggers ∧
        ∀ k, k ≠ q.toNat → t.eng.queue k = s.eng.queue k) ∧
      (x.toNat % 64 = 0 → w.readWaits s.cur uCOPY s.cp.asid s.cp.ptroot false false x = false →
        Completes (.qarm a n q) s 0 0 (fun t => sees t ∧
        (∀ r u, w.readRecord s.cur s.cp.asid s.cp.ptroot x = (r, u) →
          (t.eng.queue q.toNat).slot = if u.recordOk s.cur r then some n.toNat else none) ∧
        ∀ k, k ≠ q.toNat → t.eng.queue k = s.eng.queue k))) ∧
    (room → x.toNat % 64 = 0 → s.unitReady (16 + n.toNat / 2) = true →
      (cfg.modeOf ≠ mCPIO ∨ ltagEn (cfg.tag 0) = false →
        Completes (.trcv d a n) s d (BitVec.allOnes 64) (fun t => t.w = w)) ∧
      (∀ z g pa w1, cfg.modeOf = mCPIO → ltagEn (cfg.tag 0) = true → s.eng.popPool (.stream n.toNat 0) = some (z, g) →
        s0.translate .write x = (.ok pa, w1) → PlainAt s0 pa →
        Completes (.trcv d a n) s d (BitVec.ofNat 64 z.sideband.toNat) (fun t =>
          (t.eng.pool (.stream n.toNat 0)).toks = (s.eng.pool (.stream n.toNat 0)).toks.drop 1 ∧
          ∀ i, (i < 64 → t.sees (pa.addr + i) = byteOf z.data.toNat i) ∧
            (¬ within pa.addr 64 i → t.sees i = s.sees i)))) ∧
    (∀ st pa pa0 w1 w2, room → y.toNat < 2 ^ 16 → bitsNat y 10 3 < 6 → x.toNat % 32 = 0 → pa.addr % 32 = 0 → s.unitReady (bitsNat y 13 3) = true →
      s.translate .write x = (.ok pa0, w2) → PlainAt s pa0 → s0.translate .write x = (.ok pa, w1) → PlainAt s0 pa →
      s.eng.routeStage (bitsNat y 13 3) (bitsNat y 0 10) (bitsNat y 10 3) = some st →
      ∃ t, exec (.rcsnap a b) s = .next t ∧ OthersStill s t ∧
        t.cp = { s.cp with pc := s.cp.pc + 4, retired := s.cp.retired + 1, locked := false } ∧
        (∀ i j, i < 8 → j < 4 → t.sees (pa.addr + 4 * i + j) = byteOf (st.counters.toList.getD i 0).toNat j) ∧
        (∀ z, ¬ within pa.addr 32 z → t.sees z = s.sees z) ∧
        ((t.eng.elem (bitsNat y 0 10)).stage (bitsNat y 10 3)).counters = Vector.replicate 8 0) ∧
    (∀ m s1, room → s.cp.prv = false → x.toNat % 64 = 0 → s0.load x 64 = .ok (m, s1) →
      let job (u : State) := (u.w.job (u.w.partOf s.cur)).job
      (∀ j, job s1 = some j → j.child = none → Completes (.tail d a) s d 0 (fun t =>
        t.w.mem = s1.w.mem ∧ ∃ j', job t = some j' ∧ (j'.child.map (·.addr)) = some x)) ∧
      ((job s1 = none ∨ ∃ j, job s1 = some j ∧ j.child ≠ none) →
        Completes (.tail d a) s d 1 (fun t => t.w = s1.w))) ∧
    (x.toNat < 2 ^ 32 →
      let kept := s.w.filtered s.cur 0x20 = false ∧ s.w.contextOf s.cur ≠ none
      (∀ m sent, s.eng.marking = some (m, sent) →
        (s.w.unsettled s.cur (if sent then m + 1 else m) = true → exec (.tmark a) s = .next s) ∧
        (s.w.unsettled s.cur (if sent then m + 1 else m) = false → sent = true ∨ ¬ kept →
          ∃ t, exec (.tmark a) s = .next t ∧ OthersStill s t ∧ t.w.mem = s.w.mem ∧ t.eng.marking = none ∧
            t.cp = { s.cp with pc := s.cp.pc + 4, retired := s.cp.retired + 1, locked := false }) ∧
        (s.w.unsettled s.cur m = false → sent = false → kept →
          (s.w.hasRaised s.cur uCP = true → exec (.tmark a) s = .next s) ∧
          (s.w.hasRaised s.cur uCP = false → ∃ t, exec (.tmark a) s = .next t ∧ t.cps = s.cps ∧ t.w.time = s.w.time ∧
            t.eng.marking = some (m, true)))) ∧
      (room → s.eng.marking = none → s.unitReady 66 = false →
        ∃ t, exec (.tmark a) s = .next t ∧ OthersStill s t ∧ t.w = w ∧ t.cp = { s.cp with locked := true })) ∧
    (x = 0 → Writes (.time d a) s d (BitVec.ofNat 64 s.w.time)) ∧
    (x = 1 → Writes (.time d a) s d s.w.timeStatus) ∧
    (1 < x.toNat → Traps (.time d a) s 0x01 s.cp.pc ⟨x, 0, (Instr.time d a).word.setWidth 64, 0⟩)

/-- For each of the 76 stage operations: in the cycle that the grid has begun, what is due having arrived, a stage that holds the operation, has its operands, waits for no release and no ring, and whose claims are served, answers a next state in which it has fired in this cycle and its vat has noted it, and each token that it consumed is gone from its input. The processors, the other cores and, unless the operation writes its bank, memory are as before, and so is every other input of its element. A stage whose operation is not the one named, or that does not act in this cycle, changes nothing. The first clause is for vats that the scheduler does not run (a scheduled sink hands its records on), and for states between steps, in which no action is held up by the trace fabric or wants a walk. That slots freed in a cycle count at once rests on log 17. (R6, R173, R174, R195, R196, R219, R253) -/
def Obligations.StageFires : Prop :=
  ∀ (i : Instr) (op : StageOp) (e : BitVec 7) (k : BitVec 3) (s : State),
    i.wellFormed = true → stageOf i = some (op, e, k) →
    let who := Claimant.stage e.toNat k.toNat
    let w0 := s.w.beginGrid s.cur
    let w1 := w0.setEng s.cur ((w0.eng s.cur).actedOn who)
    (∀ p x f, plannedFor (s.w.planned s.cur) who = some p → w1.stageOffer s.cur e.toNat k.toNat = some (x, f) →
      x.op = op → s.w.stall = none → s.w.miss = none → NotScheduled s x.vat e.toNat k.toNat →
      ∃ t, exec i s = .next t ∧ t.cps = s.cps ∧ t.schedule = s.schedule ∧ t.cur = s.cur ∧
        ((t.eng.elem e.toNat).stage k.toNat).lastFire = some s.w.cycle ∧
        (t.eng.vat x.vat).lastFire = s.w.cycle ∧ (t.eng.vat x.vat).state ≠ .armed ∧
        (f.bank = [] → t.w.mem = s.w.mem) ∧ (∀ c, c ≠ s.cur → t.w.eng c = s.w.eng c) ∧
        (∀ p g, p < 8 → g < 8 → (∀ y ∈ f.gots, y.src ≠ .port p g) →
          (t.eng.pool (.grid e.toNat p g)).toks = ((w0.eng s.cur).pool (.grid e.toNat p g)).toks) ∧
        (∀ p g, p < 8 → g < 8 → ∀ y ∈ f.gots, y.src = .port p g → (∀ y' ∈ f.gots, y'.src = .port p g → y' = y) →
          (t.eng.pool (.grid e.toNat p g)).toks = y.taken.left)) ∧
    (plannedFor (s.w.planned s.cur) who = none → exec i s = .next s) ∧
    ((∀ x, w0.fireAt s.cur e.toNat k.toNat = some x → x.op ≠ op) → exec i s = .next s)

/-- What one firing of each of the stage operations sends, stores or keeps when its operands are DATA tokens of sixteen lanes: the integer and bitwise operations on i32 lanes, guarded, wrapping or saturating as MOD says; the floating operations, the special functions, RINT, CVT, FTOI and ITOF on f32 lanes, under every NBV, mode and guard; LSUM, LMAX, LMIN, LSCAN, LREC, SHUF, BCAST and LROT; PASS, DELAY, CONST, STEER, MERGE, SWITCH, ROUTE, GATE, COUNT, SPLOOP, ISECT, SEQNO, EOSGEN, PRUNE and CONTRIB; MRD, MWR, MACC, MPUSH, MPOP and MREORD. In a packed format each element of a lane is computed alone. (Equal widths in CVT, FTOI and ITOF, and comparisons under NBV 1, rest on log 34.) (R191, R199, R200, R201, R202, R203, R204, R208, R209, R213, R220, R223) -/
def Obligations.StageIntegerValues : Prop :=
  (∀ (k w : Nat) (g : BitVec 3) (h : Nat → Nat → Nat → Nat → Nat → Nat × FlagSet) (a b c : Opnd) (l j : Nat),
    k * w ≤ 32 → a.valid ≤ 16 → l < a.valid → j < k →
    let el (d : Payload) : Nat := (lane d l).toNat / 2 ^ (w * j) % 2 ^ w
    el (elementwise k w g h a b c).data =
      if guardHolds g (lane b.masked l) then (h l j (el a.data) (el b.masked) (el c.masked)).1 % 2 ^ w else el a.data) ∧
  ∀ x : Fire, x.owed = false →
    let op := x.op
    let p := x.ops
    let low := x.pc.low
    let dst := x.pc.dst
    let mode := x.pc.mode
    let full (t : Token) : Prop := t.kind = kDATA ∧ t.valid = 16
    -- the firing of the operation sends one token of `n` lanes
    let sends (n : Nat) (v : Nat → BitVec 32) : Prop := ∃ f tok, planOf op x = some f ∧
      f.sends = (destsOf dst).map (fun d => (d, tok)) ∧ tok.kind = kDATA ∧ tok.valid.toNat = n ∧
      ∀ l, l < n → lane tok.data l = v l
    let one (h : (Nat → BitVec 32) → Prop) : Prop :=
      ∀ a, x.reads = [.tok a] → full a.tok → h (lane a.tok.data)
    let two (h : (Nat → BitVec 32) → (Nat → BitVec 32) → Prop) : Prop :=
      ∀ a b, x.reads = [.tok a, .tok b] → full a.tok → full b.tok → h (lane a.tok.data) (lane b.tok.data)
    let three (h : (Nat → BitVec 32) → (Nat → BitVec 32) → (Nat → BitVec 32) → Prop) : Prop :=
      ∀ a b c, x.reads = [.tok a, .tok b, .tok c] → full a.tok → full b.tok → full c.tok →
        h (lane a.tok.data) (lane b.tok.data) (lane c.tok.data)
    let took (b : Nat → BitVec 32) (l : Nat) : Bool := guardHolds x.pc.guard (b l)
    let clamp (z : Int) : BitVec 32 := BitVec.ofInt 32 (max (-2 ^ 31) (min (2 ^ 31 - 1) z))
    let ext (z : Int) : BitVec 32 := if low.getLsbD 5 then clamp z else BitVec.ofInt 32 z
    -- i32: one operand, two, three
    let i1 (o : StageOp) (h : BitVec 32 → BitVec 32) : Prop :=
      op = o → x.pc.fmt = 0 → x.pc.guard = 0 → one (fun a => sends 16 (fun l => h (a l)))
    let i2 (o : StageOp) (h : BitVec 32 → BitVec 32 → BitVec 32) : Prop :=
      op = o → x.pc.fmt = 0 → two (fun a b => sends 16 (fun l => if took b l then h (a l) (b l) else a l))
    let i3 (o : StageOp) (h : BitVec 32 → BitVec 32 → BitVec 32 → BitVec 32) : Prop :=
      op = o → x.pc.fmt = 0 → three (fun a b c => sends 16 (fun l => if took b l then h (a l) (b l) (c l) else a l))
    -- f32: the exact values of the operands, the draw of the lane, the result rounded
    let F (y : BitVec 32) : Val := (floatOperand x.nbv f32Fmt y.toNat).1
    let rnd (l : Nat) (v : Val) : BitVec 32 := BitVec.ofNat 32 (roundNbv x.nbv f32Fmt mode (x.ctx.draw l 0) v).1
    let exactly (v : Val) : BitVec 32 := BitVec.ofNat 32 (roundNbv x.nbv f32Fmt .rne 0 v).1
    let f1 (o : StageOp) (h : Nat → Val → BitVec 32) : Prop :=
      op = o → x.pc.fmt = 1 → x.pc.guard = 0 → one (fun a => sends 16 (fun l => h l (F (a l))))
    let f2 (o : StageOp) (h : Nat → Val → Val → BitVec 32) : Prop :=
      op = o → x.pc.fmt = 1 → two (fun a b => sends 16 (fun l => if took b l then h l (F (a l)) (F (b l)) else a l))
    let f3 (o : StageOp) (h : Nat → Val → Val → Val → BitVec 32) : Prop :=
      op = o → x.pc.fmt = 1 →
        three (fun a b c => sends 16 (fun l => if took b l then h l (F (a l)) (F (b l)) (F (c l)) else a l))
    let special (o : StageOp) (fn : SpecialFn) : Prop :=
      f1 o (fun l v => BitVec.ofNat 32 (flushOut x.nbv f32Fmt (fn.eval f32Fmt mode (x.ctx.draw l 0) v)).1)
    -- integers
    (i2 .iadd (fun a b => BitVec.ofInt 32 (a.toInt + b.toInt)) ∧
     i2 .isub (fun a b => BitVec.ofInt 32 (a.toInt - b.toInt)) ∧
     i2 .imul (fun a b => ext (a.toInt * b.toInt)) ∧
     i2 .imulh (fun a b => BitVec.ofInt 32 (a.toInt * b.toInt / 2 ^ 32)) ∧
     i3 .imac (fun a b c => ext (a.toInt * b.toInt + c.toInt)) ∧
     i1 .ineg (fun a => ext (-a.toInt)) ∧ i1 .iabs (fun a => ext a.toInt.natAbs) ∧
     i2 .imin (fun a b => if a.toInt ≤ b.toInt then a else b) ∧
     i2 .imax (fun a b => if a.toInt ≤ b.toInt then b else a) ∧
     i2 .isadd (fun a b => clamp (a.toInt + b.toInt)) ∧ i2 .issub (fun a b => clamp (a.toInt - b.toInt)) ∧
     i3 .iclamp (fun a b c => BitVec.ofInt 32 (max b.toInt (min a.toInt c.toInt))) ∧
     i2 .stageAnd (fun a b => a &&& b) ∧ i2 .stageOr (fun a b => a ||| b) ∧ i2 .stageXor (fun a b => a ^^^ b) ∧
     i1 .stageNot (fun a => ~~~a) ∧
     i2 .stageShl (fun a b => ext (a.toInt * 2 ^ (b.toNat % 32))) ∧
     i2 .stageShr (fun a b => BitVec.ofNat 32 (a.toNat / 2 ^ (b.toNat % 32))) ∧
     i2 .stageSar (fun a b => BitVec.ofInt 32 (a.toInt / (2 ^ (b.toNat % 32) : Nat))) ∧
     i2 .icmp (fun a b => if cmpInt (low.extractLsb' 0 3) 32 a.toInt b.toInt then BitVec.allOnes 32 else 0) ∧
     (op = .sel → x.pc.fmt = 0 → three (fun a b c => sends 16 (fun l => if c l = 0 then b l else a l))) ∧
     (op = .idot4 → three (fun a b c => sends 16 (fun l => clamp ((c l).toInt +
       ((List.range 4).map (fun j => ((a l).extractLsb' (8 * j) 8).toInt * ((b l).extractLsb' (8 * j) 8).toInt)).sum)))) ∧
     (op = .idot2 → three (fun a b c => sends 16 (fun l => clamp ((c l).toInt +
       ((List.range 2).map (fun j => ((a l).extractLsb' (16 * j) 16).toInt *
         ((b l).extractLsb' (16 * j) 16).toInt)).sum))))) ∧
    -- floating point
    (f2 .fadd (fun l a b => rnd l (exactSum [a, b] mode).1) ∧ f2 .fsub (fun l a b => rnd l (exactSum [a, b.neg] mode).1) ∧
     f2 .fmul (fun l a b => rnd l (a.mul b).1) ∧ f3 .fma (fun l a b c => rnd l (fmaVal mode a b c).1) ∧
     f3 .fnma (fun l a b c => rnd l (fmaVal mode a.neg b c).1) ∧
     f2 .fmin (fun _ a b => exactly (minVal a b)) ∧ f2 .fmax (fun _ a b => exactly (maxVal a b)) ∧
     f1 .fabs (fun _ a => exactly a.abs) ∧ f1 .fneg (fun _ a => exactly a.neg) ∧
     f2 .fcmp (fun _ a b => if cmpVal (low.extractLsb' 0 3) a b then BitVec.allOnes 32 else 0) ∧
     f3 .fclamp (fun _ a b c => exactly (maxVal b (minVal a c))) ∧
     special .rcp .rcp ∧ special .rsq .rsq ∧ special .sqrt .sqrt ∧ special .exp2 (.trans .exp2) ∧
     special .log2 (.trans .log2) ∧ special .exp (.trans .exp) ∧ special .log (.trans .log) ∧
     special .tanh (.trans .tanh) ∧ special .sigm (.trans .sigm) ∧
     f1 .rint (fun l a => match a with
       | .fin neg m e => if m = 0 then exactly a
         else BitVec.ofNat 32 (roundNbv x.nbv f32Fmt .rtz 0 (.fin neg (roundTo mode neg m e 0 (x.ctx.draw l 0)).1 0)).1
       | .inf _ => exactly a
       | .nan _ => 0x7FC00000)) ∧
    -- conversions between i32 and f32, with nothing kept from before and no block scale in force
    (p.elems = [] → p.out = [] → (∀ a, x.readA = .tok a → a.taken.under = none) →
      let int (l : Nat) (v : Val) : BitVec 32 := BitVec.ofNat 32 (round (.int 32) mode (x.ctx.draw l 0) v).1
      (op = .cvt → x.pc.fmt = 1 → x.pc.resFmt = 1 → one (fun a => sends 16 (fun l => rnd l (F (a l))))) ∧
      (op = .ftoi → x.pc.fmt = 1 → x.pc.resFmt = 0 →
        two (fun a b => sends 16 (fun l => int l ((F (a l)).scale ((b l).extractLsb' 0 8).toInt)))) ∧
      (op = .itof → x.pc.fmt = 0 → x.pc.resFmt = 1 →
        two (fun a b => sends 16 (fun l => rnd l ((Val.ofInt (a l).toInt).scale (-((b l).extractLsb' 0 8).toInt)))))) ∧
    -- lanes
    (let ints (a : Nat → BitVec 32) (n : Nat) : List Int := (List.range n).map (fun l => (a l).toInt)
     let vals (a : Nat → BitVec 32) (n : Nat) : List Val := (List.range n).map (fun l => F (a l))
     (op = .lsum → x.pc.fmt = 0 → one (fun a => sends 1 (fun _ => BitVec.ofInt 32 (ints a 16).sum))) ∧
     (op = .lsum → x.pc.fmt = 1 → one (fun a => sends 1 (fun _ => rnd 0 (exactSum (vals a 16) mode).1))) ∧
     (op = .lmax → x.pc.fmt = 0 → one (fun a => sends 1 (fun _ => BitVec.ofInt 32 ((ints a 16).foldl max (-2 ^ 31))))) ∧
     (op = .lmin → x.pc.fmt = 0 → one (fun a => sends 1 (fun _ => BitVec.ofInt 32 ((ints a 16).foldl min (2 ^ 31 - 1))))) ∧
     (op = .lmax → x.pc.fmt = 1 → one (fun a => sends 1 (fun _ => exactly ((vals a 16).foldl maxVal (.inf true))))) ∧
     (op = .lmin → x.pc.fmt = 1 → one (fun a => sends 1 (fun _ => exactly ((vals a 16).foldl minVal (.inf false))))) ∧
     (op = .lscan → x.pc.fmt = 0 → low.getLsbD 0 = false →
       one (fun a => sends 16 (fun l => BitVec.ofInt 32 (ints a (l + 1)).sum))) ∧
     (op = .lscan → x.pc.fmt = 1 → low.getLsbD 0 = false → x.nbv = 3 →
       one (fun a => sends 16 (fun l => rnd l (exactSum (.fin false 0 (-149) :: vals a (l + 1)) mode).1))) ∧
     (op = .lrec → low.getLsbD 0 = false → two (fun a b => ∃ h : Nat → BitVec 32, sends 16 (fun l => h (l + 1)) ∧
       h 0 = BitVec.ofNat 32 (lrecInit x) ∧ ∀ l, l < 16 →
         let D (y : BitVec 32) : Val := decodeFloat f32Fmt y.toNat
         h (l + 1) = BitVec.ofNat 32
           (round (.float f32Fmt) mode (x.ctx.draw l 0) (fmaVal mode (D (a l)) (D (h l)) (D (b l))).1).1)) ∧
     (op = .shuf → x.pc.fmt = 0 → two (fun a b => sends 16 (fun l => a ((b l).toNat % 16)))) ∧
     (op = .bcast → x.pc.fmt = 0 → one (fun a => sends 16 (fun _ => a (x.pc.arg.toNat % 16)))) ∧
     (op = .lrot → x.pc.fmt = 0 → one (fun a => sends 16 (fun l => a ((l + 16 - x.pc.arg.toNat % 16) % 16))))) ∧
    -- moving tokens
    (let moves (bits : BitVec 16) (t : Token) : Prop := ∃ f, planOf op x = some f ∧
       f.sends = (destsOf bits).map (fun d => (d, t))
     let data : BitVec 512 → Token := fun d => { plainToken kDATA with valid := 16, data := d }
     let n := x.pc.arg.toNat
     (∀ a, x.readA = .tok a → a.tok.kind = kDATA →
       (op = .pass ∨ op = .delay ∨ op = .eosgen ∧ p.out = [] → moves dst a.tok) ∧
       (op = .eosgen → p.out = [] → n ≠ 0 → ∃ f, planOf op x = some f ∧
         let q := (f.el.stage x.k).opState x.ph
         x.k < 6 → (p.count + 1 = n → q.count = 0 ∧ q.out = [plainToken kEOS]) ∧
           (p.count + 1 ≠ n → q.count = p.count + 1 ∧ q.out = [])) ∧
       (op = .seqno → moves dst { plainToken kDATA with
         valid := 1, p := a.tok.p, data := payloadOf [BitVec.ofNat 32 p.count] }) ∧
       (op = .contrib → moves dst a.tok ∧ ∃ f k, planOf op x = some f ∧ f.contrib = some (x.pc.arg.extractLsb' 0 6, k) ∧
         k.data = a.tok.data ∧ k.valid = BitVec.ofNat 16 (2 ^ min a.tok.valid.toNat 16 - 1) ∧ k.fmt = x.pc.fmt ∧
         k.p = a.tok.p ∧ (x.pc.arg.extractLsb' 6 2 = 0 → k.close = false) ∧ (x.pc.arg.extractLsb' 6 2 = 1 → k.close = true)) ∧
       (op = .count → x.pc.selA ≠ 15 → full a.tok →
         let m := if n = 0 then (lane a.tok.data 0).toNat else n
         (p.base < m → ∃ f tok, planOf op x = some f ∧ f.sends = (destsOf dst).map (fun d => (d, tok)) ∧ f.gots = [] ∧
           tok.kind = kDATA ∧ tok.valid.toNat = (if low.getLsbD 0 then 1 else min 16 (m - p.base)) ∧
           ∀ l, l < tok.valid.toNat → lane tok.data l = BitVec.ofNat 32 (p.base + l)) ∧
         (m ≤ p.base → ∃ f, planOf op x = some f ∧ f.gots = [a] ∧ f.sends = (destsOf dst).map (fun d =>
           (d, { plainToken kEOD with level := BitVec.ofNat 4 ((low.extractLsb' 1 3).toNat + 1), p := a.tok.p }))))) ∧
     (∀ o, op = .const → p.stopped = false → x.draining = false → x.readA = .reg o →
       (n = 0 ∨ p.count < n → moves dst (data o.data)) ∧ (n ≠ 0 → n ≤ p.count → moves dst (plainToken kEOS))) ∧
     (∀ a b, x.reads = [.tok a, .tok b] → full a.tok → full b.tok →
       let b0 := lane b.tok.data 0
       let holds := cmpInt (low.extractLsb' 0 3) 32 (lane a.tok.data 0).toInt b0.toInt
       let toNth (i : Nat) : Prop := ∃ f, planOf op x = some f ∧
         (∀ d, (destsOf dst)[i]? = some d → f.sends = [(d, a.tok)]) ∧
         ((destsOf dst)[i]? = none → f.sends = ((destsOf dst).take 1).map (fun d => (d, x.err 2 a.tok.sideband)))
       (op = .steer → x.pc.fmt = 0 → moves (if holds then dst else x.pc.arg) a.tok) ∧
       (op = .gate → moves (if (b0 == 0) == low.getLsbD 0 then dst else 0) a.tok) ∧
       (op = .switch → (0 ≤ b0.toInt → toNth b0.toNat) ∧ (b0.toInt < 0 → toNth 16)) ∧
       (op = .route → b0.toNat < 256 →
         let e := x.routeEntry b0.toNat
         let alt := e.getLsbD 3 && Tbl.get x.st.alternate false b0.toNat
         (e.getLsbD 7 = false → toNth 16) ∧
         (e.getLsbD 7 = true → toNth (if alt then e.extractLsb' 4 3 else e.extractLsb' 0 3).toNat)) ∧
       (op = .sploop → p.out = [] →
         let bits := if low.getLsbD 0 then a.tok.data ||| b.tok.data else a.tok.data &&& b.tok.data
         let found := (List.range 512).filter (fun i => bits.getLsbD i)
         (found = [] → moves 0 a.tok) ∧
         (found ≠ [] → sends (min 16 found.length) (fun l => BitVec.ofNat 32 (p.base + found.getD l 0)))) ∧
       (op = .route → 256 ≤ b0.toNat → toNth 16) ∧
       (op = .mreord →
         let w := n
         let s := b0.toNat
         let stored := x.el.next ≤ s ∧ s < x.el.next + w ∧ Tbl.find x.el.window (s % w) = none
         x.readA = .tok a → (x.after (.tok a)).readB = .tok b →
         (stored → ∃ f, planOf op x = some f ∧ f.sends = [] ∧
           Tbl.find f.el.window (s % w) = some { a.tok with r := false }) ∧
         (¬ stored → x.st.sentAt x.now = false → moves dst (x.err 2 b.tok.sideband)))) ∧
     (op = .merge → x.handler = none → mergeAny x.pc.arg = true →
       let a := x.read x.pc.selA (low.extractLsb' 3 3).toNat
       let b := x.read x.pc.selB (low.extractLsb' 0 3).toNat
       (∀ g, a = .tok g → g.tok.kind = kDATA → moves dst g.tok) ∧
       (∀ g, a = .wait → b = .tok g → g.tok.kind = kDATA → moves dst g.tok)) ∧
     (op = .merge → x.handler = none → mergeAny x.pc.arg = false → x.pc.fmt = 0 → ∀ g h,
       x.read (mergePort x.pc.arg) 0 = .tok g → full g.tok →
       let k := lane (x.read (mergeK x.pc.arg) 0).opnd.masked 0
       let y := x.after (.tok g)
       (if cmpInt (mergeCmp x.pc.arg) 32 (lane g.tok.data 0).toInt k.toInt then
         y.read y.pc.selB (low.extractLsb' 0 3).toNat else y.read y.pc.selA (low.extractLsb' 3 3).toNat) = .tok h →
       h.tok.kind = kDATA → moves dst h.tok) ∧
     -- one comparison of ISECT
     (∀ a b, op = .isect → x.k < 6 → p.out = [] → p.skipA = false → p.skipB = false → x.readA = .tok a →
       (x.after (.tok a)).readB = .tok b → full a.tok → full b.tok → p.idxA < 15 → p.idxB < 15 →
       let ca := lane a.tok.data p.idxA
       let cb := lane b.tok.data p.idxB
       (∀ z, p.lastA = some z → z < ca.toInt) → (∀ z, p.lastB = some z → z < cb.toInt) →
       let v := if low.getLsbD 0 then BitVec.ofNat 32 ((p.posA % 65536) * 65536 + p.posB % 65536) else ca
       ∃ f, planOf op x = some f ∧ f.gots = [] ∧
         let q := (f.el.stage x.k).opState x.ph
         q.idxA = (if ca.toInt ≤ cb.toInt then p.idxA + 1 else p.idxA) ∧
         q.idxB = (if cb.toInt ≤ ca.toInt then p.idxB + 1 else p.idxB) ∧
         (ca ≠ cb → f.sends = [] ∧ q.elems = p.elems) ∧
         (ca = cb → p.elems.length < 15 → f.sends = [] ∧ q.elems.map (·.pat) = p.elems.map (·.pat) ++ [v.toNat])) ∧
     -- PRUNE: the metadata
     (∀ a, op = .prune → p.out = [] → x.pc.fmt = 0 → x.readA = .tok a → full a.tok → 1 ≤ prunePort x.pc.arg →
       prunePort x.pc.arg ≤ 8 → 0 < pruneM x.pc.arg →
       let m := pruneM x.pc.arg
       let size (l : Nat) : Nat := (lane a.tok.data l).toInt.natAbs
       let above (l j : Nat) : Bool := size l < size j || (size l == size j && j < l)
       ∃ f info rest, planOf op x = some f ∧ f.sends = (7 + prunePort x.pc.arg, info) :: rest ∧ info.kind = kDATA ∧
         info.valid = 1 ∧ ∀ l, l < 16 → ((lane info.data 0).getLsbD l = true ↔
           ((List.range 16).filter (fun j => j / m = l / m && above l j)).length < pruneN x.pc.arg))) ∧
    -- memory elements
    (let word (i : Nat) : BitVec 32 := x.w.bankWord x.c x.e i
     let at' (b : Nat → BitVec 32) (l : Nat) : Nat := if low.getLsbD 0 then (b l).toNat else 16 * (b 0).toNat + l
     let inside (b : Nat → BitVec 32) : Prop := if low.getLsbD 0 then ∀ l, l < 16 → (b l).toNat < 16384 else (b 0).toNat < 1024
     (∀ i, x.w.failing (bankWordAddr x.c x.e i) 4 = none) →
     (op = .mrd → one (fun a => (inside a → sends 16 (fun l => word (at' a l))) ∧
       (¬ inside a → ∃ f sb, planOf op x = some f ∧ f.sends = (destsOf dst).map (fun d => (d, x.err 2 sb))))) ∧
     (op = .mwr → two (fun a b => inside b → ∃ f, planOf op x = some f ∧ f.sends = [] ∧
       f.bank = (List.range 16).map (fun l => (at' b l, a l)))) ∧
     (op = .macc → x.pc.fmt = 0 → two (fun a b => inside b → ∃ f, ∃ v : Nat → BitVec 32, planOf op x = some f ∧
       f.sends = [] ∧ f.bank = (List.range 16).map (fun l => (at' b l, v l)) ∧
       ∀ l, l < 16 → ((∀ j, j < l → at' b j ≠ at' b l) → v l = word (at' b l) + a l) ∧
         (∀ j, j < l → at' b j = at' b l → (∀ i, j < i → i < l → at' b i ≠ at' b l) → v l = v j + a l))) ∧
     (∀ a, op = .mpush → x.readA = .tok a → x.el.fifo.length < x.pc.arg.toNat → ∃ f, planOf op x = some f ∧ f.sends = [] ∧
       f.el.fifo = x.el.fifo ++ [{ a.tok with r := false, shared := false, cfgId := 0, data := 0 }] ∧
       f.bank = (List.range 16).map (fun l =>
         (16 * ((x.el.fifoAt + x.el.fifo.length) % x.pc.arg.toNat) + l, lane a.tok.data l))) ∧
     (∀ t rest, op = .mpop → 0 < x.pc.arg.toNat → x.el.fifo = t :: rest → ∃ f tok, planOf op x = some f ∧
       f.sends = (destsOf dst).map (fun d => (d, tok)) ∧ f.el.fifo = rest ∧ tok.kind = t.kind ∧ tok.valid = t.valid ∧
       ∀ l, l < 16 → lane tok.data l = word (16 * (x.el.fifoAt % x.pc.arg.toNat) + l)))

/-- When the write side of a memory element in reorder mode holds the token that is next in order and its claims are served, the event sends it to every destination of DST and moves on to the next number: by a port without conversion a token with its kind, lanes and data is on its way to the end of the link, in a converting router it stands among the elements or has left, a later stage and the hold register have it due; the window keeps every other token, and the processors, memory and the other cores are as before. When it does not act in this cycle, nothing changes. Of the claims of a cycle, each tag has no more served by its reserve than are free there, each pool no more by shared slots; one that is served by neither finds its reserve used up, and every shared slot given to tags not above its own. (R170, R171, R222, R223) -/
def Obligations.ReorderRelease : Prop :=
  (∀ (s : State) (e : BitVec 7),
    let who := Claimant.release e.toNat
    let w0 := s.w.beginGrid s.cur
    let w1 := w0.setEng s.cur ((w0.eng s.cur).actedOn who)
    (∀ p x f, plannedFor (s.w.planned s.cur) who = some p → w1.releaseOffer s.cur e.toNat = some (x, f) →
      s.w.stall = none → s.w.miss = none →
      let w := x.pc.arg.toNat
      let due := x.due f.counted
      ∃ t tok, exec (.mreordRelease e) s = .next t ∧
        Tbl.find (s.eng.elem e.toNat).window ((s.eng.elem e.toNat).next % w) = some tok ∧
        f.sends = (destsOf x.pc.dst).map (fun d => (d, tok)) ∧
        (let bare : Token := { tok with r := false, shared := false }
         let leaves (far : Endpoint) (k : Token) : Prop :=
           ∃ y ∈ t.eng.flights.drop (w1.eng s.cur).flights.length, y.dest = far ∧ y.tok.kind = k.kind ∧
             y.tok.level = k.level ∧ y.tok.valid = k.valid ∧ y.tok.p = k.p ∧ y.tok.data = k.data ∧ due ≤ y.arrive
         ∀ d ∈ destsOf x.pc.dst,
           (d < 6 → ((Tbl.find ((t.eng.elem e.toNat).stage d).inq 1).getD []).getLast? = some (due, bare)) ∧
           (d = 6 → (due, tok.data) ∈ ((t.eng.elem e.toNat).stage 1).holdNext) ∧
           (∀ far hops, 8 ≤ d → x.st.detached.getLsbD (d - 8) = false → linkOf x.eng.cfg e.toNat (d - 8) = some (far, hops) →
             let o := Tbl.get x.el.outs OutConv.empty (d - 8)
             (x.repacks o (d - 8) = none → leaves far bare) ∧
             (∀ src, x.repacks o (d - 8) = some src →
               let o' := (o.put 1 src (oportFmt (x.cfg.outPort (d - 8))) (x.leaving (d - 8) bare)).1
               (Tbl.get (t.eng.elem e.toNat).outs OutConv.empty (d - 8)) = { o' with waiting := o'.waiting.tail } ∧
               ∀ k, o'.waiting.head? = some k → leaves far k))) ∧ t.cps = s.cps ∧ t.w.mem = s.w.mem ∧
        (∀ c, c ≠ s.cur → t.w.eng c = s.w.eng c) ∧
        (t.eng.elem e.toNat).next = (s.eng.elem e.toNat).next + 1 ∧
        ∀ q, q ∈ (t.eng.elem e.toNat).window ↔
          q ∈ (s.eng.elem e.toNat).window ∧ q.1 ≠ (s.eng.elem e.toNat).next % w) ∧
    (plannedFor (s.w.planned s.cur) who = none → exec (.mreordRelease e) s = .next s)) ∧
  ∀ (g : Eng) (ks : List Claim), ks.Nodup → (∀ k ∈ ks, k.dest.tag < 8) →
    let r := (g.serve ks).1
    let h := (g.serve ks).2
    let ofTag (k : Claim) : Nat := (r.filter (fun q => q.dest == k.dest)).length
    let ofPool (k : Claim) : Nat := (h.filter (fun q => samePool q.dest k.dest)).length
    (∀ k, k ∈ r ∨ k ∈ h → k ∈ ks) ∧ (∀ k ∈ r, k ∉ h) ∧
    (∀ k ∈ ks, ofTag k ≤ g.reserveLeft k.dest ∧ ofPool k ≤ g.sharedFree k.dest) ∧
    ∀ k ∈ ks, k ∉ r → k ∉ h → ofTag k = g.reserveLeft k.dest ∧ ofPool k = g.sharedFree k.dest ∧
      ∀ j ∈ h, samePool j.dest k.dest = true → j.dest.tag ≤ k.dest.tag

/-- A live vat whose sinks have all reported, whose region is quiet and whose copies are complete retires: its state is RETIRED, VSEQ goes up by one, and the completion word, the one of its slot when ARM named none, holds VSEQ; a store to it that is refused is dropped. A live vat that holds tokens and in whose last 65,536 complete cycles no stage has fired is reported by VAT_STALL once, until a stage fires (log 24, DESIGN CHOICE): the cause is pending, or follows the controller's earlier events. VKILL at the head of the queue, its controller held up by nothing, makes a vat that is not FREE KILLED and adds one to VSEQ, and one before where it retires first. The completion word is translated under what ARM latched (log 24, DEDUCED); where that needs a walk, the action waits for it. Where the conditions fail the first two change nothing. (R124, R252, R259) -/
def Obligations.VatEnds : Prop :=
  ∀ (s : State) (v : BitVec 3),
    let x := s.eng.vat v.toNat
    let n := x.vseq + 1
    (s.w.mayRetire s.cur v.toNat = true → x.cw = 0 → ∃ t, exec (.vatRetire v) s = .next t ∧ t.cps = s.cps ∧
      t.w.mem = s.w.mem ∧ (t.eng.vat v.toNat).state = .retired ∧ (t.eng.vat v.toNat).vseq = n ∧
      (t.eng.vat v.toNat).window = n ∧ (∀ u, u ≠ v.toNat → t.eng.vat u = s.eng.vat u) ∧
      ∀ c, c ≠ s.cur → t.w.eng c = s.w.eng c) ∧
    (∀ pa w1, s.w.mayRetire s.cur v.toNat = true → x.cw ≠ 0 → Memory.wf s.w.mem = true →
      s.w.commandXlat s.cur (addrVat v.toNat) x.asid x.ptroot x.priv x.xoff .write x.cw = (.ok pa, w1) → PlainAt s pa →
      ∃ t, exec (.vatRetire v) s = .next t ∧ t.cps = s.cps ∧ (t.eng.vat v.toNat).state = .retired ∧
        (t.eng.vat v.toNat).vseq = n ∧
        ∀ z, (within pa.addr 8 z → memRead t.w.mem z = byteOf n.toNat (z - pa.addr)) ∧
          (¬ within pa.addr 8 z → memRead t.w.mem z = memRead s.w.mem z)) ∧
    (∀ r w1, s.w.mayRetire s.cur v.toNat = true → x.cw ≠ 0 →
      s.w.commandXlat s.cur (addrVat v.toNat) x.asid x.ptroot x.priv x.xoff .write x.cw = (.error (.refused r), w1) →
      ∃ t, exec (.vatRetire v) s = .next t ∧ t.cps = s.cps ∧ t.w.mem = s.w.mem ∧
        (t.eng.vat v.toNat).state = .retired ∧ (t.eng.vat v.toNat).vseq = n) ∧
    (s.w.mayRetire s.cur v.toNat = false → exec (.vatRetire v) s = .next s) ∧
    (∀ p, x.active = some p → x.state.live = true → s.w.tokensPresent s.cur p.has = true → x.stallReported = false →
      65536 ≤ s.w.cycle - 1 - x.lastFire → ∃ t, exec (.vatStall v) s = .next t ∧ t.cps = s.cps ∧ t.w.mem = s.w.mem ∧
        (t.eng.vat v.toNat).stallReported = true ∧ (t.eng.vat v.toNat).state = x.state ∧
        ∃ q, (q ∈ t.eng.pend ∨ ∃ r ∈ t.eng.reports, r.cause = some q) ∧ q.code = 0x14 ∧ q.source = v.toNat) ∧
    (x.state.live = false ∨ x.stallReported = true ∨ s.w.cycle - 1 - x.lastFire < 65536 →
      exec (.vatStall v) s = .next s) ∧
    (∀ k rest, s.eng.commands = k :: rest → k.instr = .vkill v → s.eng.pressing = false → x.state ≠ .free →
      s.w.heldUnit s.cur (addrVat v.toNat) = false → s.w.miss = none →
      (x.cw = 0 ∨ ∀ w1, s.w.commandXlat s.cur (addrVat v.toNat) x.asid x.ptroot x.priv x.xoff .write x.cw ≠ (.error .walk, w1)) →
      ∃ t, s.perform 0 = some t ∧ t.cps = s.cps ∧ t.eng.commands = rest ∧ (t.eng.vat v.toNat).state = .killed ∧
        (t.eng.vat v.toNat).vseq = if s.w.mayRetire s.cur v.toNat then n + 1 else n)

/-- The SWAP at the head of its slot's commands, on a slot that is not live and holds no residue, whose culture plane is loaded and whose region an earlier cycle has found quiet, is performed: with no token in a link of a unit of either plane the two planes change places, the slot is LOADED, every element of either plane's region holds the configuration that its culture plane held and every other element its own; with a token in a link the slot has a RESIDUE, the planes stay, and VAT_FAULT is pending. The command has left the queue. Before such a cycle the SWAP waits and nothing changes. The later cycle rests on log 18 (DEDUCED), the units of both planes and the head of the slot's commands on log 24. In a cycle in which its controller has raised an event, and VAT_RESIDUE would have to follow in a later one (R414, R233), the SWAP waits. (R226, R227, R229, R256) -/
def Obligations.PlaneExchange : Prop :=
  ∀ (s : State) (v : BitVec 3) (k : Command) (n : Nat) (p : Plane),
    let x := s.eng.vat v.toNat
    let has := eitherHas p x.active
    s.eng.firstOf v.toNat = some (k, n) → k.instr = .swap v → s.eng.pressing = false →
    x.state ≠ .residue → x.state.live = false → x.cst = .loaded → x.culture = some p →
      (s.w.mustFollow s.cur (addrVat v.toNat) tVATRESIDUE = true ∨ (∀ q, x.quietFrom = some q → s.w.cycle ≤ q) → exec (.planeExchange v) s = .next s) ∧
      ∀ q, x.quietFrom = some q → q < s.w.cycle → s.w.mustFollow s.cur (addrVat v.toNat) tVATRESIDUE = false → ∃ t, exec (.planeExchange v) s = .next t ∧ t.cps = s.cps ∧ t.w.mem = s.w.mem ∧
        t.eng.commands = s.eng.commands.take n ++ s.eng.commands.drop (n + 1) ∧
        (∀ c, c ≠ s.cur → t.w.eng c = s.w.eng c) ∧
        (s.eng.residue has = [] →
          (t.eng.vat v.toNat).state = .loaded ∧ (t.eng.vat v.toNat).active = some p ∧
          (t.eng.vat v.toNat).culture = x.active ∧ (t.eng.vat v.toNat).code = 0 ∧
          ∀ e, e < 128 → t.eng.cfg e =
            if has e then Tbl.get s.eng.culture ElemCfg.empty e else s.eng.cfg e) ∧
        (s.eng.residue has ≠ [] →
          (t.eng.vat v.toNat).state = .residue ∧ (t.eng.vat v.toNat).active = x.active ∧
          (t.eng.vat v.toNat).culture = some p ∧ t.eng.active = s.eng.active ∧
          ∃ q ∈ t.eng.pend, q.code = 0x10 ∧ q.source = v.toNat)

/-- The load that a CFG has started, while no press is under way, reads the configuration and, where it can be read to its END within 65,536 words and overlaps no other slot, leaves the culture plane LOADED with the plane its words describe: so for every stream of a BEGIN, words and an END in plain memory that its addresses reach. A stream that ends too late, or a word of which cannot be read, leaves it INCOMPLETE with what the words before it have described, the identifier and an address error among it; a first word that cannot be read, or is no BEGIN, and an overlap leave it INCOMPLETE with the plane it had; each makes VAT_FAULT pending. The slot's state and active plane do not change. Without a load, and under a press, nothing changes. A read that needs a page walk is none that fails: the load waits for it. (R255) -/
def Obligations.PlaneLoad : Prop :=
  ∀ (s : State) (v : BitVec 3),
    let x := s.eng.vat v.toNat
    let same (t : State) : Prop := t.cps = s.cps ∧ (t.eng.vat v.toNat).state = x.state ∧
      (t.eng.vat v.toNat).active = x.active ∧ (t.eng.vat v.toNat).loadAt = none
    let failed (t : State) (p : Option Plane) : Prop := same t ∧ (t.eng.vat v.toNat).cst = .incomplete ∧
      (t.eng.vat v.toNat).culture = p ∧ ∃ q ∈ t.eng.pend, q.code = 0x10 ∧ q.source = v.toNat
    (∀ k, x.loadAt = some k → s.eng.pressing = false →
      (∀ r w1, s.w.commandRead s.cur (addrVat v.toNat) uCP k.asid k.ptroot k.priv k.xoff k.x 4 = (.error r, w1) → w1.miss = none →
        ∃ t, exec (.culturePlaneLoad v) s = .next t ∧ failed t x.culture) ∧
      (∀ bs w1, s.w.commandRead s.cur (addrVat v.toNat) uCP k.asid k.ptroot k.priv k.xoff k.x 4 = (.ok bs, w1) →
        let b := BitVec.ofNat 32 (leNat bs)
        let g := w1.eng s.cur
        (cfgAddr b ≠ 0x3FC → ∃ t, exec (.culturePlaneLoad v) s = .next t ∧ failed t x.culture) ∧
        (cfgAddr b = 0x3FC → ∀ e, g.loadOverlap v.toNat (cfgValue b) = some e →
          ∃ t, exec (.culturePlaneLoad v) s = .next t ∧ failed t x.culture ∧
            (t.eng.vat v.toNat).faddr = BitVec.ofNat 10 e) ∧
        (cfgAddr b = 0x3FC → g.loadOverlap v.toNat (cfgValue b) = none → ∀ ended l w2,
          (w1.setEng s.cur (Load.begin g b k.x).g).loadWords s.cur v.toNat k 65535 (k.x + 4) (Load.begin g b k.x) =
            (ended, l, w2) → w2.miss = none →
          ∃ t, exec (.culturePlaneLoad v) s = .next t ∧ t.cps = s.cps ∧
            (t.eng.vat v.toNat).cst = (if ended then .loaded else .incomplete) ∧
            (t.eng.vat v.toNat).culture = some l.p ∧ (t.eng.vat v.toNat).loadAt = none ∧
            (t.eng.vat v.toNat).state = (w2.eng s.cur |>.vat v.toNat).state ∧
            (t.eng.vat v.toNat).addrError = ((w2.eng s.cur |>.vat v.toNat).addrError || l.addrError) ∧
            (ended = false → ∃ q ∈ t.eng.pend, q.code = 0x10 ∧ q.source = v.toNat))) ∧
      (∀ b ws z (at' : Nat → Nat), ws.length + 2 ≤ 65536 → cfgAddr b = 0x3FC → (∀ y ∈ ws, cfgAddr y ≠ 0x3FD) →
        cfgAddr z = 0x3FD → s.eng.loadOverlap v.toNat (cfgValue b) = none →
        (∀ i y, (b :: (ws ++ [z]))[i]? = some y →
          s.w.commandXlat s.cur (addrVat v.toNat) k.asid k.ptroot k.priv k.xoff .read (k.x + BitVec.ofNat 64 (4 * i)) =
            (.ok ⟨false, 0, at' i⟩, s.w) ∧
          PlainAt s ⟨false, 0, at' i⟩ ∧ SoundAt s (at' i) 4 ∧ memNat s.w.mem (at' i) 4 = y.toNat) →
        let l := (ws.foldl (fun l y => l.word v.toNat y) (Load.begin s.eng b k.x)).finish z
        ∃ t, exec (.culturePlaneLoad v) s = .next t ∧ same t ∧ t.w.mem = s.w.mem ∧
          (∀ c, c ≠ s.cur → t.w.eng c = s.w.eng c) ∧ (t.eng.vat v.toNat).cst = .loaded ∧
          (t.eng.vat v.toNat).culture = some l.p ∧ t.eng.culture = l.g.culture ∧ t.eng.agCulture = l.g.agCulture ∧
          t.eng.mxCulture = l.g.mxCulture ∧ t.eng.epCulture = l.g.epCulture ∧ t.eng.active = s.eng.active)) ∧
    (x.loadAt = none ∨ s.eng.pressing = true → exec (.culturePlaneLoad v) s = .next s)

/-- A token in flight whose cycle has come, with no token before it on its link and no BLOCKED unit at the end or on its way, is delivered: it is no longer in flight, and a well-formed one that is no SCALE stands unchanged behind the tokens of its endpoint; a well-formed press marker takes the place of the marker there; one whose parity check has failed on the link stands there as an ERR token of class MEMORY with P (R448). No other endpoint changes. A token that has not arrived, or stands behind another of its link, stays. (R165, R180, R364) -/
def Obligations.TokenDelivery : Prop :=
  ∀ (s : State) (n : Nat) (f : Flight), s.eng.flights[n]? = some f →
    let due := f.arrive ≤ s.w.cycle ∧ s.eng.blockedAt f.dest = false ∧ s.eng.heldUp f = false ∧ ∀ h ∈ s.eng.flights.take n, h.dest ≠ f.dest
    (due → ∃ t, exec (.tokenDelivery n) s = .next t ∧ t.cps = s.cps ∧ t.w.mem = s.w.mem ∧
      (∀ c, c ≠ s.cur → t.w.eng c = s.w.eng c) ∧
      (f.spoilt = false → f.tok.kind = kPRESS → malformed f.tok = none → (t.eng.pool f.dest).marker = some f.tok ∧
        (t.eng.pool f.dest).toks = (s.eng.pool f.dest).toks) ∧
      (f.tok.kind ≠ kPRESS → t.eng.flights = s.eng.flights.take n ++ s.eng.flights.drop (n + 1)) ∧
      (f.spoilt = false → f.tok.kind ≠ kPRESS → f.tok.kind ≠ kSCALE → malformed f.tok = none → cfgMalformed f.tok = false →
        (t.eng.pool f.dest).toks = (s.eng.pool f.dest).toks ++ [f.tok]) ∧
      (f.spoilt = true → ∃ y, (t.eng.pool f.dest).toks = (s.eng.pool f.dest).toks ++ [y] ∧ y.kind = kERR ∧ y.p = true ∧
        y.level = clsMEMORY ∧ y.r = f.tok.r) ∧
      (f.tok.kind ≠ kPRESS → ∀ d, d.key ≠ f.dest.key → t.eng.pool d = s.eng.pool d)) ∧
    (¬ due → exec (.tokenDelivery n) s = .next s)

/-- A branch whose counter has reached 16,384 cycles in which it alone was refused is reported once: the branch is marked, and MCAST_STALL is pending for its vat or follows the controller's earlier events. Unless the policy detaches branches, every token stays where it is. A port that leads to another tag, or has no such branch, changes nothing. (R398, R399) -/
def Obligations.MulticastStall : Prop :=
  ∀ (s : State) (e : BitVec 7) (port tag : BitVec 3) (v h k : Nat) (d : Endpoint),
    s.eng.vatOf e.toNat = some v → linkOf s.eng.cfg e.toNat port.toNat = some (d, h) →
    (d.tag ≠ tag.toNat → exec (.mcastStall e port tag) s = .next s) ∧
    ((∀ k, k < 6 → ((s.eng.elem e.toNat).stage k).told.getLsbD port.toNat = true ∨
        Tbl.get ((s.eng.elem e.toNat).stage k).branch 0 port.toNat < 16384) → exec (.mcastStall e port tag) s = .next s) ∧
    (d.tag = tag.toNat → k < 6 → ((s.eng.elem e.toNat).stage k).told.getLsbD port.toNat = false →
      16384 ≤ Tbl.get ((s.eng.elem e.toNat).stage k).branch 0 port.toNat →
      (∀ j, j < k → ((s.eng.elem e.toNat).stage j).told.getLsbD port.toNat = true ∨
        Tbl.get ((s.eng.elem e.toNat).stage j).branch 0 port.toNat < 16384) →
      ∃ t, exec (.mcastStall e port tag) s = .next t ∧ t.cps = s.cps ∧ t.w.mem = s.w.mem ∧
        ((t.eng.elem e.toNat).stage k).told.getLsbD port.toNat = true ∧
        (∃ q, (q ∈ t.eng.pend ∨ ∃ r ∈ t.eng.reports, r.cause = some q) ∧ q.code = 0x15 ∧ q.source = v) ∧
        (s.eng.mcpol.getLsbD 0 = false → t.eng.pools = s.eng.pools ∧ t.eng.flights = s.eng.flights))

/-- A running READ stream of one-lane tokens that owes nothing reads the element its levels give, at its address and inside its bounds: its position and its posted bytes move by one element, and the token of the word is sent or owed; an element outside reads as the padding word without an access. A running WRITE stream that finds a DATA token of one lane, and waits for no ring, writes that lane at the element's address, and no other byte of memory changes; the token is taken. A stream that is not running, has saved or runs another mode changes nothing. That POSTED counts an element as it is read or written, one of padding too, is deduced (log 27). (R281, R282, R283, R284) -/
def Obligations.StreamReadWrite : Prop :=
  ∀ (s : State) (n : BitVec 5),
    let x := s.eng.stream n.toNat
    let cfg := s.eng.streamCfg n.toNat
    let va := (cfg.elemAt x.base x.pos).1
    let inside := (cfg.elemAt x.base x.pos).2
    let moved (t : State) : Prop := t.cps = s.cps ∧ (t.eng.stream n.toNat).pos = x.pos + 1 ∧
      (t.eng.stream n.toNat).posted = x.posted + 4
    let gives (t : State) (v : BitVec 32) : Prop := ∃ tok rest, tok.kind = kDATA ∧ tok.valid = 1 ∧
      lane tok.data 0 = v ∧
      (((t.eng.stream n.toNat).out = tok :: rest ∧ t.eng.flights = s.eng.flights) ∨
        ((t.eng.stream n.toNat).out = rest ∧ ∃ f, t.eng.flights = s.eng.flights ++ [f] ∧ f.tok.data = tok.data ∧
          f.tok.kind = tok.kind ∧ f.tok.valid = tok.valid))
    (x.state ≠ .running ∨ x.saved = true ∨ cfg.modeOf ≠ mREAD → exec (.streamReadToken n) s = .next s) ∧
    (x.state ≠ .running ∨ x.saved = true ∨ cfg.modeOf ≠ mWRITE → exec (.streamWriteToken n) s = .next s) ∧
    (x.state = .running → x.saved = false → cfg.modeOf = mREAD → cfg.per = 1 → x.out = [] → x.buf = [] →
      x.poison = false → x.pressed = false → x.drain = false →
      (∀ pa e, inside = true → s.w.streamXlat s.cur n.toNat false va 4 = .ok pa e → UnitAt s pa →
        s.w.failing pa.addr 4 = none → ∃ t, exec (.streamReadToken n) s = .next t ∧ moved t ∧ t.w.mem = s.w.mem ∧
          gives t (BitVec.ofNat 32 (memNat s.w.mem pa.addr 4))) ∧
      (inside = false → ∃ t, exec (.streamReadToken n) s = .next t ∧ moved t ∧ t.w.mem = s.w.mem ∧
        gives t cfg.pad)) ∧
    (∀ tok rest pa e, x.state = .running → x.saved = false → cfg.modeOf = mWRITE → 1 ≤ cfg.per → x.lane = 0 →
      cfg.reached x = false → (s.eng.pool (.stream n.toNat 0)).toks = tok :: rest → tok.kind = kDATA →
      tok.valid = 1 → s.w.headToken s.cur n.toNat 0 = some tok → inside = true →
      s.w.streamXlat s.cur n.toNat true va 4 = .ok pa e → UnitAt s pa →
      Memory.wf s.w.mem = true →
      ∃ t, exec (.streamWriteToken n) s = .next t ∧ moved t ∧
        (t.eng.pool (.stream n.toNat 0)).toks = rest ∧
        ∀ z, (within pa.addr 4 z → memRead t.w.mem z = byteOf (lane tok.data 0).toNat (z - pa.addr)) ∧
          (¬ within pa.addr 4 z → memRead t.w.mem z = memRead s.w.mem z))

/-- A running GATHER stream of 4-byte rows that owes nothing and finds a DATA token of one coordinate takes it, reads the row at the coordinate's address and sends or owes the token of the row. A running SCATTER stream that finds a DATA token of one coordinate and a DATA token, and waits for no ring, writes the data lane at the coordinate's address, takes both tokens and changes no other byte of memory. A stream that is not running or runs another mode changes nothing. (R282, R284) -/
def Obligations.GatherScatter : Prop :=
  ∀ (s : State) (n : BitVec 5),
    let x := s.eng.stream n.toNat
    let cfg := s.eng.streamCfg n.toNat
    let pool (t : State) (g : Nat) := (t.eng.pool (.stream n.toNat g)).toks
    (x.state ≠ .running ∨ x.saved = true ∨ cfg.modeOf ≠ mGATHER → exec (.gatherToken n) s = .next s) ∧
    (x.state ≠ .running ∨ x.saved = true ∨ cfg.modeOf ≠ mSCATTER → exec (.scatterToken n) s = .next s) ∧
    (∀ tok rest pa e, x.state = .running → x.saved = false → cfg.modeOf = mGATHER → cfg.b64 = false → cfg.size = 4 →
      x.out = [] → x.buf = [] → x.lane = 0 → x.poison = false → x.discard = false → x.pressed = false →
      x.drain = false → x.count = 0 → pool s 0 = tok :: rest → tok.kind = kDATA → tok.valid = 1 →
      (cfg.rowAt x.base (lane tok.data 0)).2 = true →
      s.w.streamXlat s.cur n.toNat false (cfg.rowAt x.base (lane tok.data 0)).1 4 = .ok pa e → UnitAt s pa →
      s.w.failing pa.addr 4 = none →
      ∃ t, exec (.gatherToken n) s = .next t ∧ t.cps = s.cps ∧ t.w.mem = s.w.mem ∧ pool t 0 = rest ∧
        (t.eng.stream n.toNat).pos = x.pos + 1 ∧
        ∃ row, row.kind = kDATA ∧ row.valid = 1 ∧
          lane row.data 0 = BitVec.ofNat 32 (memNat s.w.mem pa.addr 4) ∧
          (((t.eng.stream n.toNat).out = [row] ∧ t.eng.flights = s.eng.flights) ∨
            ((t.eng.stream n.toNat).out = [] ∧ ∃ f, t.eng.flights = s.eng.flights ++ [f] ∧ f.tok.data = row.data ∧
              f.tok.kind = row.kind ∧ f.tok.valid = row.valid))) ∧
    (∀ co d r0 r1 pa e, x.state = .running → x.saved = false → cfg.modeOf = mSCATTER → cfg.b64 = false →
      cfg.size = 4 → x.lane = 0 → x.count = 0 → pool s 1 = co :: r1 → pool s 0 = d :: r0 → co.kind = kDATA →
      co.valid = 1 → d.kind = kDATA → 1 ≤ d.valid.toNat →
      s.w.headToken s.cur n.toNat 1 = some co → s.w.headToken s.cur n.toNat 0 = some d → (cfg.rowAt x.base (lane co.data 0)).2 = true →
      s.w.streamXlat s.cur n.toNat true (cfg.rowAt x.base (lane co.data 0)).1 4 = .ok pa e → UnitAt s pa →
      Memory.wf s.w.mem = true →
      ∃ t, exec (.scatterToken n) s = .next t ∧ t.cps = s.cps ∧ pool t 0 = r0 ∧ pool t 1 = r1 ∧
        (t.eng.stream n.toNat).pos = x.pos + 1 ∧
        ∀ z, (within pa.addr 4 z → memRead t.w.mem z = byteOf (lane d.data 0).toNat (z - pa.addr)) ∧
          (¬ within pa.addr 4 z → memRead t.w.mem z = memRead s.w.mem z))

/-- Where the oldest 16 walks under way on a core find table entries, each goes on to the next level in the table its entry names, and the others stand. A walk that stands alone and finds a leaf which permits the access that its requester makes in its mode puts the translation in the TLB, in front, the oldest of a full set of 8 leaving it; one that finds anything else is refused with the reason, and nothing is cached: a stream is FAULTED and reported, while the control processor, or the unit that reads for a command, finds the refusal at its next try. The result of a walk whose page a TLBI has named while it ran is discarded: it is neither cached nor reported. Memory is as before. Where no walk is under way nothing changes. Which set a page has, and that the oldest leaves it, rest on log 14 (DESIGN CHOICE); that an event reads one entry for each of 16 walks on log 27 (DESIGN CHOICE). (R299, R300, R301, R302, R360) -/
def Obligations.PageWalk : Prop :=
  ∀ s : State,
    let reads (k : Walk) : WalkStep := walkStep s.w.mem k.asid k.va.toNat k.level k.base
    let live := s.eng.walks.filter (fun k => k.refused.isNone)
    (live = [] → exec .pageWalk s = .next s) ∧
    ((live.map (·.who)).Nodup → (∀ k ∈ live.take 16, ∃ b, reads k = .table b) →
      ∃ t, exec .pageWalk s = .next t ∧ t.cps = s.cps ∧ t.w.mem = s.w.mem ∧ t.eng.tlb = s.eng.tlb ∧
        t.eng.walks.length = s.eng.walks.length ∧
        ∀ (i : Nat) (k : Walk), s.eng.walks[i]? = some k →
          (k ∉ live.take 16 → t.eng.walks[i]? = some k) ∧
          ∀ b, k ∈ live.take 16 → reads k = .table b →
            t.eng.walks[i]? = some { k with level := k.level + 1, base := b }) ∧
    (∀ k, s.eng.walks = [k] → k.refused = none →
      let leaves (t : State) : Prop := exec .pageWalk s = .next t ∧ t.cps = s.cps ∧ t.w.mem = s.w.mem
      let fails (r : Refused) : Prop := (reads k = .refused r ∧ k.discarded k.page = false) ∨
        ∃ e, reads k = .leaf e ∧ e.permits k.priv k.access = false ∧ k.discarded e = false ∧ r = ⟨1, e.level⟩
      (∀ e, reads k = .leaf e → e.permits k.priv k.access = true → k.discarded e = false →
        ∃ t, leaves t ∧ t.eng.walks = [] ∧ t.eng.tlb = e :: keepWays e.set 7 s.eng.tlb ∧ t.eng.streams = s.eng.streams) ∧
      (((∃ e, reads k = .leaf e ∧ k.discarded e = true) ∨ ((∃ r, reads k = .refused r) ∧ k.discarded k.page = true)) →
        ∃ t, leaves t ∧ t.eng.walks = [] ∧ t.eng.tlb = s.eng.tlb ∧ t.eng.streams = s.eng.streams ∧ t.eng.pend = s.eng.pend) ∧
      (∀ n r, k.who = .stream n → fails r →
        ∃ t, leaves t ∧ t.eng.walks = [] ∧ t.eng.tlb = s.eng.tlb ∧ (t.eng.stream n).state = .faulted ∧
          (t.eng.stream n).reason = r.reason ∧ ∃ q ∈ t.eng.pend, q.code = 0x11 ∧ q.source = n) ∧
      (∀ r, (k.who = .cp ∨ ∃ u, k.who = Walker.unit u) → fails r →
        ∃ t, leaves t ∧ t.eng.walks = [{ k with refused := some r }] ∧ t.eng.tlb = s.eng.tlb ∧ t.eng.pend = s.eng.pend))

/-- A walk that finds table entries at levels 1 to 3 and, at level 4, a leaf of a 64 KiB page, each table lying in DRAM of the package, ends with the translation of the page: its base is the leaf's, its permissions are the leaf's bits, and it maps an address of the page to the base plus the offset in the page. An invalid first entry is refused as INVALID at level 1, and a first table outside DRAM with BUS at level 1. (R138, R298, R299, R301) -/
def Obligations.WalkOfTable : Prop :=
  ∀ (m : List Host.Cell) (asid : BitVec 16) (root : Word) (va : Nat),
    let base (e : Word) : Nat := e.toNat / 2 ^ 13 % 2 ^ 37 * 8192
    let idx (l : Nat) : Nat := va / 2 ^ (16 + 10 * (4 - l)) % 1024
    let t1 := base root
    let e1 := memWord m (t1 + 8 * idx 1)
    let e2 := memWord m (base e1 + 8 * idx 2)
    let e3 := memWord m (base e2 + 8 * idx 3)
    let e4 := memWord m (base e3 + 8 * idx 4)
    let dram (a : Nat) : Prop := ∃ c, regionOf a = .dram c
    let table (e : Word) : Prop := e.toNat % 2 ^ 13 = 1 ∧ e.toNat < 2 ^ 50
    (dram t1 → table e1 → dram (base e1) → table e2 → dram (base e2) → table e3 → dram (base e3) →
      e4.getLsbD 0 = true → e4.getLsbD 1 = true → e4.extractLsb' 7 5 = 0 → e4.toNat < 2 ^ 50 → base e4 % 2 ^ 16 = 0 →
      e4.getLsbD 12 = false →
      ∃ e, walk m asid root va = .ok e ∧ e.bits = 16 ∧ e.base = base e4 ∧ e.remote = false ∧ e.asid = asid ∧
        e.global = e4.getLsbD 6 ∧ e.u = e4.getLsbD 5 ∧ e.x = e4.getLsbD 4 ∧ e.w = e4.getLsbD 3 ∧
        e.rd = e4.getLsbD 2 ∧ e.level = 4 ∧
        ∀ self x, x / 2 ^ 16 = va / 2 ^ 16 → e.serves asid x = true ∧
          (e.phys self x).addr = base e4 + x % 2 ^ 16) ∧
    (dram t1 → e1.getLsbD 0 = false → walk m asid root va = .error ⟨0, 1⟩) ∧
    (¬ dram t1 → walk m asid root va = .error ⟨5, 1⟩)

/-- COPY_FIRE puts the first trigger of a queue that no stream feeds into the lowest free place, under the record that it was taken under where a QARM or QDIS has come since in its cycle, else under that of the queue, armed before this cycle: lane SL times 64 is added to SRC, lane DL times 64 to DST, lane LL replaces LEN. COPY_BEAT of a running copy from memory to memory writes the bytes up to the next 64-byte boundary of either address behind DST (log 27, DEDUCED: R287 bounds a beat by it), and no other byte of memory changes. COPY_COMPLETE of a copy with a completion word, under a translation that permits to read and to write it, adds 1 for DONE, 2^32 for ERROR and 2^48 for CANCELLED to it, changes no other byte and frees the place. Control processors stand as they were; a free place does nothing. (R286, R287, R288, R289) -/
def Obligations.CopyBeats : Prop :=
  ∀ (s : State) (q : BitVec 3) (p : BitVec 6),
    let queue (t : State) := t.eng.queue q.toNat
    let place (t : State) := t.eng.copy p.toNat
    (∀ sl tr rest r pl, (∀ n, n < 32 → s.w.copyStreamLive s.cur n = false ∨ (s.eng.streamCfg n).cq ≠ q) →
      s.eng.pressing = false → (queue s).triggers = tr :: rest →
      (tr.under = some r ∨ (tr.under = none ∧ (queue s).slot = some sl ∧ (queue s).since ≠ some s.w.cycle ∧
        Tbl.find s.eng.templates sl = some r)) → s.eng.freePlace = some pl →
      ∃ t x, exec (.copyFire q) s = .next t ∧ UnitsOnly s t ∧ (queue t).triggers = rest ∧ (queue t).slot = (queue s).slot ∧
        t.eng.copy pl = some x ∧ x.state = .running ∧ x.written = 0 ∧ x.from' = tr.from' ∧
        x.crec.src = (if r.sl < 16 then r.src + BitVec.ofInt 64 ((lane tr.data r.sl).toInt * 64) else r.src) ∧
        x.crec.dst = (if r.dl < 16 then r.dst + BitVec.ofInt 64 ((lane tr.data r.dl).toInt * 64) else r.dst) ∧
        x.crec.len = (if r.ll < 16 then (lane tr.data r.ll).toNat else r.len) ∧ x.crec.rows = r.rows ∧
        x.crec.cw = r.cw ∧ (x.crec.fieldsOk = false → x.status = some 2) ∧
        (x.crec.fieldsOk = true → r.ok = true → r.lport = 0 → r.dch = false → x.crec.len ≠ 0 → x.status = none)) ∧
    (place s = none → exec (.copyBeat p) s = .next s ∧ exec (.copyComplete p) s = .next s) ∧
    (∀ x pa pb e f, place s = some x → x.state = .running → x.status = none → x.crec.dch = false →
      s.w.unitTranslate s.cur (.copySrc p.toNat) x.srcEntry x.crec.asid x.crec.ptroot .read x.srcAddr = .ok pa e →
      s.w.unitTranslate s.cur (.copyDst p.toNat) x.dstEntry x.crec.asid x.crec.ptroot .write x.dstAddr = .ok pb f →
      UnitAt s pa → UnitAt s pb → s.w.failing pa.addr 64 = none → Memory.wf s.w.mem = true →
      let n := min (x.crec.len - x.off) (min (64 - x.srcAddr.toNat % 64) (64 - x.dstAddr.toNat % 64))
      ∃ t y, exec (.copyBeat p) s = .next t ∧ t.cps = s.cps ∧ t.schedule = s.schedule ∧ t.cur = s.cur ∧
        place t = some y ∧ y.written = x.written + n ∧ y.crec = x.crec ∧
        (x.off + n < x.crec.len → y.row = x.row ∧ y.off = x.off + n ∧ y.status = none) ∧
        (x.crec.len ≤ x.off + n → y.row = x.row + 1 ∧ y.off = 0 ∧ (y.status = some 0 ↔ x.crec.rows ≤ x.row + 1)) ∧
        ∀ z, (within pb.addr n z → memRead t.w.mem z = memRead s.w.mem (pa.addr + (z - pb.addr))) ∧
          (¬ within pb.addr n z → memRead t.w.mem z = memRead s.w.mem z)) ∧
    (∀ x st pa e, place s = some x → x.state ≠ .faulted → x.status = some st → x.from' = none → x.crec.lport = 0 →
      x.cwDone = false → x.crec.cw ≠ 0 → x.crec.cw.toNat % 8 = 0 →
      s.w.unitTranslate s.cur (.copyDst p.toNat) x.dstEntry x.crec.asid x.crec.ptroot .readWrite x.crec.cw = .ok pa e →
      UnitAt s pa → s.w.failing pa.addr 8 = none → Memory.wf s.w.mem = true →
      let add : Nat := if st = 0 then 1 else if st = 2 then 2 ^ 32 else 2 ^ 48
      ∃ t, exec (.copyComplete p) s = .next t ∧ t.cps = s.cps ∧ t.schedule = s.schedule ∧ t.cur = s.cur ∧ place t = none ∧
        ∀ z, (within pa.addr 8 z →
            memRead t.w.mem z = byteOf ((memNat s.w.mem pa.addr 8 + add) % 2 ^ 64) (z - pa.addr)) ∧
          (¬ within pa.addr 8 z → memRead t.w.mem z = memRead s.w.mem z))

/-- The value 1 written to the control word of a FAULTED stream or copy, by a host or by privileged code of the owning partition or of partition 0, makes it run again with its refused access asked for afresh, and answers OK. A unit that is not FAULTED answers BUSY, an agent of another partition or of unprivileged code PERM, a fenced core DECODE, and then nothing else changes. Who may write, partition 0 among them, and PERM ahead of every other answer are deduced (logs 21, 33). (R141, R302, R303, R438, R450) -/
def Obligations.UnitRetries : Prop :=
  ∀ (s : State) (n : BitVec 5) (p : BitVec 6) (a : Agent),
    let owner : Prop := a = .host ∨ ∃ k, a = .core k ∧ (cpOf s.cps k.toNat).prv = true ∧
      ((s.w.eng k.toNat).partid = 0 ∨ s.eng.partid = (s.w.eng k.toNat).partid)
    let x := s.eng.stream n.toNat
    let only (r : BitVec 2) : State := { s with w := { s.w with resp := r } }
    (s.eng.fenced = true → exec (.streamRetry n a) s = .next (only 1) ∧ exec (.copyRetry p a) s = .next (only 1)) ∧
    (s.eng.fenced = false → ¬ owner →
      exec (.streamRetry n a) s = .next (only 2) ∧ exec (.copyRetry p a) s = .next (only 2)) ∧
    (s.eng.fenced = false → owner →
      (x.state ≠ .faulted → exec (.streamRetry n a) s = .next (only 3)) ∧
      (s.eng.copy p.toNat = none → exec (.copyRetry p a) s = .next (only 3)) ∧
      (∀ r, x.state = .faulted → x.refused = some r → r.va.extractLsb' 56 8 = 0 →
        ∃ t, exec (.streamRetry n a) s = .next t ∧ UnitsOnly s t ∧ t.w.resp = 0 ∧
          (t.eng.stream n.toNat).state = .running ∧ (t.eng.stream n.toNat).pos = x.pos ∧
          (∀ m, m ≠ n.toNat → t.eng.stream m = s.eng.stream m) ∧
          t.eng.walks = (s.eng.askWalk (.asked (.stream n.toNat) x.asid x.ptroot r.va false
            (if r.write then .write else .read) s.w.cycle)).walks) ∧
      (∀ y r, s.eng.copy p.toNat = some y → y.state = .faulted → y.refused = some r → r.va.extractLsb' 56 8 = 0 →
        ∃ t y', exec (.copyRetry p a) s = .next t ∧ UnitsOnly s t ∧ t.w.resp = 0 ∧ t.eng.copy p.toNat = some y' ∧
          y'.state = .running ∧ y'.crec = y.crec ∧ y'.row = y.row ∧ y'.off = y.off ∧
          t.eng.walks = (s.eng.askWalk (.asked (if r.write then .copyDst p.toNat else .copySrc p.toNat) y.crec.asid
            y.crec.ptroot r.va false (if r.write then .write else .read) s.w.cycle)).walks))

/-- KEYST_KEY on a key of one token, for a head with one table whose entry at the key's signature is unused: the token is written at base + 64n, the next hoop becomes COUNT 1 with the index and the entry FIRST = LAST = the hoop, LEN 1; NEXT and INSERTED advance by 1, n by 1, the token is taken, and no other byte changes. BGATH_QUERY on a query whose entry names one hoop of up to 15 indices answers the indices at or below its position in ascending order, and an EOD of LEVEL 1; memory is as before. No other insertion stands half done, and no stream of a higher number has asked for a hoop in this cycle. All addresses are served by the stream's own translation. A stream that is not running, or in another mode, does nothing. (R307, R312, R313, R319, R320) -/
def Obligations.KeysAndQueries : Prop :=
  ∀ (s : State) (n : BitVec 5),
    let x := s.eng.stream n.toNat
    let cfg := s.eng.streamCfg n.toNat
    let h := s.eng.hash
    let d := h.keyLen cfg.head
    let y (t : State) := t.eng.stream n.toNat
    let fmt := ltagFmt (cfg.tag 0)
    (x.state ≠ .running ∨ x.saved = true ∨ cfg.modeOf ≠ mKEYST → exec (.keystKey n) s = .next s) ∧
    (x.state ≠ .running ∨ x.saved = true ∨ cfg.modeOf ≠ mBGATH → exec (.bgathQuery n) s = .next s) ∧
    (∀ e i tb tok rest, x.state = .running → x.saved = false → x.entry = some e → s.eng.walks = [] →
      h.tablesOf cfg.head = [(i, tb)] →
      (cfg.modeOf = mKEYST → keyTokens d fmt = 1 → x.toks = [] → x.lane = 0 → x.table = 0 → x.hoop = 0 → x.count = 0 →
        (s.eng.pool (.stream n.toNat 0)).toks = tok :: rest → tok.kind = kDATA → tok.p = false →
        s.w.headToken s.cur n.toNat 0 = some tok → s.eng.insertHeld n.toNat = false →
        h.outOfTurn s.w.cycle n.toNat = false → e.permits false .read = true → e.permits false .write = true → 1 ≤ h.next → h.next < h.slots →
        h.slots ≤ 2 ^ 27 → Memory.wf s.w.mem = true →
        let key := x.base + BitVec.ofNat 64 (64 * x.pos)
        let entry := tb.base + BitVec.ofNat 64 (8 * signature (h.seed cfg.head) i tb.m ((keyElems fmt x.scale [tok]).take d))
        let hoop := h.pool + BitVec.ofNat 64 (64 * h.next)
        let idx := (cfg.ioff + x.pos) % 2 ^ 32
        let k := s.heldAddr e key
        let b := s.heldAddr e entry
        let l := s.heldAddr e hoop
        HeldAt s x.asid e key 64 → HeldAt s x.asid e entry 8 → HeldAt s x.asid e hoop 64 →
        (∀ z, ¬ (within k 64 z ∧ within b 8 z) ∧ ¬ (within k 64 z ∧ within l 64 z) ∧ ¬ (within b 8 z ∧ within l 64 z)) →
        memNat s.w.mem b 8 = 0 →
        ∃ t tb', exec (.keystKey n) s = .next t ∧ t.cps = s.cps ∧ (y t).pos = x.pos + 1 ∧ (y t).errcnt = x.errcnt ∧
          (t.eng.pool (.stream n.toNat 0)).toks = rest ∧ t.eng.hash.next = h.next + 1 ∧
          t.eng.hash.table cfg.head i = some tb' ∧ tb'.inserted = tb.inserted + 1 ∧ tb'.lost = tb.lost ∧
          ∀ z, (within k 64 z → memRead t.w.mem z = byteOf tok.data.toNat (z - k)) ∧
            (within l 64 z → memRead t.w.mem z = byteOf (2 ^ 27 + idx * 2 ^ 32) (z - l)) ∧
            (within b 8 z → memRead t.w.mem z = byteOf (2 ^ 55 + h.next * 2 ^ 27 + h.next) (z - b)) ∧
            (¬ within k 64 z → ¬ within l 64 z → ¬ within b 8 z → memRead t.w.mem z = memRead s.w.mem z)) ∧
      (cfg.modeOf = mBGATH → keyTokens d cfg.qfmt = 1 → x.out = [] → x.dense = none → x.held = none →
        x.pressed = false → x.pos < x.count → e.permits false .read = true → tb.limit = 0 → 15 ≤ cfg.kmax →
        let query := x.base + BitVec.ofNat 64 (64 * cfg.recStride * x.pos)
        let q : Token := { plainToken kDATA with valid := 16, data := BitVec.ofNat 512 (memNat s.w.mem (s.heldAddr e query) 64) }
        let entry := tb.base + BitVec.ofNat 64 (8 * signature (h.seed cfg.head) i tb.m ((keyElems cfg.qfmt none [q]).take d))
        HeldAt s x.asid e query 64 → HeldAt s x.asid e (query + 64) 4 → HeldAt s x.asid e entry 8 →
        ∀ f c, memNat s.w.mem (s.heldAddr e entry) 8 = f → 1 ≤ f → f < h.slots → f < 2 ^ 27 → c ≤ 15 →
        let hoop := h.pool + BitVec.ofNat 64 (64 * f)
        (∀ j, j ≤ c → HeldAt s x.asid e (hoop + BitVec.ofNat 64 (4 * j)) 4) →
        memNat s.w.mem (s.heldAddr e hoop) 4 = c * 2 ^ 27 →
        let index (j : Nat) : Nat := memNat s.w.mem (s.heldAddr e (hoop + BitVec.ofNat 64 (4 * j))) 4
        let pos := memNat s.w.mem (s.heldAddr e (query + 64)) 4
        ∃ t toks is, exec (.bgathQuery n) s = .next t ∧ t.cps = s.cps ∧ t.w.mem = s.w.mem ∧ (y t).pos = x.pos + 1 ∧
          (((y t).out = toks ∧ t.eng.flights = s.eng.flights) ∨
            ((y t).out = toks.tail ∧ ∃ f tk, toks.head? = some tk ∧ t.eng.flights = s.eng.flights ++ [f] ∧
              f.tok.data = tk.data ∧ f.tok.kind = tk.kind)) ∧ is.Pairwise (· < ·) ∧
          (∀ v, v ∈ is ↔ v ≤ pos ∧ ∃ j, 1 ≤ j ∧ j ≤ c ∧ index j = v) ∧
          (is = [] → toks = [{ plainToken kEOD with level := 1 }]) ∧
          (is ≠ [] → toks = [{ plainToken kDATA with
            valid := BitVec.ofNat 5 is.length, data := payloadOf (is.map (BitVec.ofNat 32)) },
            { plainToken kEOD with level := 1 }])))

/-- A running node of a live vat that finds a clean DATA token of its own format takes it: on w, while the load expects tokens and the buffer has a line, into the weight buffer, lanes at or above VALID as zero, a token of zeros taking no line; on m, while metadata is due, into the masks; on a0, before the EOS of the section, while the rows of the next tile are not complete and no ring holds the node up, its elements in order behind the rows. The pool keeps the rest. A node that does not run, or is pressed, takes nothing. (R377, R382, R383, R384) -/
def Obligations.MatrixInputs : Prop :=
  ∀ (s : State) (n : BitVec 2),
    let x := s.eng.mxn n.toNat
    let cfg := s.eng.mxCfg n.toNat
    let q (t : State) (p : Nat) := t.eng.pool (.matrix n.toNat p)
    let y (t : State) := t.eng.mxn n.toNat
    (s.w.nodeLive s.cur n.toNat = false ∨ x.pressed = true →
      exec (.mxWeightToken n) s = .next s ∧ exec (.mxMetadataToken n) s = .next s ∧ exec (.mxAToken n) s = .next s) ∧
    (∀ tok rest, s.w.nodeLive s.cur n.toNat = true → x.pressed = false → tok.kind = kDATA → tok.p = false →
      ((q s 0).toks = tok :: rest → (q s 0).taken = 0 → (q s 0).fmt = cfg.fmt → x.left ≠ 0 → x.used cfg < 32768 →
        ∃ t k, exec (.mxWeightToken n) s = .next t ∧ UnitsOnly s t ∧ (q t 0).toks = rest ∧ (y t).left = x.left - 1 ∧
          (y t).weights = x.weights ++ [k] ∧ k.kind = kDATA ∧ (y t).wPoison = x.wPoison ∧
          (∀ l, l < 16 → lane k.data l = if l < tok.valid.toNat then lane tok.data l else 0) ∧
          (y t).lines = x.lines + (if k.data = 0 then 0 else 1)) ∧
      ((q s 3).toks = tok :: rest → (q s 3).taken = 0 → x.wantsMask cfg = true →
        x.lines + ((x.masks.length + 1) * (16 * perLane cfg.fmt) + 511) / 512 ≤ 32768 →
        ∃ t k, exec (.mxMetadataToken n) s = .next t ∧ UnitsOnly s t ∧ (q t 3).toks = rest ∧
          (y t).masks = x.masks ++ [k] ∧ (y t).wPoison = x.wPoison ∧ (y t).lines = x.lines ∧
          ∀ l, l < 16 → lane k l = if l < tok.valid.toNat then lane tok.data l else 0) ∧
      ((q s 1).toks = tok :: rest → (q s 1).taken = 0 → (q s 1).fmt = cfg.fmt → (q s 1).marker = none →
        (q s 2).marker = none → s.eng.linked (.matrix n.toNat 2) = false → x.over cfg = false →
        x.aEnded = false → s.eng.edgeHolds (addrMatrix n.toNat) (sinkMatrix n.toNat) (some tok) = false →
        x.a.length < cfg.rows * cfg.klen →
        ∃ t es, exec (.mxAToken n) s = .next t ∧ UnitsOnly s t ∧ (q t 1).toks = rest ∧ (y t).a = x.a ++ es ∧
          (y t).aTaken = x.aTaken + 1 ∧ es.map (·.pat) = tokElems cfg.fmt tok.data tok.valid.toNat ∧
          (y t).tile = x.tile))

/-- MX_TILE of a section with unscaled i8 or i4 operands, without ACCIN, whose weights and rows are complete: every value of the tile's accumulator is the sum over K of A[r][k] times B[k][c], modulo 2^48; the rows are used up, the tile goes out behind the earlier ones, the other accumulator is as it was. MX_EPILOGUE_TOKEN under ST with i32 output stores the saturated values of the next token at SB + (t ROWS + r) SSTR + 64 i and moves on, changing no other byte; a token owed on the output leaves on the link, before the grid begins its cycle, when its end has a reserved slot; the tile it belongs to moves on with the last of the tokens of its step. A node that does not run does nothing. (R383, R387, R388, R389, R391) -/
def Obligations.MatrixTiles : Prop :=
  ∀ (s : State) (n : BitVec 2),
    let x := s.eng.mxn n.toNat
    let cfg := s.eng.mxCfg n.toNat
    let y (t : State) := t.eng.mxn n.toNat
    (s.w.nodeLive s.cur n.toNat = false →
      exec (.mxTile n) s = .next s ∧ exec (.mxEpilogueToken n) s = .next s) ∧
    (s.w.nodeLive s.cur n.toNat = true →
      let K := cfg.klen
      let bw := weightElems cfg x.weights none
      let valA (r k : Nat) : Int := patInt (elemBits cfg.fmt) ((x.a[r * K + k]?.map (·.pat)).getD 0)
      let valB (c k : Nat) : Int := patInt (elemBits cfg.fmt) ((bw[c * K + k]?.map (·.pat)).getD 0)
      (cfg.isInt = true → cfg.sparse = false → cfg.accin = false → 1 ≤ K → x.over cfg = false → x.left = 0 →
        x.outs.length < 2 → cfg.rows * K ≤ x.a.length → K * cfg.cols ≤ bw.length →
        ∃ t o, exec (.mxTile n) s = .next t ∧ UnitsOnly s t ∧ (y t).a = x.a.drop (cfg.rows * K) ∧
          (y t).tile = x.tile + 1 ∧ (y t).outs = x.outs ++ [o] ∧ o.tile = x.tile ∧ o.rows = cfg.rows ∧ o.row = 0 ∧
          o.tok = 0 ∧
          ∀ k : Fin 2,
            (k.val = ((if cfg.tsel then 1 else 0) + x.tile) % 2 → ∀ r c, r < cfg.rows → c < cfg.cols →
              Tbl.get ((y t).tiles.get k).vals 0 (128 * r + c) =
                BitVec.ofInt 48 (((List.range K).map (fun j => valA r j * valB c j)).sum)) ∧
            (k.val ≠ ((if cfg.tsel then 1 else 0) + x.tile) % 2 → (y t).tiles.get k = x.tiles.get k)) ∧
      (∀ o more v pa e, x.out = [] → x.outs = o :: more → cfg.epi = eST → cfg.outFmt = 0 →
        s.eng.vatOf (addrMatrix n.toNat) = some v → 16 * o.tok < cfg.cols →
        let cnt := min 16 (cfg.cols - 16 * o.tok)
        let va := cfg.base +
          BitVec.ofInt 64 (((o.tile * cfg.rows + o.row : Nat) : Int) * cfg.stride.toInt + (64 * o.tok : Nat))
        let acc (k : Fin 2) (j : Nat) : Int := (Tbl.get (x.tiles.get k).vals 0 (128 * o.row + (16 * o.tok + j))).toInt
        s.w.unitTranslate s.cur (.node n.toNat) x.entry (s.eng.vat v).asid (s.eng.vat v).ptroot .write va = .ok pa e →
        va.toNat % 64 + 4 * cnt ≤ 64 → UnitAt s pa → Memory.wf s.w.mem = true →
        ∃ t, exec (.mxEpilogueToken n) s = .next t ∧ t.cps = s.cps ∧ t.schedule = s.schedule ∧ t.cur = s.cur ∧
          (o.tok + 1 < (cfg.cols + 15) / 16 → (y t).outs = { o with tok := o.tok + 1 } :: more) ∧
          ((cfg.cols + 15) / 16 ≤ o.tok + 1 → o.row + 1 < o.rows →
            (y t).outs = { o with row := o.row + 1, tok := 0 } :: more) ∧
          ((cfg.cols + 15) / 16 ≤ o.tok + 1 → o.rows ≤ o.row + 1 → (y t).outs = more) ∧
          (∀ z, ¬ within pa.addr (4 * cnt) z → memRead t.w.mem z = memRead s.w.mem z) ∧
          ∀ k : Fin 2, k.val = ((if cfg.tsel then 1 else 0) + o.tile) % 2 → ∀ j, j < cnt →
            (memNat t.w.mem (pa.addr + 4 * j) 4 : Int) = (max (-2 ^ 31) (min (2 ^ 31 - 1) (acc k j))) % 2 ^ 32) ∧
      (∀ tok rest d hops, x.out = tok :: rest → matrixLink s.eng.cfg n.toNat = some (d, hops) →
        s.eng.reserveFree d = true → s.w.gridBegun s.cur = false →
        ∃ t f, exec (.mxEpilogueToken n) s = .next t ∧ UnitsOnly s t ∧ t.eng.flights = s.eng.flights ++ [f] ∧
          f.dest = d ∧ f.tok.data = tok.data ∧ f.tok.kind = tok.kind ∧
          (rest ≠ [] → (y t).out = rest ∧ (y t).outs = x.outs) ∧
          (rest = [] → (y t).outs = (x.pop cfg).outs ∧ ((y t).out = [] ∨ (y t).out = [plainToken kEOS]))))

/-- A working egress port sends the head of its pool into the package network: on a windowed path it spends a credit and without one it waits; a token for a core outside the partition is dropped and counted by the guard, the first with GUARD pending. In RED mode a data token behind a CTRL token is judged, when it is taken, by the address that the CTRL token names, and becomes a reduce-store. A working ingress port takes the oldest token that has arrived and puts it on its link, before the grid begins its cycle, when the end has a reserved slot, as an ERR where its parity check has failed; so with a token that a frame brings from another package; one of a foreign partition, or for a fenced core, is counted and dropped. A credit joins the window of the ingress port it comes from, or reaches the egress port of a path to another node. A reduce-store with ROP 0, of this package or from another, adds each valid lane to its word modulo 2^32 and changes no other byte; one waits for an earlier one of its sender to its address. Credits held by the port that a path ends at, the form of frames and credits of other packages rest on log 11, the places of a path on one die on log 29. (R392, R394, R395, R406, R408, R410) -/
def Obligations.EdgePorts : Prop :=
  ∀ (s : State) (p : BitVec 3),
    let cfg := s.eng.epCfg p.toNat
    let x := s.eng.port p.toNat
    let y (t : State) := t.eng.port p.toNat
    let pool (t : State) := (t.eng.pool (.edge p.toNat)).toks
    let credits (t : State) : Nat := ((t.w.eng cfg.dstCore.toNat).port cfg.dstPort.toNat).credits
    let out := s.w.outside s.cur s.eng.node (some cfg.dstCore.toNat)
    let sat (v : BitVec 32) : BitVec 32 := if v = BitVec.allOnes 32 then v else v + 1
    (s.eng.portLive p.toNat = false →
      exec (.epEgressToken p) s = .next s ∧ (s.eng.fenced = false → exec (.epIngressToken p) s = .next s)) ∧
    (∀ tok rest, s.eng.portLive p.toNat = true → cfg.isEgress = true → cfg.red = false → cfg.node s.eng.node = s.eng.node →
      pool s = tok :: rest →
      (out = true → ∃ t, exec (.epEgressToken p) s = .next t ∧ UnitsOnly s t ∧ pool t = rest ∧ t.w.nets = s.w.nets ∧
        (y t).dcnt = sat x.dcnt ∧ (y t).total = sat x.total ∧ (y t).credits = x.credits ∧
        (x.dcnt = 0 → (y t).firstSb = tok.sideband ∧ ∃ q ∈ t.eng.pend, q.code = 0x16 ∧ q.source = p.toNat)) ∧
      (out = false → tok.r = false →
        (s.eng.windowed s.cur p.toNat = true → credits s = 0 → exec (.epEgressToken p) s = .next s) ∧
        ((s.eng.windowed s.cur p.toNat = true ∧ credits s ≠ 0) ∨
            (s.eng.windowed s.cur p.toNat = false ∧
              (s.w.nets.filter (fun n => n.srcCore = s.cur && n.srcPort = p.toNat)).length < 64) →
          ∃ t, exec (.epEgressToken p) s = .next t ∧ t.cps = s.cps ∧ t.w.mem = s.w.mem ∧ pool t = rest ∧
            (∀ c, c ≠ s.cur → c ≠ cfg.dstCore.toNat → t.w.eng c = s.w.eng c) ∧
            credits t = (if s.eng.windowed s.cur p.toNat then credits s - 1 else credits s) ∧ (y t).dcnt = x.dcnt ∧
            ∃ n, t.w.nets = s.w.nets ++ [n] ∧ n.srcCore = s.cur ∧ n.srcPort = p.toNat ∧ n.dstCore = cfg.dstCore.toNat ∧
              n.dstPort = cfg.dstPort.toNat ∧ n.part = s.eng.partid ∧ n.tok = tok))) ∧
    (∀ k tok rest, s.eng.portLive p.toNat = true → cfg.isEgress = true → cfg.red = true → x.ctrl = some k →
      pool s = tok :: rest → tok.kind = kDATA →
      let a : Word := lane k.data 1 ++ lane k.data 0
      (s.w.ctrlOutside s.cur k = true → ∃ t, exec (.epEgressToken p) s = .next t ∧ UnitsOnly s t ∧ pool t = rest ∧
        (y t).ctrl = none ∧ t.w.reduces = s.w.reduces ∧ (y t).dcnt = sat x.dcnt ∧ (y t).total = sat x.total) ∧
      (s.w.ctrlOutside s.cur k = false → a.extractLsb' 50 14 = s.eng.node → ∃ t, exec (.epEgressToken p) s = .next t ∧
        UnitsOnly s t ∧ pool t = rest ∧ (y t).ctrl = none ∧ (y t).dcnt = x.dcnt ∧
        t.w.reduces = s.w.reduces ++ [⟨s.cur, p.toNat, a, (lane k.data 2).extractLsb' 0 2, tok⟩])) ∧
    (∀ n rest, s.eng.fenced = true → cfg.isIngress = true → x.inbox = [] → s.w.nets = n :: rest → n.dstCore = s.cur →
      n.dstPort = p.toNat → n.arrive ≤ s.w.cycle →
      ∃ t, exec (.epIngressToken p) s = .next t ∧ UnitsOnly s t ∧ t.w.nets = rest ∧ (y t).total = sat x.total ∧
        t.eng.flights = s.eng.flights) ∧
    (∀ n rest, s.eng.portLive p.toNat = true → cfg.isIngress = true → cfg.ctb = false → x.dead = false →
      s.w.nets = n :: rest → n.dstCore = s.cur → n.dstPort = p.toNat → n.arrive ≤ s.w.cycle → n.tok.kind ≠ kPRESS →
      s.eng.fenced = false → x.inbox = [] →
      (n.part ≠ 0 → n.part ≠ s.eng.partid → ∃ t, exec (.epIngressToken p) s = .next t ∧ UnitsOnly s t ∧
        t.w.nets = rest ∧ (y t).total = sat x.total ∧ t.eng.flights = s.eng.flights) ∧
      (n.part = 0 ∨ n.part = s.eng.partid → ∀ d hops, edgeLink s.eng.cfg p.toNat = some (d, hops) →
        s.eng.reserveFree d = true → s.w.gridBegun s.cur = false →
        ∃ t f, exec (.epIngressToken p) s = .next t ∧ UnitsOnly s t ∧ t.w.nets = rest ∧
          t.eng.flights = s.eng.flights ++ [f] ∧ f.dest = d ∧ (n.spoilt = true → f.tok.kind = kERR) ∧
          (n.spoilt = false → f.tok.data = n.tok.data ∧ f.tok.kind = n.tok.kind))) ∧
    (∀ pre (k : TokenFrame) post d hops, s.eng.portLive p.toNat = true → cfg.isIngress = true → cfg.ctb = false →
      x.dead = false → x.inbox = [] → (∀ n ∈ s.w.nets, n.dstCore ≠ s.cur ∨ n.dstPort ≠ p.toNat) →
      s.w.tokensIn = pre ++ k :: post → (∀ f ∈ pre, f.core ≠ s.cur ∨ f.port ≠ p.toNat) → k.core = s.cur → k.port = p.toNat →
      s.eng.fenced = false → (k.part = 0 ∨ k.part = s.eng.partid) → (Token.ofSideband k.side k.data).kind ≠ kPRESS →
      edgeLink s.eng.cfg p.toNat = some (d, hops) → s.eng.reserveFree d = true → s.w.gridBegun s.cur = false →
      ∃ t f, exec (.epIngressToken p) s = .next t ∧ UnitsOnly s t ∧ t.w.nets = s.w.nets ∧ t.w.tokensIn = pre ++ post ∧
        t.eng.flights = s.eng.flights ++ [f] ∧ f.dest = d ∧ f.tok.data = k.data ∧
        f.tok.kind = (Token.ofSideband k.side k.data).kind) ∧
    (∀ n c q, (∃ pre k post, s.w.credits = pre ++ k :: post ∧ n = pre.length ∧ c = k.core ∧ q = k.port) ∨
        (n = s.w.credits.length + 8 * c + q ∧ c < 96 ∧ q < 8 ∧ ((s.w.eng c).epCfg q).isEgress = true ∧
          ((s.w.eng c).epCfg q).node (s.w.eng c).node ≠ (s.w.eng c).node) →
      ∃ t, exec (.epCredit n) s = .next t ∧ t.cps = s.cps ∧ t.w.mem = s.w.mem ∧ t.w.credits = dropAt s.w.credits n ∧
        ((t.w.eng c).port q).credits = ((s.w.eng c).port q).credits + 1 ∧ ∀ m, m ≠ c → t.w.eng m = s.w.eng m) ∧
    (let added (t : State) (a : Nat) (tok : Token) : Prop := t.cps = s.cps ∧
        (∀ l, l < tok.valid.toNat →
          memNat t.w.mem (a + 4 * l) 4 = (memNat s.w.mem (a + 4 * l) 4 + (lane tok.data l).toNat) % 2 ^ 32) ∧
        ∀ z, ¬ within a (4 * tok.valid.toNat) z → memRead t.w.mem z = memRead s.w.mem z
      let plain (a : Nat) (tok : Token) : Prop := (∃ m, regionOf a = .dram m) ∧ tok.valid.toNat ≤ 16 ∧
        s.w.failing a 64 = none ∧ Memory.wf s.w.mem = true
      (∀ pre r post, s.w.reduces = pre ++ r :: post → (∀ q ∈ pre, q.core ≠ r.core ∨ q.port ≠ r.port ∨ q.addr ≠ r.addr) →
        r.rop = 0 → plain (r.addr.toNat % 2 ^ 50) r.tok →
        ∃ t, exec (.reduceStore pre.length) s = .next t ∧ t.w.reduces = pre ++ post ∧
          added t (r.addr.toNat % 2 ^ 50) r.tok) ∧
      (∀ pre r post, s.w.reduces = pre ++ r :: post → (∃ q ∈ pre, q.core = r.core ∧ q.port = r.port ∧ q.addr = r.addr) →
        exec (.reduceStore pre.length) s = .next s) ∧
      ∀ pre (f : ReduceFrame) post, s.w.reducesIn = pre ++ f :: post → f.rop = 0 →
        (∀ q ∈ pre, q.addr ≠ f.addr ∨ q.sender ≠ f.sender) →
        plain f.addr.toNat (Token.ofSideband f.side f.data) →
        ∃ t, exec (.reduceStore (s.w.reduces.length + pre.length)) s = .next t ∧ t.w.reduces = s.w.reduces ∧
          t.w.reducesIn = pre ++ post ∧
          added t f.addr.toNat (Token.ofSideband f.side f.data))

/-- SCHED_INJECT puts the next token of a slot's record on its way to the entry port: the rest of a record begun, else the first token of the oldest waiting record, while injection has not stopped, the grid has not begun its cycle and the port has a slot. BLOCK_AGED stops injection into the lowest scheduled slot whose block is not aged, when a block with a record of 65,536 cycles is loaded nowhere. SCHED_SELECT takes for a drained slot the aged block of the greatest age, else the block with the most records, the lowest among equals, that no other slot holds: its own block goes on, another is loaded and armed, or the slot leaves the scheduler. What a drained slot is, and under what the scheduler's own commands run, rest on log 30. (R265, R266) -/
def Obligations.BlockScheduler : Prop :=
  ∀ (s : State) (v : BitVec 3),
    let d := s.eng.sched
    let now := s.w.cycle
    let begun (t : State) : List Token := Tbl.get t.eng.sched.injecting [] v.toNat
    let aged (b : Nat) : Prop := ∃ r rest, d.queue b = r :: rest ∧ 65536 ≤ now - r.at'
    let mine : Prop := v.toNat ∈ s.eng.scheduledSlots
    (¬ mine → s.eng.ingress.toks = [] → exec (.schedInject v) s = .next s ∧ exec (.schedSelect v) s = .next s ∧
      exec (.blockAged v) s = .next s) ∧
    (∀ p t0 rest, mine → s.eng.ingress.toks = [] → s.eng.pressing = false → (s.eng.vat v.toNat).active = some p →
      ((s.eng.vat v.toNat).state = .armed ∨ (s.eng.vat v.toNat).state = .running) →
      s.eng.hasSlot (.grid p.entryElem p.entryPort 0) = true → s.w.gridBegun s.cur = false →
      (begun s = t0 :: rest → ∃ t f, exec (.schedInject v) s = .next t ∧ UnitsOnly s t ∧ begun t = rest ∧
        t.eng.sched.queue p.block = d.queue p.block ∧ t.eng.flights = s.eng.flights ++ [f] ∧
        f.dest = .grid p.entryElem p.entryPort 0 ∧ f.tok.data = t0.data ∧ f.tok.kind = t0.kind) ∧
      (∀ r q, begun s = [] → d.queue p.block = r :: q → r.toks = t0 :: rest → v.toNat ∉ d.stopped →
        ∃ t f, exec (.schedInject v) s = .next t ∧ UnitsOnly s t ∧ begun t = rest ∧ t.eng.sched.queue p.block = q ∧
          t.eng.flights = s.eng.flights ++ [f] ∧ f.dest = .grid p.entryElem p.entryPort 0 ∧ f.tok.data = t0.data ∧
          f.tok.kind = t0.kind)) ∧
    (∀ b, b < 256 → aged b → (∀ u ∈ s.eng.scheduledSlots, s.eng.slotBlock u ≠ b) → mine →
      ¬ aged (s.eng.slotBlock v.toNat) → (∀ u ∈ s.eng.scheduledSlots, u < v.toNat → aged (s.eng.slotBlock u)) →
      v.toNat ∉ d.stopped →
      ∃ t, exec (.blockAged v) s = .next t ∧ UnitsOnly s t ∧ t.eng.sched = { d with stopped := d.stopped ++ [v.toNat] }) ∧
    ((∀ b, b < 256 → aged b → ∃ u ∈ s.eng.scheduledSlots, s.eng.slotBlock u = b) →
      exec (.blockAged v) s = .next s) ∧
    (∀ b, s.eng.pickBlock now v.toNat = some b →
      let free (k : Nat) : Prop := k < 256 ∧ d.queue k ≠ [] ∧
        ∀ u ∈ s.eng.scheduledSlots, u ≠ v.toNat → s.eng.slotBlock u ≠ k
      free b ∧
      ((∃ k, free k ∧ aged k) → aged b ∧ ∀ k, free k → aged k → d.age now k ≤ d.age now b) ∧
      ((∀ k, free k → ¬ aged k) → ∀ k, free k → (d.queue k).length ≤ (d.queue b).length ∧
        ((d.queue k).length = (d.queue b).length → b ≤ k)) ∧
      (mine → s.eng.pressing = false → s.w.slotDrained s.cur v.toNat = true →
        (d.queue (s.eng.slotBlock v.toNat) = [] ∨ v.toNat ∈ d.stopped) →
        ∃ t, exec (.schedSelect v) s = .next t ∧ t.cps = s.cps ∧ v.toNat ∉ t.eng.sched.stopped ∧
          (b = s.eng.slotBlock v.toNat → UnitsOnly s t ∧ (t.eng.vat v.toNat) = s.eng.vat v.toNat) ∧
          (b ≠ s.eng.slotBlock v.toNat → (t.eng.vat v.toNat).state = .armed ∨ v.toNat ∈ t.eng.sched.left)))

/-- With no job running, the head of the one queue that is not empty is read: a block whose fields are right starts a job, with unit i for the i-th core of the partition that is not fenced; a wrong NBV stores the completion error 2 at CWA; a block that cannot be read is reported; an unmet dependence leaves the queue and has it read again 1,024 cycles later. JOB_RETIRE, once every unit has ended, adds 1 at CWA and puts the child at the head of the queue it came from. WORK_UNIT_START gives a free core its next unit: registers, PC, MSTAT, NBV, UNITID and JOBLPB, and units that hold nothing but stores not yet performed; with the first, every core of the job begins its first (log 30, DEDUCED, as that the store buffer stays). Blocks and words lie at local addresses (log 30). (R130, R240, R241, R242, R243, R244, R247, R248, R442) -/
def Obligations.JobUnit : Prop :=
  ∀ s : State,
    let P := s.eng.partid.toNat
    let job (t : State) := t.w.job P
    let cores := (List.range 96).filter (fun c => (s.w.eng c).partid.toNat = P && !(s.w.eng c).fenced)
    let plain (a : Word) (n : Nat) : Prop := PlainAt s ⟨false, 0, a.toNat⟩ ∧ s.w.failing a.toNat n = none
    let due (i : Instr) : Prop :=
      (i = .jobSelect ∧ (job s).reread = 0) ∨
        (i = .dependenceReread ∧ (job s).reread ≠ 0 ∧ (job s).reread ≤ s.w.cycle)
    ((job s).job ≠ none → exec .jobSelect s = .next s ∧ exec .dependenceReread s = .next s) ∧
    ((job s).job = none → exec .jobRetire s = .next s ∧ exec .workUnitStart s = .next s) ∧
    (∀ i q r rest, due i → (job s).job = none → q < 16 → (job s).queue q = r :: rest →
      (∀ k, k < 16 → k ≠ q → (job s).queue k = []) → r.copied = none → r.arg0 = none →
      let word (k : Nat) : Word := memWord s.w.mem (r.addr.toNat + 8 * k)
      let units := ((word 0).extractLsb' 32 32).toNat
      let popped (t : State) : Prop := t.cps = s.cps ∧ (job t).queue q = rest ∧ (job t).last = q
      (s.w.mayReach s.cur ⟨false, 0, r.addr.toNat⟩ = false →
        ∃ t, exec i s = .next t ∧ popped t ∧ (job t).job = none ∧ Told s t 2 0 r.addr (BitVec.ofNat 64 q)) ∧
      (plain r.addr 64 → (word 0).extractLsb' 24 8 = 0 → (word 0).extractLsb' 0 16 = 0 → (word 1).toNat % 4 = 0 →
        (word 1).toNat < 2 ^ 56 → (word 2).toNat % 8 = 0 →
        (word 3 = 0 → (word 0).extractLsb' 16 2 ≠ 0 → 1 ≤ units → units < 2 ^ 24 →
          ∃ t x, exec i s = .next t ∧ UnitsOnly s t ∧ popped t ∧ (job t).job = some x ∧ x.addr = r.addr ∧
            x.units = units ∧ x.ended = 0 ∧ x.child = none ∧ (∀ k, k < 8 → x.block.toList[k]? = some (word k)) ∧
            ∀ k c, k < units → cores[k]? = some c → Tbl.find x.nextUnit c = some k) ∧
        (word 3 = 0 → (word 0).extractLsb' 16 2 = 0 → word 2 ≠ 0 → PlainAt s ⟨false, 0, (word 2).toNat⟩ →
          Memory.wf s.w.mem = true →
          ∃ t, exec i s = .next t ∧ popped t ∧ (job t).job = none ∧
            ∀ z, (within (word 2).toNat 8 z → memRead t.w.mem z = byteOf (2 ^ 63 + 2) (z - (word 2).toNat)) ∧
              (¬ within (word 2).toNat 8 z → memRead t.w.mem z = memRead s.w.mem z)) ∧
        (word 3 ≠ 0 → (word 3).toNat % 32 = 0 → plain (word 3) 32 →
          let d0 := memWord s.w.mem (word 3).toNat
          d0 ≠ 0 → d0.toNat % 8 = 0 → plain d0 8 →
          (memWord s.w.mem d0.toNat).toInt < (memWord s.w.mem ((word 3).toNat + 8)).toInt →
          ∃ t, exec i s = .next t ∧ UnitsOnly s t ∧ (job t).job = none ∧ (job t).queue q = r :: rest ∧
            (job t).reread = s.w.cycle + 1024))) ∧
    (∀ x, (job s).job = some x →
      let cwa := Block.word x.block 2
      (x.ended ≠ x.units → exec .jobRetire s = .next s) ∧
      (x.ended = x.units → cwa ≠ 0 → plain cwa 8 → Memory.wf s.w.mem = true →
        ∃ t, exec .jobRetire s = .next t ∧ t.cps = s.cps ∧ (job t).job = none ∧
          (x.child = none → ∀ k, (job t).queue k = (job s).queue k) ∧
          (∀ c, x.child = some c → (job t).queue (job s).last = c :: (job s).queue (job s).last) ∧
          ∀ z, (within cwa.toNat 8 z → memRead t.w.mem z = byteOf (memWord s.w.mem cwa.toNat + 1).toNat (z - cwa.toNat)) ∧
            (¬ within cwa.toNat 8 z → memRead t.w.mem z = memRead s.w.mem z)) ∧
      (let takes (c u : Nat) : Prop := (s.w.eng c).partid.toNat = P ∧ Tbl.find x.nextUnit c = some u ∧
          (s.w.eng c).fenced = false ∧ (s.w.eng c).unit = none ∧ u < x.units ∧
          ((cpOf s.cps c).mode = .running ∨ (cpOf s.cps c).mode = .idling ∨ (cpOf s.cps c).mode = .between)
        let begins (t : State) (c u : Nat) : Prop :=
          let p := cpOf t.cps c
          let r := cpOf s.cps c
          let g := t.w.eng c
          (∀ k, p.reg k = if 1 ≤ k.toNat ∧ k.toNat ≤ 4 then Block.word x.block (3 + k.toNat) else 0) ∧
            p.pc = Block.word x.block 1 ∧ p.mstat = 2 ∧ p.nbv = ((Block.word x.block 0).extractLsb' 16 2).setWidth 64 ∧
            p.unitid = BitVec.ofNat 24 u ∧ p.joblpb = x.addr ∧ p.mode = .running ∧ p.tvb = r.tvb ∧ p.asid = r.asid ∧
            p.ptroot = r.ptroot ∧ p.retired = r.retired ∧ g.unit = some u ∧ g.curds = [] ∧ g.vats = [] ∧
            g.commands = [] ∧ g.streams = [] ∧ g.copies = [] ∧ g.triggers = [] ∧ g.pend = (s.w.eng c).pend ∧
            g.partid = (s.w.eng c).partid ∧ g.storeBuf = (s.w.eng c).storeBuf
        ∀ u, takes s.cur u → (Block.word x.block 1).toNat % 4 = 0 →
          (x.begun = true → ∃ t, exec .workUnitStart s = .next t ∧ OthersStill s t ∧ t.w.mem = s.w.mem ∧
            begins t s.cur u) ∧
          (x.begun = false → x.cores.Nodup → ∃ t, exec .workUnitStart s = .next t ∧ t.schedule = s.schedule ∧
            t.cur = s.cur ∧ t.w.mem = s.w.mem ∧ (∀ c k, c ∈ x.cores → takes c k → begins t c k) ∧
            ∀ c, c ∉ x.cores → cpOf t.cps c = cpOf s.cps c)))

/-- A host appends a block to a queue of a partition through its lowest core not fenced, and gets BUSY at 64 blocks; an agent of a core gets PERM, another core DECODE. A launch message for this package fires the lowest armed entry with its tag, disarms it and puts its block, with the payload as ARG0, at the head of queue 0, behind a tail child that has come there in the same cycle; one that matches none is counted and reported. A host's message makes HOST_MSG pending with its value. A write of WDOG by an owner sets LIMIT and restarts the count. A watchdog that has reached zero stops the processor, in the ROM or held too, and is reported. Who may write rests on log 21 where R141 leaves it open, the count from the cycle of the write and the report's words on log 26, the core of a MSG_NOMATCH report on log 30, all the model's. (R139, R141, R250, R359, R438, R439, R442) -/
def Obligations.MessagesAndDoorbells : Prop :=
  ∀ (s : State) (q : BitVec 4) (v : Word) (a : Agent),
    let P := s.eng.partid.toNat
    let job (t : State) := t.w.job P
    let only (r : BitVec 2) : State := { s with w := { s.w with resp := r } }
    let owner : Prop := a = .host ∨ ∃ k, a = .core k ∧ (cpOf s.cps k.toNat).prv = true ∧
      ((s.w.eng k.toNat).partid = 0 ∨ s.eng.partid = (s.w.eng k.toNat).partid)
    (s.w.lowestCore s.cur = false → exec (.jqdWrite q v a) s = .next (only 1)) ∧
    (s.w.lowestCore s.cur = true →
      (a ≠ .host → exec (.jqdWrite q v a) s = .next (only 2)) ∧
      (a = .host → 64 ≤ ((job s).queue q.toNat).length → exec (.jqdWrite q v a) s = .next (only 3)) ∧
      (a = .host → ((job s).queue q.toNat).length < 64 →
        ∃ t r, exec (.jqdWrite q v a) s = .next t ∧ UnitsOnly s t ∧ t.w.resp = 0 ∧
          (job t).queue q.toNat = (job s).queue q.toNat ++ [r] ∧ r.addr = BitVec.ofNat 64 (v.toNat % 2 ^ 50) ∧
          r.copied = none ∧ r.arg0 = none ∧ (job t).job = (job s).job ∧
          ∀ k, k ≠ q.toNat → (job t).queue k = (job s).queue k)) ∧
    (∀ (node : BitVec 14) (part tag : BitVec 16),
      let unit (t : State) := t.w.job part.toNat
      let mle (t : State) (m : Nat) : Mle := Tbl.get (unit t).mles Mle.empty m
      let hits (m : Nat) : Prop := (mle s m).w0.getLsbD 0 = true ∧ (mle s m).w1.extractLsb' 0 16 = tag
      (node ≠ (s.w.eng 0).node → exec (.launchMessage node part tag v) s = .next s) ∧
      (node = (s.w.eng 0).node →
        (∀ m, m < 8 → hits m → (∀ k, k < m → ¬ hits k) →
          ∃ t r, exec (.launchMessage node part tag v) s = .next t ∧ UnitsOnly s t ∧
            (∀ h rest, (unit s).queue 0 = h :: rest → (unit s).childAt = some (s.w.cycle, 0, h) →
              (unit t).queue 0 = h :: r :: rest) ∧
            ((∀ h rest, (unit s).queue 0 = h :: rest → (unit s).childAt ≠ some (s.w.cycle, 0, h)) →
              (unit t).queue 0 = r :: (unit s).queue 0) ∧ r.addr = (mle s m).w0 &&& 0x00FFFFFFFFFFFFC0 ∧
            r.arg0 = some v ∧ r.copied = none ∧ (mle t m).w0 = (mle s m).w0 &&& ~~~1 ∧ (mle t m).w1 = (mle s m).w1 ∧
            ∀ k, k ≠ m → mle t k = mle s k) ∧
        ((∀ m, m < 8 → ¬ hits m) → ∃ t, exec (.launchMessage node part tag v) s = .next t ∧ t.cps = s.cps ∧
          unit t = { unit s with missed := (unit s).missed + 1 } ∧ Told s t 4 0 (tag.setWidth 64) (part.setWidth 64)))) ∧
    (s.eng.fenced = true →
      exec (.hmsgWrite v a) s = .next (only 1) ∧ exec (.wdogWrite v a) s = .next (only 1)) ∧
    (s.eng.fenced = false →
      (a ≠ .host → exec (.hmsgWrite v a) s = .next (only 2)) ∧
      (a = .host → ∃ t, exec (.hmsgWrite v a) s = .next t ∧ UnitsOnly s t ∧ t.w.resp = 0 ∧ t.eng.hmsg = v ∧
        ∃ p ∈ t.eng.pend, p.code = 0x18 ∧ p.info.t0 = v) ∧
      (¬ owner → exec (.wdogWrite v a) s = .next (only 2)) ∧
      (owner → ∃ t, exec (.wdogWrite v a) s = .next t ∧ t.w = (only 0).w ∧ OthersStill s t ∧
        t.cp.wdogLimit = v.extractLsb' 0 32 ∧ t.srRead s.cur 0x024 = v.extractLsb' 0 32 ++ v.extractLsb' 0 32 ∧
        t.cp.pc = s.cp.pc ∧ t.cp.mode = s.cp.mode ∧ t.cp.mstat = s.cp.mstat ∧ t.cp.retired = s.cp.retired ∧
        ∀ g, t.cp.reg g = s.cp.reg g)) ∧
    (let expired : Prop := s.cp.wdogLimit ≠ 0 ∧ s.cp.wdogLimit.toNat ≤ (s.w.cycle - s.cp.wdogStart) / 1024
     let counts : Prop := s.cp.mode ≠ .stopped
     (¬ (expired ∧ counts) → exec .wdogExpire s = .next s) ∧
     (expired → counts → ∃ t, exec .wdogExpire s = .next t ∧ OthersStill s t ∧ s.cp.SameButMode t.cp ∧
       t.cp.mode = .stopped ∧ t.eng.pend = s.eng.pend ∧
       Told s t 1 s.cur s.cp.fetched (s.cp.wdogLimit.setWidth 64)))

/-- A sideband write with [63:24] zero sets the sideband of the next push, any other gets PERM. A payload write at offset 0 pushes a token with that sideband: a THR token with LEVEL 1 to 3 into an empty port, or another kind into the middle of a record that it does not complete, is kept, a THR with R set; a token that does not fit its place is dropped, counted and reported with the count. A full port holds the push; another offset gets DECODE. (R249, R263, R438, R442) -/
def Obligations.IngressPort : Prop :=
  ∀ (s : State) (off : BitVec 12) (data : BitVec 512) (v : Word),
    let x := s.eng.ingress
    let y (t : State) := t.eng.ingress
    let tok := Token.ofSideband x.sideband data
    let only (r : BitVec 2) : State := { s with w := { s.w with resp := r } }
    (2 ^ 24 ≤ v.toNat → exec (.ingressSidebandWrite v) s = .next (only 2)) ∧
    (v.toNat < 2 ^ 24 → ∃ t, exec (.ingressSidebandWrite v) s = .next t ∧ UnitsOnly s t ∧ t.w.resp = 0 ∧
      (y t).sideband = v.extractLsb' 0 24 ∧ (y t).toks = x.toks ∧ (y t).drops = x.drops) ∧
    (off ≠ 0 → exec (.ingressPayloadWrite off data) s = .next (only 1)) ∧
    (off = 0 → 64 ≤ x.toks.length → exec (.ingressPayloadWrite off data) s = .next s) ∧
    (off = 0 → x.toks = [] → tok.kind = kTHR → 1 ≤ tok.level.toNat → tok.level.toNat ≤ 3 →
      ∃ t, exec (.ingressPayloadWrite off data) s = .next t ∧ UnitsOnly s t ∧ t.w.resp = 0 ∧
        (y t).toks = [{ tok with r := true }] ∧ (y t).drops = x.drops) ∧
    (∀ h more, off = 0 → x.toks = h :: more → more.length + 1 < h.level.toNat → x.toks.length < 64 → tok.kind ≠ kTHR →
      ∃ t, exec (.ingressPayloadWrite off data) s = .next t ∧ UnitsOnly s t ∧ t.w.resp = 0 ∧
        (y t).toks = x.toks ++ [tok] ∧ (y t).drops = x.drops) ∧
    (off = 0 → (x.toks = [] ∧ tok.kind ≠ kTHR ∨ (∃ h more, x.toks = h :: more ∧ more.length < h.level.toNat ∧
        x.toks.length < 64 ∧ tok.kind = kTHR)) →
      ∃ t, exec (.ingressPayloadWrite off data) s = .next t ∧ t.cps = s.cps ∧ t.w.resp = 0 ∧ (y t).toks = x.toks ∧
        (s.ringFull → (y t).drops = x.drops + 1) ∧ (¬ s.ringFull → (y t).drops = 0) ∧
        Told s t 3 s.cur (x.sideband.setWidth 64) (BitVec.ofNat 64 (x.drops + 1)))

/-- A second command in one cycle answers BUSY and does nothing; else each answers OK and sets HRSP to DONE with a status. PRESS begins a press on every core of the partition, each with its image area of the table; a bad table is a bad operand, a press under way BUSY. RESTART at a multiple of 4 makes every special register of the core read its reset value and lets it fetch at the entry in the privileged mode with XOFF, its vats, streams and curd registers as they stand. FENCE stops the processor, kills every vat that is not FREE, drops the SWAPs and ARMs queued and the work unit and, with all slots FREE, reports FENCED. UNFENCE gives the core its reset state. Other processors stand. The statuses of a bad table and of a press under way rest on log 31, what RESTART returns and its bad operand on log 33 (DEDUCED). (R134, R362, R441, R442, R450) -/
def Obligations.HostCommands : Prop :=
  (∀ (s : State) (arg : Word), s.w.host.hcmdAt = some s.w.cycle →
    let busy : State := { s with w := { s.w with resp := 3 } }
    exec (.hcmdPress arg) s = .next busy ∧ exec (.hcmdRestart arg) s = .next busy ∧ exec .hcmdFence s = .next busy ∧
      exec .hcmdUnfence s = .next busy) ∧
  ∀ (s : State) (arg : Word), s.cur < 96 → s.w.host.hcmdAt ≠ some s.w.cycle →
    let P := s.eng.partid.toNat
    let cores := (List.range 96).filter (fun c => (s.w.eng c).partid.toNat = P && !(s.w.eng c).fenced)
    let a := arg.toNat % 2 ^ 49
    let table := s.w.areaOk (cores.headD s.cur) a (8 * cores.length)
    let answers (t : State) (st : Word) : Prop := t.w.host.hrsp = 0x8000000000000000 ||| st ∧ t.w.resp = 0 ∧ t.w.host.hcmdAt = some s.w.cycle ∧
      t.w.host.hrbase = s.w.host.hrbase ∧ t.w.host.hrcfg = s.w.host.hrcfg ∧ t.w.host.hrridx = s.w.host.hrridx
    let only (st : Word) : State := { s with w := { s.w with
      host := { s.w.host with hrsp := 0x8000000000000000 ||| st, hcmdAt := some s.w.cycle }, resp := 0 } }
    let resetValue (n : Nat) : Word := if n = 0 then cpid 0 s.cur else if n = 1 then 0x03010001
      else if n = 2 then 0x11 else if n = 3 then 3 else if n = 9 then 64 else 0
    ((∃ c ∈ cores, (s.w.eng c).press ≠ none) →
      exec (.hcmdPress arg) s = .next { s with w := { s.w with host := { s.w.host with hcmdAt := some s.w.cycle }, resp := 3 } }) ∧
    ((∀ c ∈ cores, (s.w.eng c).press = none) → (a % 8 ≠ 0 ∨ cores = [] ∨ table = false) →
      exec (.hcmdPress arg) s = .next (only 2)) ∧
    ((∀ c ∈ cores, (s.w.eng c).press = none ∧ ∀ v, v < 8 → ((s.w.eng c).vat v).state.live = false) → a % 8 = 0 →
      cores ≠ [] → table = true →
      ∃ t, exec (.hcmdPress arg) s = .next t ∧ t.cps = s.cps ∧ t.w.mem = s.w.mem ∧ answers t 0 ∧
        ∀ i c, cores[i]? = some c → ∃ p, (t.w.eng c).press = some p ∧ p.active = true ∧ p.part = true ∧ p.host = true ∧
          p.area = memWord s.w.mem (a + 8 * i)) ∧
    (a % 4 ≠ 0 → exec (.hcmdRestart arg) s = .next (only 2)) ∧
    (a % 4 = 0 → ∃ t, exec (.hcmdRestart arg) s = .next t ∧ OthersStill s t ∧ t.w.mem = s.w.mem ∧ answers t 0 ∧
      (∀ n, t.srRead s.cur n = resetValue n) ∧ (∀ r, t.cp.reg r = 0) ∧ t.cp.pc = BitVec.ofNat 64 a ∧
      t.cp.mode = .running ∧ t.eng.vats = s.eng.vats ∧ t.eng.streams = s.eng.streams ∧ t.eng.curds = s.eng.curds ∧
      ∀ c, c ≠ s.cur → t.w.eng c = s.w.eng c) ∧
    (∃ t, exec .hcmdFence s = .next t ∧ OthersStill s t ∧ answers t 0 ∧ t.eng.fenced = true ∧ s.cp.SameButMode t.cp ∧
      t.cp.mode = .stopped ∧ t.eng.unit = none ∧ (∀ k ∈ t.eng.commands, ∀ v w, k.instr ≠ .swap v ∧ k.instr ≠ .arm w v) ∧
      (∀ v, v < 8 → (t.eng.vat v).state = if (s.eng.vat v).state = .free then .free else .killed) ∧
      ((∀ v, v < 8 → (s.eng.vat v).state = .free) → Told s t 8 s.cur 0 0)) ∧
    (∃ t, exec .hcmdUnfence s = .next t ∧ OthersStill s t ∧ t.w.mem = s.w.mem ∧ answers t 0 ∧ t.eng = Eng.reset ∧
      (∀ n, t.srRead s.cur n = resetValue n) ∧ (∀ r, t.cp.reg r = 0) ∧ t.cp.pc = 0 ∧
      t.cp.mode = (if s.cur = 0 then .rom else .held) ∧ ∀ c, c ≠ s.cur → t.w.eng c = s.w.eng c)

/-- BOOT := 1, while the ROM of core 0 waits, sets BOOT to DONE with 1 for a wrong header, 2 for a key whose SHA-384 digest is not the fused one, 3 for a version below the fused minimum, 4 for a signature that does not verify, and else with 0, and then alone the processor of core 0 runs at ENTRY. A value above 1 gets PERM, a write while no ROM waits BUSY. RESET makes every processor, every core's units and the host block as at reset; memory keeps its bytes, but the column of core 0, which the ROM initialises (R446), with zeros, which is the model's choice, as that memory stays else (log 23). That a write of BOOT while no ROM waits gets BUSY rests on log 33, the algorithms on log 12. (R134, R446, R447) -/
def Obligations.BootAndReset : Prop :=
  ∀ (s : State) (v : Word),
    let m := s.w.mem
    let only (r : BitVec 2) : State := { s with w := { s.w with resp := r } }
    let waits : Prop := (cpOf s.cps 0).mode = .rom
    let header : Prop := memNat m 0 8 = 0x4748465700000001 ∧ memNat m 8 8 < 2 ^ 16 ∧ memNat m 16 8 ≤ 0xFFFFF00 ∧
      memNat m 24 8 % 4 = 0 ∧ ∀ i, 224 ≤ i → i < 256 → memRead m i = 0
    let key : Prop := sha384 (memBytes m 32 96) = Config.fusedKeyDigest
    let fresh : Prop := Config.fusedMinVersion ≤ memNat m 8 8
    let signed : Prop := ecdsaVerifies (beNat (memBytes m 32 48)) (beNat (memBytes m 80 48)) (beNat (memBytes m 128 48))
      (beNat (memBytes m 176 48)) (sha384 (memBytes m 0 32 ++ memBytes m 256 (memNat m 16 8))) = true
    let status : Nat := open Classical in
      if ¬ header then 1 else if ¬ key then 2 else if ¬ fresh then 3 else if ¬ signed then 4 else 0
    (2 ≤ v.toNat → exec (.bootWrite v) s = .next (only 2)) ∧
    (v.toNat < 2 → ¬ waits → exec (.bootWrite v) s = .next (only 3)) ∧
    (v = 0 → waits → exec (.bootWrite v) s = .next (only 0)) ∧
    (v = 1 → waits → ∃ t, exec (.bootWrite v) s = .next t ∧ t.w.mem = m ∧ t.w.resp = 0 ∧ t.w.engs = s.w.engs ∧
      t.w.host.boot = 0x8000000000000000 ||| BitVec.ofNat 64 status ∧ (∀ c, c ≠ 0 → cpOf t.cps c = cpOf s.cps c) ∧
      (status ≠ 0 → t.cps = s.cps) ∧
      (status = 0 → (cpOf t.cps 0).mode = .running ∧ (cpOf t.cps 0).pc = BitVec.ofNat 64 (memNat m 24 8) ∧
        (cpOf t.cps 0).mstat = (cpOf s.cps 0).mstat ∧ ∀ r, (cpOf t.cps 0).reg r = (cpOf s.cps 0).reg r)) ∧
    (Memory.wf m = true → ∃ t, exec .reset s = .next t ∧
      (∀ z, memRead t.w.mem z = if z < 0x100000000 then 0 else memRead m z) ∧ (∀ c, cpOf t.cps c = Cp.reset c) ∧ (∀ c, t.w.eng c = Eng.reset) ∧
      t.w.host = HostBlock.reset ∧ t.w.cycle = 0 ∧ t.w.time = 0 ∧ t.w.timeState = 0 ∧ t.w.sinks = [] ∧ t.w.jobs = [] ∧
      t.w.nets = [] ∧ t.w.credits = [] ∧ t.w.reduces = [])

/-- LINK_REPLAY counts a replay of a port that is up, saturating; a free value (log 10) says whether it is the flit replayed before, which has failed then, and after eight failed replays of one flit the port goes down. LINK_DOWN takes a port down after eight failed replays of its flit and reports it with its peer (logs 33, 10); LINK_UP brings a port up with no replays and reports it. DIE_PATH_FAILURE fences and stops every core of a die other than die 0. THERMAL lowers ACLK of a die above 875 MHz by 125 and reports it; cycles and time stand. ECC_UE_REPORT reports a pending ECC_UE once a core has not taken it for 2^20 cycles, once (log 33). Where the conditions fail nothing changes. (R442, R443, R444, R445, R450, R451) -/
def Obligations.LinksAndHeat : Prop :=
  ∀ (s : State) (port : BitVec 6) (die : BitVec 2),
    let x := s.w.link port.toNat
    let y (t : State) := t.w.link port.toNat
    let rest (t : State) : Prop := t.cps = s.cps ∧ t.w.cycle = s.w.cycle ∧ t.w.time = s.w.time ∧
      ∀ p, p ≠ port.toNat → t.w.link p = s.w.link p
    let here : Prop := port.toNat < 36
    let again : Bool := s.w.fresh.1.getLsbD 0
    (¬ (here ∧ x.up = true) → exec (.linkReplay port) s = .next s) ∧
    (here → x.up = true → ¬ (again = true ∧ 8 ≤ x.tries) → ∃ t, exec (.linkReplay port) s = .next t ∧ rest t ∧ UnitsOnly s t ∧
      (y t).up = true ∧ (y t).peer = x.peer ∧ (y t).tries = (if again then x.tries + 1 else 1) ∧
      (y t).replays = if x.replays = BitVec.allOnes 16 then x.replays else x.replays + 1) ∧
    (here → x.up = true → again = true → 8 ≤ x.tries → ∃ t, exec (.linkReplay port) s = .next t ∧ rest t ∧ (y t).up = false ∧
      Told s t 6 0 (BitVec.ofNat 64 port.toNat) (x.peer.setWidth 64)) ∧
    (¬ (here ∧ x.up = true ∧ 8 ≤ x.tries) → exec (.linkDown port) s = .next s) ∧
    (here → x.up = true → 8 ≤ x.tries → ∃ t, exec (.linkDown port) s = .next t ∧ rest t ∧ (y t).up = false ∧
      Told s t 6 0 (BitVec.ofNat 64 port.toNat) (x.peer.setWidth 64)) ∧
    (¬ (here ∧ x.up = false) → exec (.linkUp port) s = .next s) ∧
    (here → x.up = false → ∃ t, exec (.linkUp port) s = .next t ∧ rest t ∧ (y t).up = true ∧ (y t).replays = 0 ∧
      Told s t 6 0 (BitVec.ofNat 64 port.toNat) ((y t).peer.setWidth 64)) ∧
    (die = 0 → exec (.diePathFailure die) s = .next s) ∧
    (die ≠ 0 → ∃ t, exec (.diePathFailure die) s = .next t ∧
      (∀ c, c / 24 = die.toNat → (t.w.eng c).fenced = true ∧ (cpOf t.cps c).mode = .stopped ∧
        (cpOf s.cps c).SameButMode (cpOf t.cps c)) ∧
      ∀ c, c / 24 ≠ die.toNat → (t.w.eng c).fenced = (s.w.eng c).fenced ∧ cpOf t.cps c = cpOf s.cps c) ∧
    (let mhz := s.w.aclkOf die.toNat
     (mhz ≤ 875 → exec (.thermal die) s = .next s) ∧
     (875 < mhz → ∃ t, exec (.thermal die) s = .next t ∧ t.cps = s.cps ∧ t.w.cycle = s.w.cycle ∧ t.w.time = s.w.time ∧
       t.w.aclkOf die.toNat = mhz - 125 ∧ (∀ d, d ≠ die.toNat → t.w.aclkOf d = s.w.aclkOf d) ∧
       Told s t 9 0 (BitVec.ofNat 64 (mhz - 125)) (BitVec.ofNat 64 die.toNat))) ∧
    (∀ at0 p, s.eng.eccAt = some at0 → s.eng.pend.find? (fun q => q.code == 0x09) = some p →
      ((s.cp.ie = true ∨ s.w.cycle - at0 < 2 ^ 20) → exec .eccUeReport s = .next s) ∧
      (s.cp.ie = false → 2 ^ 20 ≤ s.w.cycle - at0 → ∃ t, exec .eccUeReport s = .next t ∧ t.cps = s.cps ∧
        t.eng.eccAt = none ∧ t.eng.pend = s.eng.pend ∧ Told s t 7 s.cur p.info.t0 p.info.t1)) ∧
    (s.eng.eccAt = none → exec .eccUeReport s = .next s)

/-- PTP_FRAME sets the state and the announced offsets; at the first lock since reset package time steps forward to the grandmaster's, and it never decreases. PPS_INPUT notes the time, PPS_OUTPUT one edge for each second, taken within 5 ns of it. HOLDOVER follows LOCKED only. TRIGGER_FIRE, once package time has reached the boundary, sets the wake flag, puts the payload on an armed queue with a place or makes TIMER pending, disarms the trigger and writes STATUS: FIRED, LATE, SKEW and the lateness; a token for a stream that is not CPIO or has no link gets ERROR; no other byte changes. Before the boundary nothing happens. That the first lock is the first since reset, and that an arming changed in this cycle counts from the next, are the model's readings (logs 32, 27). (R427, R428, R429, R430, R431, R452) -/
def Obligations.PackageTime : Prop :=
  ∀ (s : State) (st : BitVec 2) (tm : BitVec 64) (utc : BitVec 16) (off : BitVec 32) (n : BitVec 4),
    let first : Prop := st = 2 ∧ s.w.timeLocked = false
    (∃ t, exec (.ptpFrame st tm utc off) s = .next t ∧ t.cps = s.cps ∧ t.w.mem = s.w.mem ∧ t.w.engs = s.w.engs ∧
      t.w.timeState = st ∧ t.w.utcOff = utc ∧ t.w.offset = (if st = 0 then 0 else off) ∧ s.w.time ≤ t.w.time ∧
      (first → tm.toNat ≤ t.w.time) ∧ (¬ (first ∧ s.w.time < tm.toNat) → t.w.time = s.w.time)) ∧
    exec .ppsInput s = .next { s with w := { s.w with ppsIn := s.w.time } } ∧
    (∀ sec : Nat,
      (16000000000 * sec ≤ s.w.time + 80 → s.w.time ≤ 16000000000 * sec + 80 →
        (s.w.ppsOut < sec → exec .ppsOutput s = .next { s with w := { s.w with ppsOut := sec } }) ∧
        (sec ≤ s.w.ppsOut → exec .ppsOutput s = .next s)) ∧
      (16000000000 * sec + 80 < s.w.time → s.w.time + 80 < 16000000000 * (sec + 1) → exec .ppsOutput s = .next s)) ∧
    (s.w.timeState ≠ 2 → exec .holdover s = .next s) ∧
    (s.w.timeState = 2 → ∃ t, exec .holdover s = .next t ∧ t.cps = s.cps ∧ t.w.mem = s.w.mem ∧ t.w.engs = s.w.engs ∧
      t.w.timeState = 3 ∧ t.w.time = s.w.time ∧ t.w.utcOff = s.w.utcOff ∧ t.w.offset = s.w.offset) ∧
    (Tbl.find s.eng.triggers n.toNat = none → exec (.triggerFire n) s = .next s) ∧
    (∀ k, Tbl.find s.eng.triggers n.toNat = some k →
      (s.w.time < 16 * k.due → exec (.triggerFire n) s = .next s) ∧
      (∀ pa w1, 16 * k.due ≤ s.w.time → (k.kind = 2 ∨ k.kind = 3 ∨ k.kind = 4) →
        (k.kind = 3 → s.eng.armedRec s.w.cycle k.queue.toNat ≠ none ∧ (s.eng.queue k.queue.toNat).triggers.length < 16) →
        s.w.commandXlat s.cur uTIME k.asid k.ptroot k.priv k.xoff .write (k.addr + 24) = (.ok pa, w1) → PlainAt s pa →
        Memory.wf s.w.mem = true →
        let ns := s.w.time / 16
        let width := if ns < s.eng.slotFrom then s.eng.slotOld else (s.eng.tslot.extractLsb' 0 13).toNat
        let lateness := min (ns - k.target) (2 ^ 32 - 1)
        let late : Nat := if k.late = true ∨ width ≤ lateness then 2 ^ 62 else 0
        let skew : Nat := if s.w.timeState ≠ 2 ∨ width / 2 < s.w.offset.toInt.natAbs then 2 ^ 59 else 0
        ∃ t, exec (.triggerFire n) s = .next t ∧ t.cps = s.cps ∧ t.w.time = s.w.time ∧
          Tbl.find t.eng.triggers n.toNat = none ∧
          (∀ m, m ≠ n.toNat → Tbl.find t.eng.triggers m = Tbl.find s.eng.triggers m) ∧
          (k.kind = 2 → t.eng.wake = true) ∧
          (k.kind = 3 → ∃ tr, (t.eng.queue k.queue.toNat).triggers = (s.eng.queue k.queue.toNat).triggers ++ [tr] ∧
            tr.data = k.image ∧ tr.from' = none) ∧
          (k.kind = 4 → ∃ q ∈ t.eng.pend, q.code = 0x19 ∧ q.source = n.toNat) ∧
          ∀ z, (within pa.addr 8 z →
              memRead t.w.mem z = byteOf (2 ^ 63 + late + skew + lateness) (z - pa.addr)) ∧
            (¬ within pa.addr 8 z → memRead t.w.mem z = memRead s.w.mem z)) ∧
      (∀ pa w1, 16 * k.due ≤ s.w.time → k.kind = 1 →
        ((s.eng.streamCfg k.stream.toNat).modeOf ≠ mCPIO ∨ streamLink s.eng.cfg k.stream.toNat = none) →
        s.w.commandXlat s.cur uTIME k.asid k.ptroot k.priv k.xoff .write (k.addr + 24) = (.ok pa, w1) → PlainAt s pa →
        Memory.wf s.w.mem = true →
        ∃ t, exec (.triggerFire n) s = .next t ∧ t.cps = s.cps ∧ Tbl.find t.eng.triggers n.toNat = none ∧
          ∀ z, (within pa.addr 8 z → memRead t.w.mem z = byteOf (2 ^ 60) (z - pa.addr)) ∧
            (¬ within pa.addr 8 z → memRead t.w.mem z = memRead s.w.mem z)))

/-- In its cycle an enabled context with a record older than the present time, of a die on which no TMARK is waiting, and a place writes the oldest record, or first one that counts the events lost, at BASE + 16 (WIDX mod 2^LOG2N) and advances WIDX; without a place a lossy context discards the record and a lossless one waits; in other cycles, and while the record is of this instant, nothing happens. A host writes SBASE and SCFG; while EN = 1, BASE and the fields that shape the ring answer BUSY; setting EN zeroes the counts; reserved bits and a LOG2N outside 8 to 24 answer PERM. A host, or privileged code of the partition served, writes SRIDX with a value not ahead of WIDX nor more than the ring behind it; others get PERM. That a record waits until its time has passed is the model's way to keep the order of R422 (log 32). (R416, R418, R419, R422) -/
def Obligations.TraceSinks : Prop :=
  ∀ (s : State) (die : BitVec 2) (x : BitVec 3) (v : Word) (a : Agent),
    let k := 8 * die.toNat + x.toNat
    let c := s.w.sink k
    let d (t : State) := t.w.sink k
    let only (r : BitVec 2) : State := { s with w := { s.w with resp := r } }
    let sat (n : BitVec 32) : BitVec 32 := if n = BitVec.allOnes 32 then n else n + 1
    let place : Prop := (c.widx - c.ridx).toNat < 2 ^ c.log2n
    let at0 := (c.base.extractLsb' 12 38).toNat * 4096 + 16 * (c.widx.toNat % 2 ^ c.log2n)
    let served : Prop := a = .host ∨ ∃ m, a = .core m ∧ (cpOf s.cps m.toNat).prv = true ∧ c.part = (s.w.eng m.toNat).partid
    let sets (i : Instr) (p : Sink → Prop) : Prop := ∃ t, exec i s = .next t ∧ UnitsOnly s t ∧ t.w.resp = 0 ∧ p (d t) ∧
      ∀ j, j ≠ k → t.w.sink j = s.w.sink j
    let good : Prop := v.extractLsb' 11 37 = 0 ∧ v.extractLsb' 5 4 = 0 ∧
      (v.getLsbD 9 = true → 8 ≤ (v.extractLsb' 0 5).toNat ∧ (v.extractLsb' 0 5).toNat ≤ 24)
    let shape : Prop := v.extractLsb' 48 16 = c.part ∧ v.getLsbD 10 = c.lossless ∧ (v.extractLsb' 0 5).toNat = c.log2n
    ((c.en = false ∨ s.w.cycle % 8 ≠ x.toNat) → exec (.sinkRecordWrite die x) s = .next s) ∧
    (∀ r rest, c.en = true → s.w.cycle % 8 = x.toNat → c.buf = r :: rest → c.waiting = [] →
      (s.w.time ≤ (r.extractLsb' 64 64).toNat → exec (.sinkRecordWrite die x) s = .next s) ∧
      ((r.extractLsb' 64 64).toNat < s.w.time → (∀ m, (s.w.eng m).marking = none) →
      (place → Memory.wf s.w.mem = true → (∃ m, regionOf at0 = .dram m) →
        ∃ t r', exec (.sinkRecordWrite die x) s = .next t ∧ t.cps = s.cps ∧ (d t).widx = c.widx + 1 ∧
          (d t).lost = 0 ∧ (d t).drops = c.drops ∧ (c.lost = 0 → r' = r ∧ (d t).buf = rest) ∧
          (c.lost ≠ 0 → (d t).buf = c.buf ∧ r'.extractLsb' 56 8 = 0x21 ∧
            r'.extractLsb' 0 32 = BitVec.ofNat 32 (min c.lost (2 ^ 32 - 1))) ∧
          ∀ z, (within at0 16 z → memRead t.w.mem z = byteOf r'.toNat (z - at0)) ∧
            (¬ within at0 16 z → memRead t.w.mem z = memRead s.w.mem z)) ∧
      (¬ place → c.lossless = true → exec (.sinkRecordWrite die x) s = .next s) ∧
      (¬ place → c.lossless = false → ∃ t, exec (.sinkRecordWrite die x) s = .next t ∧ UnitsOnly s t ∧
        (d t).buf = rest ∧ (d t).widx = c.widx ∧ (d t).drops = sat c.drops ∧ (d t).lost = c.lost + 1))) ∧
    (a ≠ .host → exec (.sbaseWrite die x v a) s = .next (only 2) ∧ exec (.scfgWrite die x v a) s = .next (only 2)) ∧
    (a = .host →
      (v.extractLsb' 0 12 ≠ 0 ∨ v.extractLsb' 50 14 ≠ 0 → exec (.sbaseWrite die x v a) s = .next (only 2)) ∧
      (v.extractLsb' 0 12 = 0 → v.extractLsb' 50 14 = 0 →
        (c.en = true → exec (.sbaseWrite die x v a) s = .next (only 3)) ∧
        (c.en = false → sets (.sbaseWrite die x v a) (fun y => y = { c with base := v }))) ∧
      (¬ good → exec (.scfgWrite die x v a) s = .next (only 2)) ∧
      (good →
        (c.en = true → ¬ shape → exec (.scfgWrite die x v a) s = .next (only 3)) ∧
        (c.en = true → shape → sets (.scfgWrite die x v a) (fun y => y = { c with cfg := v })) ∧
        (c.en = false → sets (.scfgWrite die x v a) (fun y => y.cfg = v ∧ y.base = c.base ∧ y.buf = c.buf ∧
          (v.getLsbD 9 = true → y.widx = 0 ∧ y.ridx = 0 ∧ y.drops = 0 ∧ y.stalls = 0) ∧
          (v.getLsbD 9 = false → y.widx = c.widx ∧ y.ridx = c.ridx ∧ y.drops = c.drops ∧ y.stalls = c.stalls))))) ∧
    (let released := v.extractLsb' 0 32
     let inRing : Prop := v.toNat < 2 ^ 32 ∧ (c.widx - released).toNat ≤ 2 ^ c.log2n
     (¬ (served ∧ inRing) → exec (.sridxWrite die x v a) s = .next (only 2)) ∧
     (served → inRing → sets (.sridxWrite die x v a) (fun y => y = { c with ridx := released })))

/-- A window takes only 8-byte writes at aligned offsets of a register: others answer DECODE, and a write by an agent that is neither a host nor privileged code of the owning partition or partition 0, of a read-only register or of one that only hosts write answers PERM. An owner's write of a VAT word sets it, of MCPOL sets it when [63:1] are zero; of any special register that the privileged view writes, with a legal value, makes it read as the value (WDOG: limit and count restarted) and no other special register changes, an illegal value answers PERM; a host's write of PLOCK and of a reach entry sets it when reserved bits are zero. A write frame that lies in DRAM or in one memory element in RAM mode stores its bytes, and no other byte of memory changes; one that runs past them, or is for a window or an absent address, gets DECODE. Who may write what is deduced in log 21, PERM by a non-owner and the answers of frames in log 33. (R141, R276, R277, R341, R399, R403, R406, R438) -/
def Obligations.WindowAccess : Prop :=
  ∀ (s : State) (addr : BitVec 50) (width : BitVec 2) (v : Word) (a : Agent) (data : List Byte),
    let i := Instr.windowWrite addr width v a
    let only (r : BitVec 2) : State := { s with w := { s.w with resp := r } }
    let sets (p : State → Prop) : Prop := ∃ t, exec i s = .next t ∧ t.w.resp = 0 ∧ t.w.mem = s.w.mem ∧ p t
    ((∀ c off, regionOf addr.toNat ≠ .window c off) ∨ width ≠ 3 → exec i s = .next (only 1)) ∧
    (∀ c off, regionOf addr.toNat = .window c off → width = 3 →
      let owner : Prop := a = .host ∨
        ∃ k, a = .core k ∧ (cpOf s.cps k.toNat).prv = true ∧
          ((s.w.eng k.toNat).partid = 0 ∨ (s.w.eng c).partid = (s.w.eng k.toNat).partid)
      (off % 8 ≠ 0 → exec i s = .next (only 1)) ∧
      (off = 0xD300 → a ≠ .host ∨ 2 ≤ v.toNat → exec i s = .next (only 2)) ∧
      (off = 0xD300 → a = .host → v.toNat < 2 →
        sets (fun t => t.cps = s.cps ∧ (t.w.eng c).plock = v ∧ ∀ m, m ≠ c → t.w.eng m = s.w.eng m)) ∧
      (∀ n, n < 64 → c = 0 → off = 0xF000 + 8 * n →
        (a ≠ .host ∨ v.extractLsb' 16 5 ≠ 0 → exec i s = .next (only 2)) ∧
        (a = .host → v.extractLsb' 16 5 = 0 → sets (fun t => t.cps = s.cps ∧ t.w.engs = s.w.engs ∧
          Tbl.get t.w.reach 0 n = v ∧ ∀ m, m ≠ n → Tbl.get t.w.reach 0 m = Tbl.get s.w.reach 0 m))) ∧
      (off % 8 = 0 → off < 0x8000 → (s.w.eng c).fenced = false → srView true (s.w.eng c).locked (off / 8) ≠ .absent →
        ¬ owner → exec i s = .next (only 2))) ∧
    (∀ c off, regionOf addr.toNat = .window c off → width = 3 → (s.w.eng c).fenced = false →
      (a = .host ∨ ∃ k, a = .core k ∧ (cpOf s.cps k.toNat).prv = true ∧
          ((s.w.eng k.toNat).partid = 0 ∨ (s.w.eng c).partid = (s.w.eng k.toNat).partid)) →
      (∀ n, n < 8 → off = 0x8000 + 8 * n → sets (fun t => t.cps = s.cps ∧ ((t.w.eng c).vat n).window = v ∧
        ((t.w.eng c).vat n).state = ((s.w.eng c).vat n).state ∧ (∀ m, m ≠ c → t.w.eng m = s.w.eng m) ∧
        ∀ m, m ≠ n → (t.w.eng c).vat m = (s.w.eng c).vat m)) ∧
      (off = 0xD200 → v.toNat < 2 → sets (fun t => t.cps = s.cps ∧ (t.w.eng c).mcpol = v ∧
        ∀ m, m ≠ c → t.w.eng m = s.w.eng m)) ∧
      (off = 0xD200 → 2 ≤ v.toNat → exec i s = .next (only 2)) ∧
      (∀ n, off = 8 * n → n < 0x1000 →
        let view := srView true (s.w.eng c).locked n
        (view = .absent → exec i s = .next (only 1)) ∧
        (view = .r ∨ (view = .rw ∧ s.srLegal c n v = false) → exec i s = .next (only 2)) ∧
        (view = .rw → s.srLegal c n v = true →
          sets (fun t => t.srRead c n = (if n = 0x024 then v.extractLsb' 0 32 ++ v.extractLsb' 0 32 else v) ∧
            (∀ m, m ≠ n → t.srRead c m = s.srRead c m) ∧ (∀ k, k ≠ c → cpOf t.cps k = cpOf s.cps k) ∧
            (∀ k, k ≠ c → t.w.eng k = s.w.eng k) ∧
            (n ≠ 0x000 → n ≠ 0x009 → n ≠ 0x022 → n ≠ 0x023 → n < 0x100 → t.w.eng c = s.w.eng c))))) ∧
    (∀ last, last = addr.toNat + (data.length - 1) →
      ((∃ c, regionOf addr.toNat = .dram c) ∧ (∃ c, regionOf last = .dram c)) ∨
        (∃ c e o o', regionOf addr.toNat = .pad c e o ∧ regionOf last = .pad c e o' ∧
          ((s.w.eng c).cfg e).bankMode = .ram) → Memory.wf s.w.mem = true →
      ∃ t, exec (.writeFrame addr data) s = .next t ∧ t.cps = s.cps ∧ t.w.resp = 0 ∧
        ∀ z, (within addr.toNat data.length z → memRead t.w.mem z = data.getD (z - addr.toNat) 0) ∧
          (¬ within addr.toNat data.length z → memRead t.w.mem z = memRead s.w.mem z)) ∧
    ((∃ c off, regionOf addr.toNat = .window c off) ∨ regionOf addr.toNat = .absent ∨
        ((∃ c, regionOf addr.toNat = .dram c) ∧ ∀ c, regionOf (addr.toNat + (data.length - 1)) ≠ .dram c) →
      exec (.writeFrame addr data) s = .next (only 1))

/-- For every well-formed instruction that a control processor fetches, with every operand at every value its encoding admits, decoding its word gives it back; and every word that decodes is the word of the well-formed instruction it decodes to. The same holds of the four bytes of the word, lowest address first, with whatever follows them left over. (R40, R41, R42, R43, R44, R45, R46, R47, R48) -/
def Obligations.EncodingRoundTrip : Prop :=
  ∀ (i : Instr) (w : BitVec 32) (rest : List Byte),
    (i.wellFormed = true → encode i = some w → decodeWord w = .ok i) ∧
    (decodeWord w = .ok i → i.wellFormed = true ∧ encode i = some w) ∧
    (decodeWord w = .ok i → decodeBytes (bytesOfWord w ++ rest) = .ok (i, rest))

/-- An ALU word with a function of 0x021 to 0x3FF, with W = 1 on a function without a .w form, with a nonzero b field on CLZ, CTZ, POPC or BSWAP, or with a b field of 3 to 31 on SEXT or ZEXT decodes to nothing, and a processor that fetches it takes ILLEGAL with nothing but the word in TINFO0 and TINFO2: no register is read. The worked words of the rule stand for the instructions it gives. (R152) -/
def Obligations.IllegalAluWords : Prop :=
  (∀ w : BitVec 32,
    let fn := (w.extractLsb' 0 10).toNat
    let b := (w.extractLsb' 11 5).toNat
    let noW := fn = 0x003 ∨ fn = 0x004 ∨ (0x009 ≤ fn ∧ fn ≤ 0x00C) ∨ (0x011 ≤ fn ∧ fn ≤ 0x01A) ∨ fn = 0x01E ∨ fn = 0x01F ∨
      fn = 0x020
    let bad := 0x021 ≤ fn ∨ (w.getLsbD 10 = true ∧ noW) ∨
      (b ≠ 0 ∧ (fn = 0x01B ∨ fn = 0x01C ∨ fn = 0x01D ∨ fn = 0x020)) ∨ (3 ≤ b ∧ (fn = 0x01E ∨ fn = 0x01F))
    w.extractLsb' 26 6 = 0x01 → bad →
      (∀ i, decodeWord w ≠ .ok i) ∧
      ∀ s s1 : State, s.fetch = .ok (w, s1) → ∃ t, s.fetchTurn = .after t ∧
        s1.cp.Trapped t.cp 0x01 false s1.cp.pc ⟨w.setWidth 64, 0, w.setWidth 64, 0⟩) ∧
  (decodeWord 0x04A11005 = .ok (.div 5 1 2 0) ∧ decodeWord 0x04632408 = .ok (.remu 3 3 4 1) ∧
    decodeWord 0x0464041B = .ok (.clz 3 4 1) ∧ decodeWord 0x04C7081E = .ok (.sext 6 7 1) ∧
    decodeWord 0x04420020 = .ok (.bswap 2 2))

/-- Words that the specification works out, of the immediate, branch, load, store, atomic, fence, stream-barrier and wait groups, decode to the instructions it gives for them. (R43, R154, R158, R344, R346, R347, R348) -/
def Obligations.DecodedWords : Prop :=
  decodeWord 0x18E5000C = .ok (.shli 7 5 12) ∧ decodeWord 0x18E5803F = .ok (.sari 7 5 63) ∧
  decodeWord 0x4C1F0000 = .ok (.jr 31) ∧ decodeWord 0x4C090001 = .ok (.callr 9) ∧
  decodeWord 0x40000000 = .ok (.jump 0) ∧ decodeWord 0x49485006 = .ok (.bgeu 4 5 6) ∧
  decodeWord 0x2949D400 = .ok (.ld 10 9 3 1 1 0) ∧ decodeWord 0x2C828001 = .ok (.ldu 4 2 2 0 0 1) ∧
  decodeWord 0x286503FF = .ok (.ld 3 5 0 0 0 0x3FF) ∧ decodeWord 0x30E4E800 = .ok (.st 7 4 3 2 2 0) ∧
  decodeWord 0x34095060 = .ok (.amoadd 0 9 10 3 0 0) ∧ decodeWord 0x34662858 = .ok (.amoadd 3 6 5 2 3 0) ∧
  decodeWord 0x38462080 = .ok (.casQ 2 6 4 0 0) ∧ decodeWord 0x3C000000 = .ok (.fence 0 0) ∧
  decodeWord 0x3C000012 = .ok (.fence 2 1) ∧ decodeWord 0x3C050084 = .ok (.sbar 5 2) ∧
  decodeWord 0x3C862908 = .ok (.wait 4 6 5 1 0) ∧ decodeWord 0x00000000 = .ok .nop

/-- When the turn that comes next belongs to a running processor with no cause to take, and the four bytes that it sees at the translated program counter decode to an instruction, the step is that instruction's exec, after the turn's cycles have passed and the fetch has been noted, and what every step settles behind it. A turn that is an event runs the event the same way. The turn that comes next is the head of the schedule; without one a cycle passes and the core in turn performs a queued command that can be, or else its walker reads an entry, or else its processor acts. Without a trace stall, a walk to wait for or edge ports the settling changes nothing; with a stall or a walk to wait for no processor and no byte of memory changes. The schedule is the model's own (log 5), a unit that the trace fabric holds up does not act (log 32), and an action that needs a walk is tried again (log 14). (R142, R145, R301, R420) -/
def Obligations.StepRunsDecoded : Prop :=
  ∀ (s s1 : State) (a : Act), s.nextTurn = (a, s1) →
    (∀ t0 rest, s.schedule = t0 :: rest → a = t0.act ∧
      s1 = { s.pass t0.dt t0.ns16 with schedule := rest, cur := t0.core.toNat }) ∧
    (s.schedule = [] → s1 = s.pass 1 0 ∧ (s1.performFirst = none →
        (s1.eng.walks.any Walk.live = true → a = .event .pageWalk) ∧ (s1.eng.walks.any Walk.live = false → a = .cp)) ∧
      (s1.performFirst ≠ none → a = .command s1.eng.commands.length)) ∧
    (∀ i t, a = .event i → i.isWord = false → s1.eventHeld i = false → exec i s1 = .next t → step s = .next (s1.settle t)) ∧
    (∀ i t pa w1, a = .cp → s1.w.heldUnit s1.cur uCP = false → s1.cp.mode = .running → s1.asyncDue = none →
      s1.translate .fetch s1.cp.pc = (.ok pa, w1) → PlainAt s1 pa → CleanAt s1 pa.addr 4 → s1.w.eccCe = [] →
      decodeBytes [s1.sees pa.addr, s1.sees (pa.addr + 1), s1.sees (pa.addr + 2), s1.sees (pa.addr + 3)] = .ok (i, []) →
      exec i ((s1.withWorld w1).withCp { s1.cp with fetched := s1.cp.pc }) = .next t →
      step s = .next (s1.settle t)) ∧
    (∀ t : State, t.w.stall = none → t.w.miss = none → (t.w.eng s1.cur).epActive = [] → s1.settle t = t) ∧
    (∀ t : State, (t.w.stall ≠ none ∨ t.w.miss ≠ none) →
      (s1.settle t).cps = s1.cps ∧ (s1.settle t).w.mem = s1.w.mem ∧ (s1.settle t).schedule = s1.schedule)

/-- After reset every special register of every core reads the reset value of its entry, the processor of core 0 is in the boot ROM in the privileged mode with XOFF and every other is held, memory is in its canonical form, and the registers are sound. (The boot ROM and the held processors are modes of the model, log 23.) (R134, R446) -/
def Obligations.ResetState : Prop :=
  State.reset.Sound ∧ Memory.wf State.reset.w.mem = true ∧
  ∀ c : Nat,
    (∀ n, State.reset.srRead c n = if n = 0x000 then cpid 0 c else if n = 0x001 then 0x03010001
      else if n = 0x002 then 0x11 else if n = 0x003 then 3 else if n = 0x009 then 64 else 0) ∧
    (cpOf State.reset.cps c).mode = (if c = 0 then .rom else .held)

/-- From every state in which, on every core, the program counter and TEPC are multiples of 4 and the reserved bits of TVB, MSTAT, TCAUSE, NBV, CURDCTL and PTROOT are zero, every step leads to such a state: whatever instruction, trap, event or host command it runs. (R14, R84, R103, R130, R137, R138, R352, R353) -/
def Obligations.StepKeepsRegisters : Prop :=
  ∀ s t : State, s.Sound → step s = .next t → t.Sound

/-- From every state whose memory lists its bytes at strictly rising addresses, none equal to what an unlisted address reads as, every step leads to such a state. (The form is the model's own, log 1.) (R276) -/
def Obligations.StepKeepsMemory : Prop :=
  ∀ s t : State, Memory.wf s.w.mem = true → step s = .next t → Memory.wf t.w.mem = true
end

