-- ==== Sys2Proof/Laws/Table.lean ====
section
/-! SUPPORT. What a write of a table leaves at every index. -/

namespace Sys2Proof

/-- One index of a table after a write of one index. -/
theorem Tbl.find_put {α : Type} (t : Tbl α) (i j : Nat) (x : α) :
    (t.put i x).find j = if j = i then some x else t.find j := by
  induction t with
  | nil => simp [Tbl.put, Tbl.find]
  | cons p t ih =>
    obtain ⟨k, y⟩ := p
    by_cases h1 : i < k
    · simp [Tbl.put, Tbl.find, h1]
    · by_cases h2 : i = k
      · subst h2
        by_cases h : j = i <;> simp [Tbl.put, Tbl.find, h]
      · simp only [Tbl.put, h1, h2, if_false, Tbl.find, ih]
        by_cases h3 : j = k
        · subst h3
          simp [show ¬ j = i from fun h => h2 h.symm]
        · simp [h3]

@[simp] theorem Tbl.get_put_same {α : Type} (t : Tbl α) (d x : α) (i : Nat) : (t.put i x).get d i = x := by
  simp [Tbl.get, Tbl.find_put]

theorem Tbl.get_put_ne {α : Type} (t : Tbl α) (d x : α) {i j : Nat} (h : j ≠ i) :
    (t.put i x).get d j = t.get d j := by
  simp [Tbl.get, Tbl.find_put, h]

theorem Tbl.get_put {α : Type} (t : Tbl α) (d x : α) (i j : Nat) :
    (t.put i x).get d j = if j = i then x else t.get d j := by
  by_cases h : j = i <;> simp [Tbl.get, Tbl.find_put, h]

@[simp] theorem Tbl.find_nil {α : Type} (i : Nat) : Tbl.find ([] : Tbl α) i = none := rfl

@[simp] theorem Tbl.get_nil {α : Type} (d : α) (i : Nat) : Tbl.get ([] : Tbl α) d i = d := rfl

end Sys2Proof
end

