-- ==== Sys2Proof/Laws/State.lean ====
section
/-! SUPPORT. What each update of the state leaves in each field. -/

namespace Sys2Proof.Machine

@[simp] theorem State.withCp_cps (s : State) (c : Cp) : (s.withCp c).cps = Tbl.put s.cps s.cur c := rfl
@[simp] theorem State.withCp_w (s : State) (c : Cp) : (s.withCp c).w = s.w := rfl
@[simp] theorem State.withCp_cur (s : State) (c : Cp) : (s.withCp c).cur = s.cur := rfl
@[simp] theorem State.withCp_schedule (s : State) (c : Cp) : (s.withCp c).schedule = s.schedule := rfl
@[simp] theorem State.withWorld_cps (s : State) (w : World) : (s.withWorld w).cps = s.cps := rfl
@[simp] theorem State.withWorld_w (s : State) (w : World) : (s.withWorld w).w = w := rfl
@[simp] theorem State.withWorld_cur (s : State) (w : World) : (s.withWorld w).cur = s.cur := rfl
@[simp] theorem State.withWorld_schedule (s : State) (w : World) : (s.withWorld w).schedule = s.schedule := rfl
@[simp] theorem State.withEng_cps (s : State) (e : Eng) : (s.withEng e).cps = s.cps := rfl
@[simp] theorem State.withEng_w (s : State) (e : Eng) : (s.withEng e).w = s.w.setEng s.cur e := rfl
@[simp] theorem State.withEng_cur (s : State) (e : Eng) : (s.withEng e).cur = s.cur := rfl
@[simp] theorem State.withEng_schedule (s : State) (e : Eng) : (s.withEng e).schedule = s.schedule := rfl
@[simp] theorem World.setEng_cycle (w : World) (c : Nat) (e : Eng) : (w.setEng c e).cycle = w.cycle := rfl
@[simp] theorem World.setEng_time (w : World) (c : Nat) (e : Eng) : (w.setEng c e).time = w.time := rfl
@[simp] theorem World.setEng_free (w : World) (c : Nat) (e : Eng) : (w.setEng c e).free = w.free := rfl
@[simp] theorem World.setEng_mem (w : World) (c : Nat) (e : Eng) : (w.setEng c e).mem = w.mem := rfl
@[simp] theorem World.setEng_eccUe (w : World) (c : Nat) (e : Eng) : (w.setEng c e).eccUe = w.eccUe := rfl
@[simp] theorem World.setEng_frames (w : World) (c : Nat) (e : Eng) : (w.setEng c e).frames = w.frames := rfl
@[simp] theorem World.setEng_timeState (w : World) (c : Nat) (e : Eng) : (w.setEng c e).timeState = w.timeState := rfl
@[simp] theorem World.setEng_timeLocked (w : World) (c : Nat) (e : Eng) : (w.setEng c e).timeLocked = w.timeLocked := rfl
@[simp] theorem World.setEng_timeRaised (w : World) (c : Nat) (e : Eng) : (w.setEng c e).timeRaised = w.timeRaised := rfl
@[simp] theorem World.setEng_timeEvents (w : World) (c : Nat) (e : Eng) : (w.setEng c e).timeEvents = w.timeEvents := rfl
@[simp] theorem World.setEng_miss (w : World) (c : Nat) (e : Eng) : (w.setEng c e).miss = w.miss := rfl
@[simp] theorem World.setEng_utcOff (w : World) (c : Nat) (e : Eng) : (w.setEng c e).utcOff = w.utcOff := rfl
@[simp] theorem World.setEng_offset (w : World) (c : Nat) (e : Eng) : (w.setEng c e).offset = w.offset := rfl
@[simp] theorem World.setEng_sinks (w : World) (c : Nat) (e : Eng) : (w.setEng c e).sinks = w.sinks := rfl
@[simp] theorem World.setEng_stall (w : World) (c : Nat) (e : Eng) : (w.setEng c e).stall = w.stall := rfl
@[simp] theorem World.setEng_held (w : World) (c : Nat) (e : Eng) : (w.setEng c e).held = w.held := rfl
@[simp] theorem World.setEng_eccCe (w : World) (c : Nat) (e : Eng) : (w.setEng c e).eccCe = w.eccCe := rfl
@[simp] theorem World.setEng_nets (w : World) (c : Nat) (e : Eng) : (w.setEng c e).nets = w.nets := rfl
@[simp] theorem World.setEng_credits (w : World) (c : Nat) (e : Eng) : (w.setEng c e).credits = w.credits := rfl
@[simp] theorem World.setEng_reduces (w : World) (c : Nat) (e : Eng) : (w.setEng c e).reduces = w.reduces := rfl
@[simp] theorem World.setEng_tokensIn (w : World) (c : Nat) (e : Eng) : (w.setEng c e).tokensIn = w.tokensIn := rfl
@[simp] theorem World.setEng_reducesIn (w : World) (c : Nat) (e : Eng) : (w.setEng c e).reducesIn = w.reducesIn := rfl
@[simp] theorem World.setEng_jobs (w : World) (c : Nat) (e : Eng) : (w.setEng c e).jobs = w.jobs := rfl
@[simp] theorem World.setEng_reach (w : World) (c : Nat) (e : Eng) : (w.setEng c e).reach = w.reach := rfl
@[simp] theorem World.setEng_reachWas (w : World) (c : Nat) (e : Eng) : (w.setEng c e).reachWas = w.reachWas := rfl
@[simp] theorem World.setEng_reachAt (w : World) (c : Nat) (e : Eng) : (w.setEng c e).reachAt = w.reachAt := rfl
@[simp] theorem World.setEng_host (w : World) (c : Nat) (e : Eng) : (w.setEng c e).host = w.host := rfl
@[simp] theorem World.setEng_links (w : World) (c : Nat) (e : Eng) : (w.setEng c e).links = w.links := rfl
@[simp] theorem World.setEng_images (w : World) (c : Nat) (e : Eng) : (w.setEng c e).images = w.images := rfl
@[simp] theorem World.setEng_aclk (w : World) (c : Nat) (e : Eng) : (w.setEng c e).aclk = w.aclk := rfl
@[simp] theorem World.setEng_ppsOut (w : World) (c : Nat) (e : Eng) : (w.setEng c e).ppsOut = w.ppsOut := rfl
@[simp] theorem World.setEng_ppsIn (w : World) (c : Nat) (e : Eng) : (w.setEng c e).ppsIn = w.ppsIn := rfl
@[simp] theorem World.setEng_resp (w : World) (c : Nat) (e : Eng) : (w.setEng c e).resp = w.resp := rfl

/-- The units of a core after those of one core were replaced. -/
theorem World.eng_setEng (w : World) (c k : Nat) (e : Eng) :
    (w.setEng c e).eng k = if k = c then e else w.eng k := Tbl.get_put _ _ _ _ _

@[simp] theorem World.eng_setEng_same (w : World) (c : Nat) (e : Eng) : (w.setEng c e).eng c = e := by
  simp [World.eng_setEng]

theorem World.eng_setEng_ne (w : World) {c k : Nat} (e : Eng) (h : k ≠ c) : (w.setEng c e).eng k = w.eng k := by
  simp [World.eng_setEng, h]

@[simp] theorem cpOf_put_same (cps : Tbl Cp) (c : Nat) (p : Cp) : cpOf (Tbl.put cps c p) c = p := by
  simp [cpOf]

theorem cpOf_put_ne (cps : Tbl Cp) {c k : Nat} (p : Cp) (h : k ≠ c) : cpOf (Tbl.put cps c p) k = cpOf cps k := by
  simp [cpOf, Tbl.get, Tbl.find_put, h]

@[simp] theorem State.withCp_cp (s : State) (c : Cp) : (s.withCp c).cp = c := cpOf_put_same _ _ _
@[simp] theorem State.withWorld_cp (s : State) (w : World) : (s.withWorld w).cp = s.cp := rfl
@[simp] theorem State.withEng_cp (s : State) (e : Eng) : (s.withEng e).cp = s.cp := rfl
@[simp] theorem State.withCp_eng (s : State) (c : Cp) : (s.withCp c).eng = s.eng := rfl
@[simp] theorem State.withEng_eng (s : State) (e : Eng) : (s.withEng e).eng = e := World.eng_setEng_same _ _ _
@[simp] theorem State.withCp_withCp (s : State) (c d : Cp) : cpOf ((s.withCp c).withCp d).cps s.cur = d := by
  simp

theorem State.withCp_others (s : State) (c : Cp) (k : Nat) (h : k ≠ s.cur) : cpOf (s.withCp c).cps k = cpOf s.cps k :=
  cpOf_put_ne _ _ h

/-! A general register. -/

@[simp] theorem Cp.setReg_pc (c : Cp) (r : Reg) (v : Word) : (c.setReg r v).pc = c.pc := by unfold Cp.setReg; split <;> rfl
@[simp] theorem Cp.setReg_mode (c : Cp) (r : Reg) (v : Word) : (c.setReg r v).mode = c.mode := by unfold Cp.setReg; split <;> rfl
@[simp] theorem Cp.setReg_mstat (c : Cp) (r : Reg) (v : Word) : (c.setReg r v).mstat = c.mstat := by unfold Cp.setReg; split <;> rfl
@[simp] theorem Cp.setReg_nbv (c : Cp) (r : Reg) (v : Word) : (c.setReg r v).nbv = c.nbv := by unfold Cp.setReg; split <;> rfl
@[simp] theorem Cp.setReg_curdctl (c : Cp) (r : Reg) (v : Word) : (c.setReg r v).curdctl = c.curdctl := by unfold Cp.setReg; split <;> rfl
@[simp] theorem Cp.setReg_cycleOff (c : Cp) (r : Reg) (v : Word) : (c.setReg r v).cycleOff = c.cycleOff := by unfold Cp.setReg; split <;> rfl
@[simp] theorem Cp.setReg_retired (c : Cp) (r : Reg) (v : Word) : (c.setReg r v).retired = c.retired := by unfold Cp.setReg; split <;> rfl
@[simp] theorem Cp.setReg_unitid (c : Cp) (r : Reg) (v : Word) : (c.setReg r v).unitid = c.unitid := by unfold Cp.setReg; split <;> rfl
@[simp] theorem Cp.setReg_joblpb (c : Cp) (r : Reg) (v : Word) : (c.setReg r v).joblpb = c.joblpb := by unfold Cp.setReg; split <;> rfl
@[simp] theorem Cp.setReg_tvb (c : Cp) (r : Reg) (v : Word) : (c.setReg r v).tvb = c.tvb := by unfold Cp.setReg; split <;> rfl
@[simp] theorem Cp.setReg_tcause (c : Cp) (r : Reg) (v : Word) : (c.setReg r v).tcause = c.tcause := by unfold Cp.setReg; split <;> rfl
@[simp] theorem Cp.setReg_tepc (c : Cp) (r : Reg) (v : Word) : (c.setReg r v).tepc = c.tepc := by unfold Cp.setReg; split <;> rfl
@[simp] theorem Cp.setReg_tinfo (c : Cp) (r : Reg) (v : Word) : (c.setReg r v).tinfo = c.tinfo := by unfold Cp.setReg; split <;> rfl
@[simp] theorem Cp.setReg_tscratch (c : Cp) (r : Reg) (v : Word) : (c.setReg r v).tscratch = c.tscratch := by unfold Cp.setReg; split <;> rfl
@[simp] theorem Cp.setReg_asid (c : Cp) (r : Reg) (v : Word) : (c.setReg r v).asid = c.asid := by unfold Cp.setReg; split <;> rfl
@[simp] theorem Cp.setReg_ptroot (c : Cp) (r : Reg) (v : Word) : (c.setReg r v).ptroot = c.ptroot := by unfold Cp.setReg; split <;> rfl
@[simp] theorem Cp.setReg_wdogLimit (c : Cp) (r : Reg) (v : Word) : (c.setReg r v).wdogLimit = c.wdogLimit := by unfold Cp.setReg; split <;> rfl
@[simp] theorem Cp.setReg_wdogStart (c : Cp) (r : Reg) (v : Word) : (c.setReg r v).wdogStart = c.wdogStart := by unfold Cp.setReg; split <;> rfl
@[simp] theorem Cp.setReg_locked (c : Cp) (r : Reg) (v : Word) : (c.setReg r v).locked = c.locked := by unfold Cp.setReg; split <;> rfl
@[simp] theorem Cp.setReg_waitFrom (c : Cp) (r : Reg) (v : Word) : (c.setReg r v).waitFrom = c.waitFrom := by unfold Cp.setReg; split <;> rfl
@[simp] theorem Cp.setReg_fetched (c : Cp) (r : Reg) (v : Word) : (c.setReg r v).fetched = c.fetched := by unfold Cp.setReg; split <;> rfl
@[simp] theorem Cp.setReg_asked (c : Cp) (r : Reg) (v : Word) : (c.setReg r v).asked = c.asked := by unfold Cp.setReg; split <;> rfl
@[simp] theorem Cp.setReg_winSrs (c : Cp) (r : Reg) (v : Word) : (c.setReg r v).winSrs = c.winSrs := by unfold Cp.setReg; split <;> rfl
@[simp] theorem Cp.setReg_winPrv (c : Cp) (r : Reg) (v : Word) : (c.setReg r v).winPrv = c.winPrv := by unfold Cp.setReg; split <;> rfl
@[simp] theorem Cp.setReg_winAt (c : Cp) (r : Reg) (v : Word) : (c.setReg r v).winAt = c.winAt := by unfold Cp.setReg; split <;> rfl
@[simp] theorem Cp.advance_gpr (c : Cp) : c.advance.gpr = c.gpr := rfl
@[simp] theorem Cp.advance_pc (c : Cp) : c.advance.pc = c.pc + 4 := rfl
@[simp] theorem Cp.advance_mode (c : Cp) : c.advance.mode = c.mode := rfl
@[simp] theorem Cp.advance_mstat (c : Cp) : c.advance.mstat = c.mstat := rfl
@[simp] theorem Cp.advance_nbv (c : Cp) : c.advance.nbv = c.nbv := rfl
@[simp] theorem Cp.advance_curdctl (c : Cp) : c.advance.curdctl = c.curdctl := rfl
@[simp] theorem Cp.advance_cycleOff (c : Cp) : c.advance.cycleOff = c.cycleOff := rfl
@[simp] theorem Cp.advance_retired (c : Cp) : c.advance.retired = c.retired + 1 := rfl
@[simp] theorem Cp.advance_unitid (c : Cp) : c.advance.unitid = c.unitid := rfl
@[simp] theorem Cp.advance_joblpb (c : Cp) : c.advance.joblpb = c.joblpb := rfl
@[simp] theorem Cp.advance_tvb (c : Cp) : c.advance.tvb = c.tvb := rfl
@[simp] theorem Cp.advance_tcause (c : Cp) : c.advance.tcause = c.tcause := rfl
@[simp] theorem Cp.advance_tepc (c : Cp) : c.advance.tepc = c.tepc := rfl
@[simp] theorem Cp.advance_tinfo (c : Cp) : c.advance.tinfo = c.tinfo := rfl
@[simp] theorem Cp.advance_tscratch (c : Cp) : c.advance.tscratch = c.tscratch := rfl
@[simp] theorem Cp.advance_asid (c : Cp) : c.advance.asid = c.asid := rfl
@[simp] theorem Cp.advance_ptroot (c : Cp) : c.advance.ptroot = c.ptroot := rfl
@[simp] theorem Cp.advance_wdogLimit (c : Cp) : c.advance.wdogLimit = c.wdogLimit := rfl
@[simp] theorem Cp.advance_wdogStart (c : Cp) : c.advance.wdogStart = c.wdogStart := rfl
@[simp] theorem Cp.advance_locked (c : Cp) : c.advance.locked = c.locked := rfl
@[simp] theorem Cp.advance_waitFrom (c : Cp) : c.advance.waitFrom = c.waitFrom := rfl
@[simp] theorem Cp.advance_fetched (c : Cp) : c.advance.fetched = c.fetched := rfl
@[simp] theorem Cp.advance_asked (c : Cp) : c.advance.asked = none := rfl
@[simp] theorem Cp.advance_winSrs (c : Cp) : c.advance.winSrs = c.winSrs := rfl
@[simp] theorem Cp.advance_winPrv (c : Cp) : c.advance.winPrv = c.winPrv := rfl
@[simp] theorem Cp.advance_winAt (c : Cp) : c.advance.winAt = c.winAt := rfl
@[simp] theorem Cp.goto_gpr (c : Cp) (p : Word) : (c.goto p).gpr = c.gpr := rfl
@[simp] theorem Cp.goto_pc (c : Cp) (p : Word) : (c.goto p).pc = p := rfl
@[simp] theorem Cp.goto_mode (c : Cp) (p : Word) : (c.goto p).mode = c.mode := rfl
@[simp] theorem Cp.goto_mstat (c : Cp) (p : Word) : (c.goto p).mstat = c.mstat := rfl
@[simp] theorem Cp.goto_nbv (c : Cp) (p : Word) : (c.goto p).nbv = c.nbv := rfl
@[simp] theorem Cp.goto_curdctl (c : Cp) (p : Word) : (c.goto p).curdctl = c.curdctl := rfl
@[simp] theorem Cp.goto_cycleOff (c : Cp) (p : Word) : (c.goto p).cycleOff = c.cycleOff := rfl
@[simp] theorem Cp.goto_retired (c : Cp) (p : Word) : (c.goto p).retired = c.retired + 1 := rfl
@[simp] theorem Cp.goto_unitid (c : Cp) (p : Word) : (c.goto p).unitid = c.unitid := rfl
@[simp] theorem Cp.goto_joblpb (c : Cp) (p : Word) : (c.goto p).joblpb = c.joblpb := rfl
@[simp] theorem Cp.goto_tvb (c : Cp) (p : Word) : (c.goto p).tvb = c.tvb := rfl
@[simp] theorem Cp.goto_tcause (c : Cp) (p : Word) : (c.goto p).tcause = c.tcause := rfl
@[simp] theorem Cp.goto_tepc (c : Cp) (p : Word) : (c.goto p).tepc = c.tepc := rfl
@[simp] theorem Cp.goto_tinfo (c : Cp) (p : Word) : (c.goto p).tinfo = c.tinfo := rfl
@[simp] theorem Cp.goto_tscratch (c : Cp) (p : Word) : (c.goto p).tscratch = c.tscratch := rfl
@[simp] theorem Cp.goto_asid (c : Cp) (p : Word) : (c.goto p).asid = c.asid := rfl
@[simp] theorem Cp.goto_ptroot (c : Cp) (p : Word) : (c.goto p).ptroot = c.ptroot := rfl
@[simp] theorem Cp.goto_wdogLimit (c : Cp) (p : Word) : (c.goto p).wdogLimit = c.wdogLimit := rfl
@[simp] theorem Cp.goto_wdogStart (c : Cp) (p : Word) : (c.goto p).wdogStart = c.wdogStart := rfl
@[simp] theorem Cp.goto_locked (c : Cp) (p : Word) : (c.goto p).locked = c.locked := rfl
@[simp] theorem Cp.goto_waitFrom (c : Cp) (p : Word) : (c.goto p).waitFrom = c.waitFrom := rfl
@[simp] theorem Cp.goto_fetched (c : Cp) (p : Word) : (c.goto p).fetched = c.fetched := rfl
@[simp] theorem Cp.goto_asked (c : Cp) (p : Word) : (c.goto p).asked = none := rfl
@[simp] theorem Cp.goto_winSrs (c : Cp) (p : Word) : (c.goto p).winSrs = c.winSrs := rfl
@[simp] theorem Cp.goto_winPrv (c : Cp) (p : Word) : (c.goto p).winPrv = c.winPrv := rfl
@[simp] theorem Cp.goto_winAt (c : Cp) (p : Word) : (c.goto p).winAt = c.winAt := rfl
@[simp] theorem Cp.enterTrap_gpr (c : Cp) (k : BitVec 8) (y : Bool) (epc : Word) (i : TInfo) : (c.enterTrap k y epc i).gpr = c.gpr := rfl
@[simp] theorem Cp.enterTrap_pc (c : Cp) (k : BitVec 8) (y : Bool) (epc : Word) (i : TInfo) : (c.enterTrap k y epc i).pc = c.tvb + 64 * k.setWidth 64 := rfl
@[simp] theorem Cp.enterTrap_mode (c : Cp) (k : BitVec 8) (y : Bool) (epc : Word) (i : TInfo) : (c.enterTrap k y epc i).mode = c.mode := rfl
@[simp] theorem Cp.enterTrap_mstat (c : Cp) (k : BitVec 8) (y : Bool) (epc : Word) (i : TInfo) : (c.enterTrap k y epc i).mstat = mstatOf true false c.prv c.ie c.xoff := rfl
@[simp] theorem Cp.enterTrap_nbv (c : Cp) (k : BitVec 8) (y : Bool) (epc : Word) (i : TInfo) : (c.enterTrap k y epc i).nbv = c.nbv := rfl
@[simp] theorem Cp.enterTrap_curdctl (c : Cp) (k : BitVec 8) (y : Bool) (epc : Word) (i : TInfo) : (c.enterTrap k y epc i).curdctl = c.curdctl := rfl
@[simp] theorem Cp.enterTrap_cycleOff (c : Cp) (k : BitVec 8) (y : Bool) (epc : Word) (i : TInfo) : (c.enterTrap k y epc i).cycleOff = c.cycleOff := rfl
@[simp] theorem Cp.enterTrap_retired (c : Cp) (k : BitVec 8) (y : Bool) (epc : Word) (i : TInfo) : (c.enterTrap k y epc i).retired = c.retired := rfl
@[simp] theorem Cp.enterTrap_unitid (c : Cp) (k : BitVec 8) (y : Bool) (epc : Word) (i : TInfo) : (c.enterTrap k y epc i).unitid = c.unitid := rfl
@[simp] theorem Cp.enterTrap_joblpb (c : Cp) (k : BitVec 8) (y : Bool) (epc : Word) (i : TInfo) : (c.enterTrap k y epc i).joblpb = c.joblpb := rfl
@[simp] theorem Cp.enterTrap_tvb (c : Cp) (k : BitVec 8) (y : Bool) (epc : Word) (i : TInfo) : (c.enterTrap k y epc i).tvb = c.tvb := rfl
@[simp] theorem Cp.enterTrap_tcause (c : Cp) (k : BitVec 8) (y : Bool) (epc : Word) (i : TInfo) : (c.enterTrap k y epc i).tcause = BitVec.ofBool y ++ (0 : BitVec 55) ++ k := rfl
@[simp] theorem Cp.enterTrap_tepc (c : Cp) (k : BitVec 8) (y : Bool) (epc : Word) (i : TInfo) : (c.enterTrap k y epc i).tepc = epc := rfl
@[simp] theorem Cp.enterTrap_tinfo (c : Cp) (k : BitVec 8) (y : Bool) (epc : Word) (i : TInfo) : (c.enterTrap k y epc i).tinfo = i := rfl
@[simp] theorem Cp.enterTrap_tscratch (c : Cp) (k : BitVec 8) (y : Bool) (epc : Word) (i : TInfo) : (c.enterTrap k y epc i).tscratch = c.tscratch := rfl
@[simp] theorem Cp.enterTrap_asid (c : Cp) (k : BitVec 8) (y : Bool) (epc : Word) (i : TInfo) : (c.enterTrap k y epc i).asid = c.asid := rfl
@[simp] theorem Cp.enterTrap_ptroot (c : Cp) (k : BitVec 8) (y : Bool) (epc : Word) (i : TInfo) : (c.enterTrap k y epc i).ptroot = c.ptroot := rfl
@[simp] theorem Cp.enterTrap_wdogLimit (c : Cp) (k : BitVec 8) (y : Bool) (epc : Word) (i : TInfo) : (c.enterTrap k y epc i).wdogLimit = c.wdogLimit := rfl
@[simp] theorem Cp.enterTrap_wdogStart (c : Cp) (k : BitVec 8) (y : Bool) (epc : Word) (i : TInfo) : (c.enterTrap k y epc i).wdogStart = c.wdogStart := rfl
@[simp] theorem Cp.enterTrap_locked (c : Cp) (k : BitVec 8) (y : Bool) (epc : Word) (i : TInfo) : (c.enterTrap k y epc i).locked = false := rfl
@[simp] theorem Cp.enterTrap_waitFrom (c : Cp) (k : BitVec 8) (y : Bool) (epc : Word) (i : TInfo) : (c.enterTrap k y epc i).waitFrom = none := rfl
@[simp] theorem Cp.enterTrap_fetched (c : Cp) (k : BitVec 8) (y : Bool) (epc : Word) (i : TInfo) : (c.enterTrap k y epc i).fetched = c.fetched := rfl
@[simp] theorem Cp.enterTrap_asked (c : Cp) (k : BitVec 8) (y : Bool) (epc : Word) (i : TInfo) : (c.enterTrap k y epc i).asked = none := rfl
@[simp] theorem Cp.enterTrap_winSrs (c : Cp) (k : BitVec 8) (y : Bool) (epc : Word) (i : TInfo) : (c.enterTrap k y epc i).winSrs = c.winSrs := rfl
@[simp] theorem Cp.enterTrap_winPrv (c : Cp) (k : BitVec 8) (y : Bool) (epc : Word) (i : TInfo) : (c.enterTrap k y epc i).winPrv = c.winPrv := rfl
@[simp] theorem Cp.enterTrap_winAt (c : Cp) (k : BitVec 8) (y : Bool) (epc : Word) (i : TInfo) : (c.enterTrap k y epc i).winAt = c.winAt := rfl
@[simp] theorem Cp.leaveTrap_gpr (c : Cp) : c.leaveTrap.gpr = c.gpr := rfl
@[simp] theorem Cp.leaveTrap_pc (c : Cp) : c.leaveTrap.pc = c.tepc := rfl
@[simp] theorem Cp.leaveTrap_mode (c : Cp) : c.leaveTrap.mode = c.mode := rfl
@[simp] theorem Cp.leaveTrap_mstat (c : Cp) : c.leaveTrap.mstat = mstatOf (c.mstat.getLsbD 2) (c.mstat.getLsbD 3) false false c.xoff := rfl
@[simp] theorem Cp.leaveTrap_nbv (c : Cp) : c.leaveTrap.nbv = c.nbv := rfl
@[simp] theorem Cp.leaveTrap_curdctl (c : Cp) : c.leaveTrap.curdctl = c.curdctl := rfl
@[simp] theorem Cp.leaveTrap_cycleOff (c : Cp) : c.leaveTrap.cycleOff = c.cycleOff := rfl
@[simp] theorem Cp.leaveTrap_retired (c : Cp) : c.leaveTrap.retired = c.retired + 1 := rfl
@[simp] theorem Cp.leaveTrap_unitid (c : Cp) : c.leaveTrap.unitid = c.unitid := rfl
@[simp] theorem Cp.leaveTrap_joblpb (c : Cp) : c.leaveTrap.joblpb = c.joblpb := rfl
@[simp] theorem Cp.leaveTrap_tvb (c : Cp) : c.leaveTrap.tvb = c.tvb := rfl
@[simp] theorem Cp.leaveTrap_tcause (c : Cp) : c.leaveTrap.tcause = c.tcause := rfl
@[simp] theorem Cp.leaveTrap_tepc (c : Cp) : c.leaveTrap.tepc = c.tepc := rfl
@[simp] theorem Cp.leaveTrap_tinfo (c : Cp) : c.leaveTrap.tinfo = c.tinfo := rfl
@[simp] theorem Cp.leaveTrap_tscratch (c : Cp) : c.leaveTrap.tscratch = c.tscratch := rfl
@[simp] theorem Cp.leaveTrap_asid (c : Cp) : c.leaveTrap.asid = c.asid := rfl
@[simp] theorem Cp.leaveTrap_ptroot (c : Cp) : c.leaveTrap.ptroot = c.ptroot := rfl
@[simp] theorem Cp.leaveTrap_wdogLimit (c : Cp) : c.leaveTrap.wdogLimit = c.wdogLimit := rfl
@[simp] theorem Cp.leaveTrap_wdogStart (c : Cp) : c.leaveTrap.wdogStart = c.wdogStart := rfl
@[simp] theorem Cp.leaveTrap_locked (c : Cp) : c.leaveTrap.locked = c.locked := rfl
@[simp] theorem Cp.leaveTrap_waitFrom (c : Cp) : c.leaveTrap.waitFrom = c.waitFrom := rfl
@[simp] theorem Cp.leaveTrap_fetched (c : Cp) : c.leaveTrap.fetched = c.fetched := rfl
@[simp] theorem Cp.leaveTrap_asked (c : Cp) : c.leaveTrap.asked = none := rfl
@[simp] theorem Cp.leaveTrap_winSrs (c : Cp) : c.leaveTrap.winSrs = c.winSrs := rfl
@[simp] theorem Cp.leaveTrap_winPrv (c : Cp) : c.leaveTrap.winPrv = c.winPrv := rfl
@[simp] theorem Cp.leaveTrap_winAt (c : Cp) : c.leaveTrap.winAt = c.winAt := rfl

@[simp] theorem Cp.reg_zero (c : Cp) : c.reg 0#5 = 0#64 := rfl

/-- A register after a write of one register (R129). -/
theorem Cp.reg_setReg (c : Cp) (r q : Reg) (v : Word) :
    (c.setReg r v).reg q = if q = r ∧ r ≠ 0 then v else c.reg q := by
  by_cases hr : r = 0
  · simp [Cp.setReg, hr]
  · have e : c.setReg r v = { c with gpr := c.gpr.set r.toNat v r.isLt } := if_neg hr
    rw [e]
    by_cases hq : q = 0
    · subst hq
      simp only [Cp.reg, if_true]
      rw [if_neg]
      rintro ⟨h, h0⟩
      exact h0 h.symm
    · simp only [Cp.reg, if_neg hq]
      by_cases h : q = r
      · subst h
        rw [if_pos ⟨rfl, hr⟩]
        simp [Vector.get_eq_getElem]
      · have hn : r.toNat ≠ q.toNat := fun e => h (BitVec.eq_of_toNat_eq e.symm)
        rw [if_neg fun x => h x.1]
        simp [Vector.get_eq_getElem, hn]

@[simp] theorem Cp.advance_reg (c : Cp) (r : Reg) : c.advance.reg r = c.reg r := rfl
@[simp] theorem Cp.goto_reg (c : Cp) (p : Word) (r : Reg) : (c.goto p).reg r = c.reg r := rfl
@[simp] theorem Cp.enterTrap_reg (c : Cp) (k : BitVec 8) (y : Bool) (epc : Word) (i : TInfo) (r : Reg) :
    (c.enterTrap k y epc i).reg r = c.reg r := rfl
@[simp] theorem Cp.leaveTrap_reg (c : Cp) (r : Reg) : c.leaveTrap.reg r = c.reg r := rfl

/-! Completing, jumping, trapping. -/

@[simp] theorem State.done_cps (s : State) : s.done.cps = Tbl.put s.cps s.cur s.cp.advance := rfl
@[simp] theorem State.done_w (s : State) : s.done.w = s.w := rfl
@[simp] theorem State.done_cur (s : State) : s.done.cur = s.cur := rfl
@[simp] theorem State.done_schedule (s : State) : s.done.schedule = s.schedule := rfl
@[simp] theorem State.done_cp (s : State) : s.done.cp = s.cp.advance := s.withCp_cp _
@[simp] theorem State.finish_cps (s : State) (d : Reg) (v : Word) : (s.finish d v).cps = Tbl.put s.cps s.cur (s.cp.setReg d v).advance := rfl
@[simp] theorem State.finish_w (s : State) (d : Reg) (v : Word) : (s.finish d v).w = s.w := rfl
@[simp] theorem State.finish_cur (s : State) (d : Reg) (v : Word) : (s.finish d v).cur = s.cur := rfl
@[simp] theorem State.finish_schedule (s : State) (d : Reg) (v : Word) : (s.finish d v).schedule = s.schedule := rfl
@[simp] theorem State.finish_cp (s : State) (d : Reg) (v : Word) : (s.finish d v).cp = (s.cp.setReg d v).advance := s.withCp_cp _

theorem Cp.sameControl_setReg_advance (c : Cp) (d : Reg) (v : Word) : c.SameControl (c.setReg d v).advance := by
  constructor <;> simp

theorem Cp.oneReg_setReg (c : Cp) (d : Reg) (v : Word) : c.OneReg (c.setReg d v) d v where
  zero := rfl
  written h := by rw [Cp.reg_setReg, if_pos ⟨rfl, h⟩]
  others q h := by rw [Cp.reg_setReg, if_neg fun x => h x.1]

/-- Completing with one register written is completing, in the sense of the statements. -/
theorem Cp.completed_setReg (c : Cp) (d : Reg) (v : Word) : c.Completed (c.setReg d v).advance d v where
  control := c.sameControl_setReg_advance d v
  reg := ⟨rfl, (c.oneReg_setReg d v).written, (c.oneReg_setReg d v).others⟩
  pc := by simp
  retired := by simp

theorem Cp.completed_advance (c : Cp) : c.Completed c.advance 0 0 where
  control := by constructor <;> simp
  reg := ⟨rfl, fun h => absurd rfl h, fun q _ => rfl⟩
  pc := by simp
  retired := by simp

theorem State.still_withCp (s : State) (c : Cp) : Still s (s.withCp c) where
  world := rfl
  memory _ := rfl
  schedule := rfl
  cur := rfl
  others k h := s.withCp_others c k h

/-- Everything that finishing an instruction does. -/
theorem State.finish_wrote (s : State) (d : Reg) (v : Word) : Wrote s (s.finish d v) d v where
  still := s.still_withCp _
  cp := by simpa using s.cp.completed_setReg d v

theorem State.othersStill_of_still {s t : State} (h : Still s t) : OthersStill s t := ⟨h.schedule, h.cur, h.others⟩

theorem State.done_completes (s : State) : OthersStill s s.done ∧ s.cp.Completed s.done.cp 0 0 :=
  ⟨State.othersStill_of_still (s.still_withCp _), by simpa using s.cp.completed_advance⟩

/-- Everything that a jump does. -/
theorem State.jumpTo_jumped (s : State) (link : Bool) (t : Word) : Jumped s (s.jumpTo link t) link t where
  still := s.still_withCp _
  control := by cases link <;> constructor <;> simp [State.jumpTo]
  reg := by
    cases link
    · exact ⟨rfl, fun h => absurd rfl h, fun q _ => by simp [State.jumpTo]⟩
    · have e : (s.jumpTo true t).cp = (s.cp.setReg 31 (s.cp.pc + 4)).goto t := State.withCp_cp _ _
      rw [e]
      exact ⟨rfl, (s.cp.oneReg_setReg 31 _).written, (s.cp.oneReg_setReg 31 _).others⟩
  pc := by cases link <;> simp [State.jumpTo]
  retired := by cases link <;> simp [State.jumpTo]

/-! MSTAT and TCAUSE as trap entry writes them. -/

theorem mstatOf_bits (a b c d e : Bool) : (mstatOf a b c d e).getLsbD 0 = a ∧ (mstatOf a b c d e).getLsbD 1 = b ∧
    (mstatOf a b c d e).getLsbD 2 = c ∧ (mstatOf a b c d e).getLsbD 3 = d ∧ (mstatOf a b c d e).getLsbD 4 = e ∧
    (mstatOf a b c d e).extractLsb' 5 59 = 0 := by
  cases a <;> cases b <;> cases c <;> cases d <;> cases e <;> decide

theorem tcauseOf_code (y : Bool) (k : BitVec 8) :
    (BitVec.ofBool y ++ (0 : BitVec 55) ++ k : BitVec 64).extractLsb' 0 8 = k := by
  revert y k
  decide

theorem tcauseOf_async (y : Bool) (k : BitVec 8) :
    (BitVec.ofBool y ++ (0 : BitVec 55) ++ k : BitVec 64).getLsbD 63 = y := by
  revert y k
  decide

theorem tcauseOf_rest (y : Bool) (k : BitVec 8) :
    (BitVec.ofBool y ++ (0 : BitVec 55) ++ k : BitVec 64).extractLsb' 8 55 = 0 := by
  revert y k
  decide

/-- Everything that trap entry does to the registers (R353). -/
theorem Cp.enterTrap_trapped (c : Cp) (k : BitVec 8) (y : Bool) (epc : Word) (i : TInfo) :
    c.Trapped (c.enterTrap k y epc i) k y epc i where
  tepc := rfl
  code := tcauseOf_code y k
  async := tcauseOf_async y k
  rest := tcauseOf_rest y k
  tinfo := rfl
  pprv := (mstatOf_bits ..).2.2.1
  pie := (mstatOf_bits ..).2.2.2.1
  prv := (mstatOf_bits ..).1
  ie := (mstatOf_bits ..).2.1
  xoff := (mstatOf_bits ..).2.2.2.2.1
  pc := rfl
  gpr _ := rfl
  kept := ⟨rfl, rfl, rfl, rfl, rfl, rfl, rfl, rfl, rfl, rfl⟩

/-! An update of one unit leaves every other field of the core. -/

@[simp] theorem Eng.setElem_node (g : Eng) (e : Nat) (x : Elem) : (g.setElem e x).node = g.node := rfl
@[simp] theorem Eng.setElem_partid (g : Eng) (e : Nat) (x : Elem) : (g.setElem e x).partid = g.partid := rfl
@[simp] theorem Eng.setElem_partWas (g : Eng) (e : Nat) (x : Elem) : (g.setElem e x).partWas = g.partWas := rfl
@[simp] theorem Eng.setElem_partAt (g : Eng) (e : Nat) (x : Elem) : (g.setElem e x).partAt = g.partAt := rfl
@[simp] theorem Eng.setElem_tenant (g : Eng) (e : Nat) (x : Elem) : (g.setElem e x).tenant = g.tenant := rfl
@[simp] theorem Eng.setElem_tfilt (g : Eng) (e : Nat) (x : Elem) : (g.setElem e x).tfilt = g.tfilt := rfl
@[simp] theorem Eng.setElem_jmask (g : Eng) (e : Nat) (x : Elem) : (g.setElem e x).jmask = g.jmask := rfl
@[simp] theorem Eng.setElem_masksWas (g : Eng) (e : Nat) (x : Elem) : (g.setElem e x).masksWas = g.masksWas := rfl
@[simp] theorem Eng.setElem_marking (g : Eng) (e : Nat) (x : Elem) : (g.setElem e x).marking = g.marking := rfl
@[simp] theorem Eng.setElem_tslot (g : Eng) (e : Nat) (x : Elem) : (g.setElem e x).tslot = g.tslot := rfl
@[simp] theorem Eng.setElem_slotOld (g : Eng) (e : Nat) (x : Elem) : (g.setElem e x).slotOld = g.slotOld := rfl
@[simp] theorem Eng.setElem_slotFrom (g : Eng) (e : Nat) (x : Elem) : (g.setElem e x).slotFrom = g.slotFrom := rfl
@[simp] theorem Eng.setElem_triggers (g : Eng) (e : Nat) (x : Elem) : (g.setElem e x).triggers = g.triggers := rfl
@[simp] theorem Eng.setElem_wake (g : Eng) (e : Nat) (x : Elem) : (g.setElem e x).wake = g.wake := rfl
@[simp] theorem Eng.setElem_storeBuf (g : Eng) (e : Nat) (x : Elem) : (g.setElem e x).storeBuf = g.storeBuf := rfl
@[simp] theorem Eng.setElem_commands (g : Eng) (e : Nat) (x : Elem) : (g.setElem e x).commands = g.commands := rfl
@[simp] theorem Eng.setElem_pend (g : Eng) (e : Nat) (x : Elem) : (g.setElem e x).pend = g.pend := rfl
@[simp] theorem Eng.setElem_raised (g : Eng) (e : Nat) (x : Elem) : (g.setElem e x).raised = g.raised := rfl
@[simp] theorem Eng.setElem_reports (g : Eng) (e : Nat) (x : Elem) : (g.setElem e x).reports = g.reports := rfl
@[simp] theorem Eng.setElem_hmsg (g : Eng) (e : Nat) (x : Elem) : (g.setElem e x).hmsg = g.hmsg := rfl
@[simp] theorem Eng.setElem_mcpol (g : Eng) (e : Nat) (x : Elem) : (g.setElem e x).mcpol = g.mcpol := rfl
@[simp] theorem Eng.setElem_plock (g : Eng) (e : Nat) (x : Elem) : (g.setElem e x).plock = g.plock := rfl
@[simp] theorem Eng.setElem_fenced (g : Eng) (e : Nat) (x : Elem) : (g.setElem e x).fenced = g.fenced := rfl
@[simp] theorem Eng.setElem_curds (g : Eng) (e : Nat) (x : Elem) : (g.setElem e x).curds = g.curds := rfl
@[simp] theorem Eng.setElem_entering (g : Eng) (e : Nat) (x : Elem) : (g.setElem e x).entering = g.entering := rfl
@[simp] theorem Eng.setElem_tlb (g : Eng) (e : Nat) (x : Elem) : (g.setElem e x).tlb = g.tlb := rfl
@[simp] theorem Eng.setElem_active (g : Eng) (e : Nat) (x : Elem) : (g.setElem e x).active = g.active := rfl
@[simp] theorem Eng.setElem_culture (g : Eng) (e : Nat) (x : Elem) : (g.setElem e x).culture = g.culture := rfl
@[simp] theorem Eng.setElem_activeRead (g : Eng) (e : Nat) (x : Elem) : (g.setElem e x).activeRead = g.activeRead := rfl
@[simp] theorem Eng.setElem_cultureRead (g : Eng) (e : Nat) (x : Elem) : (g.setElem e x).cultureRead = g.cultureRead := rfl
@[simp] theorem Eng.setElem_agActive (g : Eng) (e : Nat) (x : Elem) : (g.setElem e x).agActive = g.agActive := rfl
@[simp] theorem Eng.setElem_agCulture (g : Eng) (e : Nat) (x : Elem) : (g.setElem e x).agCulture = g.agCulture := rfl
@[simp] theorem Eng.setElem_mxActive (g : Eng) (e : Nat) (x : Elem) : (g.setElem e x).mxActive = g.mxActive := rfl
@[simp] theorem Eng.setElem_mxCulture (g : Eng) (e : Nat) (x : Elem) : (g.setElem e x).mxCulture = g.mxCulture := rfl
@[simp] theorem Eng.setElem_epActive (g : Eng) (e : Nat) (x : Elem) : (g.setElem e x).epActive = g.epActive := rfl
@[simp] theorem Eng.setElem_epCulture (g : Eng) (e : Nat) (x : Elem) : (g.setElem e x).epCulture = g.epCulture := rfl
@[simp] theorem Eng.setElem_pools (g : Eng) (e : Nat) (x : Elem) : (g.setElem e x).pools = g.pools := rfl
@[simp] theorem Eng.setElem_flights (g : Eng) (e : Nat) (x : Elem) : (g.setElem e x).flights = g.flights := rfl
@[simp] theorem Eng.setElem_firing (g : Eng) (e : Nat) (x : Elem) : (g.setElem e x).firing = g.firing := rfl
@[simp] theorem Eng.setElem_vats (g : Eng) (e : Nat) (x : Elem) : (g.setElem e x).vats = g.vats := rfl
@[simp] theorem Eng.setElem_streams (g : Eng) (e : Nat) (x : Elem) : (g.setElem e x).streams = g.streams := rfl
@[simp] theorem Eng.setElem_templates (g : Eng) (e : Nat) (x : Elem) : (g.setElem e x).templates = g.templates := rfl
@[simp] theorem Eng.setElem_queues (g : Eng) (e : Nat) (x : Elem) : (g.setElem e x).queues = g.queues := rfl
@[simp] theorem Eng.setElem_copies (g : Eng) (e : Nat) (x : Elem) : (g.setElem e x).copies = g.copies := rfl
@[simp] theorem Eng.setElem_copyReason (g : Eng) (e : Nat) (x : Elem) : (g.setElem e x).copyReason = g.copyReason := rfl
@[simp] theorem Eng.setElem_walks (g : Eng) (e : Nat) (x : Elem) : (g.setElem e x).walks = g.walks := rfl
@[simp] theorem Eng.setElem_hash (g : Eng) (e : Nat) (x : Elem) : (g.setElem e x).hash = g.hash := rfl
@[simp] theorem Eng.setElem_mx (g : Eng) (e : Nat) (x : Elem) : (g.setElem e x).mx = g.mx := rfl
@[simp] theorem Eng.setElem_ports (g : Eng) (e : Nat) (x : Elem) : (g.setElem e x).ports = g.ports := rfl
@[simp] theorem Eng.setElem_sched (g : Eng) (e : Nat) (x : Elem) : (g.setElem e x).sched = g.sched := rfl
@[simp] theorem Eng.setElem_ingress (g : Eng) (e : Nat) (x : Elem) : (g.setElem e x).ingress = g.ingress := rfl
@[simp] theorem Eng.setElem_press (g : Eng) (e : Nat) (x : Elem) : (g.setElem e x).press = g.press := rfl
@[simp] theorem Eng.setElem_unit (g : Eng) (e : Nat) (x : Elem) : (g.setElem e x).unit = g.unit := rfl
@[simp] theorem Eng.setElem_eccAt (g : Eng) (e : Nat) (x : Elem) : (g.setElem e x).eccAt = g.eccAt := rfl
@[simp] theorem Eng.setElem_cacheUe (g : Eng) (e : Nat) (x : Elem) : (g.setElem e x).cacheUe = g.cacheUe := rfl
@[simp] theorem Eng.setElem_cacheCe (g : Eng) (e : Nat) (x : Elem) : (g.setElem e x).cacheCe = g.cacheCe := rfl
@[simp] theorem Eng.setStream_node (g : Eng) (k : Nat) (x : Stream) : (g.setStream k x).node = g.node := rfl
@[simp] theorem Eng.setStream_partid (g : Eng) (k : Nat) (x : Stream) : (g.setStream k x).partid = g.partid := rfl
@[simp] theorem Eng.setStream_partWas (g : Eng) (k : Nat) (x : Stream) : (g.setStream k x).partWas = g.partWas := rfl
@[simp] theorem Eng.setStream_partAt (g : Eng) (k : Nat) (x : Stream) : (g.setStream k x).partAt = g.partAt := rfl
@[simp] theorem Eng.setStream_tenant (g : Eng) (k : Nat) (x : Stream) : (g.setStream k x).tenant = g.tenant := rfl
@[simp] theorem Eng.setStream_tfilt (g : Eng) (k : Nat) (x : Stream) : (g.setStream k x).tfilt = g.tfilt := rfl
@[simp] theorem Eng.setStream_jmask (g : Eng) (k : Nat) (x : Stream) : (g.setStream k x).jmask = g.jmask := rfl
@[simp] theorem Eng.setStream_masksWas (g : Eng) (k : Nat) (x : Stream) : (g.setStream k x).masksWas = g.masksWas := rfl
@[simp] theorem Eng.setStream_marking (g : Eng) (k : Nat) (x : Stream) : (g.setStream k x).marking = g.marking := rfl
@[simp] theorem Eng.setStream_tslot (g : Eng) (k : Nat) (x : Stream) : (g.setStream k x).tslot = g.tslot := rfl
@[simp] theorem Eng.setStream_slotOld (g : Eng) (k : Nat) (x : Stream) : (g.setStream k x).slotOld = g.slotOld := rfl
@[simp] theorem Eng.setStream_slotFrom (g : Eng) (k : Nat) (x : Stream) : (g.setStream k x).slotFrom = g.slotFrom := rfl
@[simp] theorem Eng.setStream_triggers (g : Eng) (k : Nat) (x : Stream) : (g.setStream k x).triggers = g.triggers := rfl
@[simp] theorem Eng.setStream_wake (g : Eng) (k : Nat) (x : Stream) : (g.setStream k x).wake = g.wake := rfl
@[simp] theorem Eng.setStream_storeBuf (g : Eng) (k : Nat) (x : Stream) : (g.setStream k x).storeBuf = g.storeBuf := rfl
@[simp] theorem Eng.setStream_commands (g : Eng) (k : Nat) (x : Stream) : (g.setStream k x).commands = g.commands := rfl
@[simp] theorem Eng.setStream_pend (g : Eng) (k : Nat) (x : Stream) : (g.setStream k x).pend = g.pend := rfl
@[simp] theorem Eng.setStream_raised (g : Eng) (k : Nat) (x : Stream) : (g.setStream k x).raised = g.raised := rfl
@[simp] theorem Eng.setStream_reports (g : Eng) (k : Nat) (x : Stream) : (g.setStream k x).reports = g.reports := rfl
@[simp] theorem Eng.setStream_hmsg (g : Eng) (k : Nat) (x : Stream) : (g.setStream k x).hmsg = g.hmsg := rfl
@[simp] theorem Eng.setStream_mcpol (g : Eng) (k : Nat) (x : Stream) : (g.setStream k x).mcpol = g.mcpol := rfl
@[simp] theorem Eng.setStream_plock (g : Eng) (k : Nat) (x : Stream) : (g.setStream k x).plock = g.plock := rfl
@[simp] theorem Eng.setStream_fenced (g : Eng) (k : Nat) (x : Stream) : (g.setStream k x).fenced = g.fenced := rfl
@[simp] theorem Eng.setStream_curds (g : Eng) (k : Nat) (x : Stream) : (g.setStream k x).curds = g.curds := rfl
@[simp] theorem Eng.setStream_entering (g : Eng) (k : Nat) (x : Stream) : (g.setStream k x).entering = g.entering := rfl
@[simp] theorem Eng.setStream_tlb (g : Eng) (k : Nat) (x : Stream) : (g.setStream k x).tlb = g.tlb := rfl
@[simp] theorem Eng.setStream_active (g : Eng) (k : Nat) (x : Stream) : (g.setStream k x).active = g.active := rfl
@[simp] theorem Eng.setStream_culture (g : Eng) (k : Nat) (x : Stream) : (g.setStream k x).culture = g.culture := rfl
@[simp] theorem Eng.setStream_activeRead (g : Eng) (k : Nat) (x : Stream) : (g.setStream k x).activeRead = g.activeRead := rfl
@[simp] theorem Eng.setStream_cultureRead (g : Eng) (k : Nat) (x : Stream) : (g.setStream k x).cultureRead = g.cultureRead := rfl
@[simp] theorem Eng.setStream_agActive (g : Eng) (k : Nat) (x : Stream) : (g.setStream k x).agActive = g.agActive := rfl
@[simp] theorem Eng.setStream_agCulture (g : Eng) (k : Nat) (x : Stream) : (g.setStream k x).agCulture = g.agCulture := rfl
@[simp] theorem Eng.setStream_mxActive (g : Eng) (k : Nat) (x : Stream) : (g.setStream k x).mxActive = g.mxActive := rfl
@[simp] theorem Eng.setStream_mxCulture (g : Eng) (k : Nat) (x : Stream) : (g.setStream k x).mxCulture = g.mxCulture := rfl
@[simp] theorem Eng.setStream_epActive (g : Eng) (k : Nat) (x : Stream) : (g.setStream k x).epActive = g.epActive := rfl
@[simp] theorem Eng.setStream_epCulture (g : Eng) (k : Nat) (x : Stream) : (g.setStream k x).epCulture = g.epCulture := rfl
@[simp] theorem Eng.setStream_elems (g : Eng) (k : Nat) (x : Stream) : (g.setStream k x).elems = g.elems := rfl
@[simp] theorem Eng.setStream_pools (g : Eng) (k : Nat) (x : Stream) : (g.setStream k x).pools = g.pools := rfl
@[simp] theorem Eng.setStream_flights (g : Eng) (k : Nat) (x : Stream) : (g.setStream k x).flights = g.flights := rfl
@[simp] theorem Eng.setStream_firing (g : Eng) (k : Nat) (x : Stream) : (g.setStream k x).firing = g.firing := rfl
@[simp] theorem Eng.setStream_vats (g : Eng) (k : Nat) (x : Stream) : (g.setStream k x).vats = g.vats := rfl
@[simp] theorem Eng.setStream_templates (g : Eng) (k : Nat) (x : Stream) : (g.setStream k x).templates = g.templates := rfl
@[simp] theorem Eng.setStream_queues (g : Eng) (k : Nat) (x : Stream) : (g.setStream k x).queues = g.queues := rfl
@[simp] theorem Eng.setStream_copies (g : Eng) (k : Nat) (x : Stream) : (g.setStream k x).copies = g.copies := rfl
@[simp] theorem Eng.setStream_copyReason (g : Eng) (k : Nat) (x : Stream) : (g.setStream k x).copyReason = g.copyReason := rfl
@[simp] theorem Eng.setStream_walks (g : Eng) (k : Nat) (x : Stream) : (g.setStream k x).walks = g.walks := rfl
@[simp] theorem Eng.setStream_hash (g : Eng) (k : Nat) (x : Stream) : (g.setStream k x).hash = g.hash := rfl
@[simp] theorem Eng.setStream_mx (g : Eng) (k : Nat) (x : Stream) : (g.setStream k x).mx = g.mx := rfl
@[simp] theorem Eng.setStream_ports (g : Eng) (k : Nat) (x : Stream) : (g.setStream k x).ports = g.ports := rfl
@[simp] theorem Eng.setStream_sched (g : Eng) (k : Nat) (x : Stream) : (g.setStream k x).sched = g.sched := rfl
@[simp] theorem Eng.setStream_ingress (g : Eng) (k : Nat) (x : Stream) : (g.setStream k x).ingress = g.ingress := rfl
@[simp] theorem Eng.setStream_press (g : Eng) (k : Nat) (x : Stream) : (g.setStream k x).press = g.press := rfl
@[simp] theorem Eng.setStream_unit (g : Eng) (k : Nat) (x : Stream) : (g.setStream k x).unit = g.unit := rfl
@[simp] theorem Eng.setStream_eccAt (g : Eng) (k : Nat) (x : Stream) : (g.setStream k x).eccAt = g.eccAt := rfl
@[simp] theorem Eng.setStream_cacheUe (g : Eng) (k : Nat) (x : Stream) : (g.setStream k x).cacheUe = g.cacheUe := rfl
@[simp] theorem Eng.setStream_cacheCe (g : Eng) (k : Nat) (x : Stream) : (g.setStream k x).cacheCe = g.cacheCe := rfl
@[simp] theorem Eng.setVat_node (g : Eng) (v : Nat) (x : Vat) : (g.setVat v x).node = g.node := rfl
@[simp] theorem Eng.setVat_partid (g : Eng) (v : Nat) (x : Vat) : (g.setVat v x).partid = g.partid := rfl
@[simp] theorem Eng.setVat_partWas (g : Eng) (v : Nat) (x : Vat) : (g.setVat v x).partWas = g.partWas := rfl
@[simp] theorem Eng.setVat_partAt (g : Eng) (v : Nat) (x : Vat) : (g.setVat v x).partAt = g.partAt := rfl
@[simp] theorem Eng.setVat_tenant (g : Eng) (v : Nat) (x : Vat) : (g.setVat v x).tenant = g.tenant := rfl
@[simp] theorem Eng.setVat_tfilt (g : Eng) (v : Nat) (x : Vat) : (g.setVat v x).tfilt = g.tfilt := rfl
@[simp] theorem Eng.setVat_jmask (g : Eng) (v : Nat) (x : Vat) : (g.setVat v x).jmask = g.jmask := rfl
@[simp] theorem Eng.setVat_masksWas (g : Eng) (v : Nat) (x : Vat) : (g.setVat v x).masksWas = g.masksWas := rfl
@[simp] theorem Eng.setVat_marking (g : Eng) (v : Nat) (x : Vat) : (g.setVat v x).marking = g.marking := rfl
@[simp] theorem Eng.setVat_tslot (g : Eng) (v : Nat) (x : Vat) : (g.setVat v x).tslot = g.tslot := rfl
@[simp] theorem Eng.setVat_slotOld (g : Eng) (v : Nat) (x : Vat) : (g.setVat v x).slotOld = g.slotOld := rfl
@[simp] theorem Eng.setVat_slotFrom (g : Eng) (v : Nat) (x : Vat) : (g.setVat v x).slotFrom = g.slotFrom := rfl
@[simp] theorem Eng.setVat_triggers (g : Eng) (v : Nat) (x : Vat) : (g.setVat v x).triggers = g.triggers := rfl
@[simp] theorem Eng.setVat_wake (g : Eng) (v : Nat) (x : Vat) : (g.setVat v x).wake = g.wake := rfl
@[simp] theorem Eng.setVat_storeBuf (g : Eng) (v : Nat) (x : Vat) : (g.setVat v x).storeBuf = g.storeBuf := rfl
@[simp] theorem Eng.setVat_commands (g : Eng) (v : Nat) (x : Vat) : (g.setVat v x).commands = g.commands := rfl
@[simp] theorem Eng.setVat_pend (g : Eng) (v : Nat) (x : Vat) : (g.setVat v x).pend = g.pend := rfl
@[simp] theorem Eng.setVat_raised (g : Eng) (v : Nat) (x : Vat) : (g.setVat v x).raised = g.raised := rfl
@[simp] theorem Eng.setVat_reports (g : Eng) (v : Nat) (x : Vat) : (g.setVat v x).reports = g.reports := rfl
@[simp] theorem Eng.setVat_hmsg (g : Eng) (v : Nat) (x : Vat) : (g.setVat v x).hmsg = g.hmsg := rfl
@[simp] theorem Eng.setVat_mcpol (g : Eng) (v : Nat) (x : Vat) : (g.setVat v x).mcpol = g.mcpol := rfl
@[simp] theorem Eng.setVat_plock (g : Eng) (v : Nat) (x : Vat) : (g.setVat v x).plock = g.plock := rfl
@[simp] theorem Eng.setVat_fenced (g : Eng) (v : Nat) (x : Vat) : (g.setVat v x).fenced = g.fenced := rfl
@[simp] theorem Eng.setVat_curds (g : Eng) (v : Nat) (x : Vat) : (g.setVat v x).curds = g.curds := rfl
@[simp] theorem Eng.setVat_entering (g : Eng) (v : Nat) (x : Vat) : (g.setVat v x).entering = g.entering := rfl
@[simp] theorem Eng.setVat_tlb (g : Eng) (v : Nat) (x : Vat) : (g.setVat v x).tlb = g.tlb := rfl
@[simp] theorem Eng.setVat_active (g : Eng) (v : Nat) (x : Vat) : (g.setVat v x).active = g.active := rfl
@[simp] theorem Eng.setVat_culture (g : Eng) (v : Nat) (x : Vat) : (g.setVat v x).culture = g.culture := rfl
@[simp] theorem Eng.setVat_activeRead (g : Eng) (v : Nat) (x : Vat) : (g.setVat v x).activeRead = g.activeRead := rfl
@[simp] theorem Eng.setVat_cultureRead (g : Eng) (v : Nat) (x : Vat) : (g.setVat v x).cultureRead = g.cultureRead := rfl
@[simp] theorem Eng.setVat_agActive (g : Eng) (v : Nat) (x : Vat) : (g.setVat v x).agActive = g.agActive := rfl
@[simp] theorem Eng.setVat_agCulture (g : Eng) (v : Nat) (x : Vat) : (g.setVat v x).agCulture = g.agCulture := rfl
@[simp] theorem Eng.setVat_mxActive (g : Eng) (v : Nat) (x : Vat) : (g.setVat v x).mxActive = g.mxActive := rfl
@[simp] theorem Eng.setVat_mxCulture (g : Eng) (v : Nat) (x : Vat) : (g.setVat v x).mxCulture = g.mxCulture := rfl
@[simp] theorem Eng.setVat_epActive (g : Eng) (v : Nat) (x : Vat) : (g.setVat v x).epActive = g.epActive := rfl
@[simp] theorem Eng.setVat_epCulture (g : Eng) (v : Nat) (x : Vat) : (g.setVat v x).epCulture = g.epCulture := rfl
@[simp] theorem Eng.setVat_elems (g : Eng) (v : Nat) (x : Vat) : (g.setVat v x).elems = g.elems := rfl
@[simp] theorem Eng.setVat_pools (g : Eng) (v : Nat) (x : Vat) : (g.setVat v x).pools = g.pools := rfl
@[simp] theorem Eng.setVat_flights (g : Eng) (v : Nat) (x : Vat) : (g.setVat v x).flights = g.flights := rfl
@[simp] theorem Eng.setVat_firing (g : Eng) (v : Nat) (x : Vat) : (g.setVat v x).firing = g.firing := rfl
@[simp] theorem Eng.setVat_streams (g : Eng) (v : Nat) (x : Vat) : (g.setVat v x).streams = g.streams := rfl
@[simp] theorem Eng.setVat_templates (g : Eng) (v : Nat) (x : Vat) : (g.setVat v x).templates = g.templates := rfl
@[simp] theorem Eng.setVat_queues (g : Eng) (v : Nat) (x : Vat) : (g.setVat v x).queues = g.queues := rfl
@[simp] theorem Eng.setVat_copies (g : Eng) (v : Nat) (x : Vat) : (g.setVat v x).copies = g.copies := rfl
@[simp] theorem Eng.setVat_copyReason (g : Eng) (v : Nat) (x : Vat) : (g.setVat v x).copyReason = g.copyReason := rfl
@[simp] theorem Eng.setVat_walks (g : Eng) (v : Nat) (x : Vat) : (g.setVat v x).walks = g.walks := rfl
@[simp] theorem Eng.setVat_hash (g : Eng) (v : Nat) (x : Vat) : (g.setVat v x).hash = g.hash := rfl
@[simp] theorem Eng.setVat_mx (g : Eng) (v : Nat) (x : Vat) : (g.setVat v x).mx = g.mx := rfl
@[simp] theorem Eng.setVat_ports (g : Eng) (v : Nat) (x : Vat) : (g.setVat v x).ports = g.ports := rfl
@[simp] theorem Eng.setVat_sched (g : Eng) (v : Nat) (x : Vat) : (g.setVat v x).sched = g.sched := rfl
@[simp] theorem Eng.setVat_ingress (g : Eng) (v : Nat) (x : Vat) : (g.setVat v x).ingress = g.ingress := rfl
@[simp] theorem Eng.setVat_press (g : Eng) (v : Nat) (x : Vat) : (g.setVat v x).press = g.press := rfl
@[simp] theorem Eng.setVat_unit (g : Eng) (v : Nat) (x : Vat) : (g.setVat v x).unit = g.unit := rfl
@[simp] theorem Eng.setVat_eccAt (g : Eng) (v : Nat) (x : Vat) : (g.setVat v x).eccAt = g.eccAt := rfl
@[simp] theorem Eng.setVat_cacheUe (g : Eng) (v : Nat) (x : Vat) : (g.setVat v x).cacheUe = g.cacheUe := rfl
@[simp] theorem Eng.setVat_cacheCe (g : Eng) (v : Nat) (x : Vat) : (g.setVat v x).cacheCe = g.cacheCe := rfl
@[simp] theorem Eng.setPool_node (g : Eng) (d : Endpoint) (x : InQueue) : (g.setPool d x).node = g.node := rfl
@[simp] theorem Eng.setPool_partid (g : Eng) (d : Endpoint) (x : InQueue) : (g.setPool d x).partid = g.partid := rfl
@[simp] theorem Eng.setPool_partWas (g : Eng) (d : Endpoint) (x : InQueue) : (g.setPool d x).partWas = g.partWas := rfl
@[simp] theorem Eng.setPool_partAt (g : Eng) (d : Endpoint) (x : InQueue) : (g.setPool d x).partAt = g.partAt := rfl
@[simp] theorem Eng.setPool_tenant (g : Eng) (d : Endpoint) (x : InQueue) : (g.setPool d x).tenant = g.tenant := rfl
@[simp] theorem Eng.setPool_tfilt (g : Eng) (d : Endpoint) (x : InQueue) : (g.setPool d x).tfilt = g.tfilt := rfl
@[simp] theorem Eng.setPool_jmask (g : Eng) (d : Endpoint) (x : InQueue) : (g.setPool d x).jmask = g.jmask := rfl
@[simp] theorem Eng.setPool_masksWas (g : Eng) (d : Endpoint) (x : InQueue) : (g.setPool d x).masksWas = g.masksWas := rfl
@[simp] theorem Eng.setPool_marking (g : Eng) (d : Endpoint) (x : InQueue) : (g.setPool d x).marking = g.marking := rfl
@[simp] theorem Eng.setPool_tslot (g : Eng) (d : Endpoint) (x : InQueue) : (g.setPool d x).tslot = g.tslot := rfl
@[simp] theorem Eng.setPool_slotOld (g : Eng) (d : Endpoint) (x : InQueue) : (g.setPool d x).slotOld = g.slotOld := rfl
@[simp] theorem Eng.setPool_slotFrom (g : Eng) (d : Endpoint) (x : InQueue) : (g.setPool d x).slotFrom = g.slotFrom := rfl
@[simp] theorem Eng.setPool_triggers (g : Eng) (d : Endpoint) (x : InQueue) : (g.setPool d x).triggers = g.triggers := rfl
@[simp] theorem Eng.setPool_wake (g : Eng) (d : Endpoint) (x : InQueue) : (g.setPool d x).wake = g.wake := rfl
@[simp] theorem Eng.setPool_storeBuf (g : Eng) (d : Endpoint) (x : InQueue) : (g.setPool d x).storeBuf = g.storeBuf := rfl
@[simp] theorem Eng.setPool_commands (g : Eng) (d : Endpoint) (x : InQueue) : (g.setPool d x).commands = g.commands := rfl
@[simp] theorem Eng.setPool_pend (g : Eng) (d : Endpoint) (x : InQueue) : (g.setPool d x).pend = g.pend := rfl
@[simp] theorem Eng.setPool_raised (g : Eng) (d : Endpoint) (x : InQueue) : (g.setPool d x).raised = g.raised := rfl
@[simp] theorem Eng.setPool_reports (g : Eng) (d : Endpoint) (x : InQueue) : (g.setPool d x).reports = g.reports := rfl
@[simp] theorem Eng.setPool_hmsg (g : Eng) (d : Endpoint) (x : InQueue) : (g.setPool d x).hmsg = g.hmsg := rfl
@[simp] theorem Eng.setPool_mcpol (g : Eng) (d : Endpoint) (x : InQueue) : (g.setPool d x).mcpol = g.mcpol := rfl
@[simp] theorem Eng.setPool_plock (g : Eng) (d : Endpoint) (x : InQueue) : (g.setPool d x).plock = g.plock := rfl
@[simp] theorem Eng.setPool_fenced (g : Eng) (d : Endpoint) (x : InQueue) : (g.setPool d x).fenced = g.fenced := rfl
@[simp] theorem Eng.setPool_curds (g : Eng) (d : Endpoint) (x : InQueue) : (g.setPool d x).curds = g.curds := rfl
@[simp] theorem Eng.setPool_entering (g : Eng) (d : Endpoint) (x : InQueue) : (g.setPool d x).entering = g.entering := rfl
@[simp] theorem Eng.setPool_tlb (g : Eng) (d : Endpoint) (x : InQueue) : (g.setPool d x).tlb = g.tlb := rfl
@[simp] theorem Eng.setPool_active (g : Eng) (d : Endpoint) (x : InQueue) : (g.setPool d x).active = g.active := rfl
@[simp] theorem Eng.setPool_culture (g : Eng) (d : Endpoint) (x : InQueue) : (g.setPool d x).culture = g.culture := rfl
@[simp] theorem Eng.setPool_activeRead (g : Eng) (d : Endpoint) (x : InQueue) : (g.setPool d x).activeRead = g.activeRead := rfl
@[simp] theorem Eng.setPool_cultureRead (g : Eng) (d : Endpoint) (x : InQueue) : (g.setPool d x).cultureRead = g.cultureRead := rfl
@[simp] theorem Eng.setPool_agActive (g : Eng) (d : Endpoint) (x : InQueue) : (g.setPool d x).agActive = g.agActive := rfl
@[simp] theorem Eng.setPool_agCulture (g : Eng) (d : Endpoint) (x : InQueue) : (g.setPool d x).agCulture = g.agCulture := rfl
@[simp] theorem Eng.setPool_mxActive (g : Eng) (d : Endpoint) (x : InQueue) : (g.setPool d x).mxActive = g.mxActive := rfl
@[simp] theorem Eng.setPool_mxCulture (g : Eng) (d : Endpoint) (x : InQueue) : (g.setPool d x).mxCulture = g.mxCulture := rfl
@[simp] theorem Eng.setPool_epActive (g : Eng) (d : Endpoint) (x : InQueue) : (g.setPool d x).epActive = g.epActive := rfl
@[simp] theorem Eng.setPool_epCulture (g : Eng) (d : Endpoint) (x : InQueue) : (g.setPool d x).epCulture = g.epCulture := rfl
@[simp] theorem Eng.setPool_elems (g : Eng) (d : Endpoint) (x : InQueue) : (g.setPool d x).elems = g.elems := rfl
@[simp] theorem Eng.setPool_flights (g : Eng) (d : Endpoint) (x : InQueue) : (g.setPool d x).flights = g.flights := rfl
@[simp] theorem Eng.setPool_firing (g : Eng) (d : Endpoint) (x : InQueue) : (g.setPool d x).firing = g.firing := rfl
@[simp] theorem Eng.setPool_vats (g : Eng) (d : Endpoint) (x : InQueue) : (g.setPool d x).vats = g.vats := rfl
@[simp] theorem Eng.setPool_streams (g : Eng) (d : Endpoint) (x : InQueue) : (g.setPool d x).streams = g.streams := rfl
@[simp] theorem Eng.setPool_templates (g : Eng) (d : Endpoint) (x : InQueue) : (g.setPool d x).templates = g.templates := rfl
@[simp] theorem Eng.setPool_queues (g : Eng) (d : Endpoint) (x : InQueue) : (g.setPool d x).queues = g.queues := rfl
@[simp] theorem Eng.setPool_copies (g : Eng) (d : Endpoint) (x : InQueue) : (g.setPool d x).copies = g.copies := rfl
@[simp] theorem Eng.setPool_copyReason (g : Eng) (d : Endpoint) (x : InQueue) : (g.setPool d x).copyReason = g.copyReason := rfl
@[simp] theorem Eng.setPool_walks (g : Eng) (d : Endpoint) (x : InQueue) : (g.setPool d x).walks = g.walks := rfl
@[simp] theorem Eng.setPool_hash (g : Eng) (d : Endpoint) (x : InQueue) : (g.setPool d x).hash = g.hash := rfl
@[simp] theorem Eng.setPool_mx (g : Eng) (d : Endpoint) (x : InQueue) : (g.setPool d x).mx = g.mx := rfl
@[simp] theorem Eng.setPool_ports (g : Eng) (d : Endpoint) (x : InQueue) : (g.setPool d x).ports = g.ports := rfl
@[simp] theorem Eng.setPool_sched (g : Eng) (d : Endpoint) (x : InQueue) : (g.setPool d x).sched = g.sched := rfl
@[simp] theorem Eng.setPool_ingress (g : Eng) (d : Endpoint) (x : InQueue) : (g.setPool d x).ingress = g.ingress := rfl
@[simp] theorem Eng.setPool_press (g : Eng) (d : Endpoint) (x : InQueue) : (g.setPool d x).press = g.press := rfl
@[simp] theorem Eng.setPool_unit (g : Eng) (d : Endpoint) (x : InQueue) : (g.setPool d x).unit = g.unit := rfl
@[simp] theorem Eng.setPool_eccAt (g : Eng) (d : Endpoint) (x : InQueue) : (g.setPool d x).eccAt = g.eccAt := rfl
@[simp] theorem Eng.setPool_cacheUe (g : Eng) (d : Endpoint) (x : InQueue) : (g.setPool d x).cacheUe = g.cacheUe := rfl
@[simp] theorem Eng.setPool_cacheCe (g : Eng) (d : Endpoint) (x : InQueue) : (g.setPool d x).cacheCe = g.cacheCe := rfl
@[simp] theorem Eng.setNode_node (g : Eng) (n : Nat) (x : MxNode) : (g.setNode n x).node = g.node := rfl
@[simp] theorem Eng.setNode_partid (g : Eng) (n : Nat) (x : MxNode) : (g.setNode n x).partid = g.partid := rfl
@[simp] theorem Eng.setNode_partWas (g : Eng) (n : Nat) (x : MxNode) : (g.setNode n x).partWas = g.partWas := rfl
@[simp] theorem Eng.setNode_partAt (g : Eng) (n : Nat) (x : MxNode) : (g.setNode n x).partAt = g.partAt := rfl
@[simp] theorem Eng.setNode_tenant (g : Eng) (n : Nat) (x : MxNode) : (g.setNode n x).tenant = g.tenant := rfl
@[simp] theorem Eng.setNode_tfilt (g : Eng) (n : Nat) (x : MxNode) : (g.setNode n x).tfilt = g.tfilt := rfl
@[simp] theorem Eng.setNode_jmask (g : Eng) (n : Nat) (x : MxNode) : (g.setNode n x).jmask = g.jmask := rfl
@[simp] theorem Eng.setNode_masksWas (g : Eng) (n : Nat) (x : MxNode) : (g.setNode n x).masksWas = g.masksWas := rfl
@[simp] theorem Eng.setNode_marking (g : Eng) (n : Nat) (x : MxNode) : (g.setNode n x).marking = g.marking := rfl
@[simp] theorem Eng.setNode_tslot (g : Eng) (n : Nat) (x : MxNode) : (g.setNode n x).tslot = g.tslot := rfl
@[simp] theorem Eng.setNode_slotOld (g : Eng) (n : Nat) (x : MxNode) : (g.setNode n x).slotOld = g.slotOld := rfl
@[simp] theorem Eng.setNode_slotFrom (g : Eng) (n : Nat) (x : MxNode) : (g.setNode n x).slotFrom = g.slotFrom := rfl
@[simp] theorem Eng.setNode_triggers (g : Eng) (n : Nat) (x : MxNode) : (g.setNode n x).triggers = g.triggers := rfl
@[simp] theorem Eng.setNode_wake (g : Eng) (n : Nat) (x : MxNode) : (g.setNode n x).wake = g.wake := rfl
@[simp] theorem Eng.setNode_storeBuf (g : Eng) (n : Nat) (x : MxNode) : (g.setNode n x).storeBuf = g.storeBuf := rfl
@[simp] theorem Eng.setNode_commands (g : Eng) (n : Nat) (x : MxNode) : (g.setNode n x).commands = g.commands := rfl
@[simp] theorem Eng.setNode_pend (g : Eng) (n : Nat) (x : MxNode) : (g.setNode n x).pend = g.pend := rfl
@[simp] theorem Eng.setNode_raised (g : Eng) (n : Nat) (x : MxNode) : (g.setNode n x).raised = g.raised := rfl
@[simp] theorem Eng.setNode_reports (g : Eng) (n : Nat) (x : MxNode) : (g.setNode n x).reports = g.reports := rfl
@[simp] theorem Eng.setNode_hmsg (g : Eng) (n : Nat) (x : MxNode) : (g.setNode n x).hmsg = g.hmsg := rfl
@[simp] theorem Eng.setNode_mcpol (g : Eng) (n : Nat) (x : MxNode) : (g.setNode n x).mcpol = g.mcpol := rfl
@[simp] theorem Eng.setNode_plock (g : Eng) (n : Nat) (x : MxNode) : (g.setNode n x).plock = g.plock := rfl
@[simp] theorem Eng.setNode_fenced (g : Eng) (n : Nat) (x : MxNode) : (g.setNode n x).fenced = g.fenced := rfl
@[simp] theorem Eng.setNode_curds (g : Eng) (n : Nat) (x : MxNode) : (g.setNode n x).curds = g.curds := rfl
@[simp] theorem Eng.setNode_entering (g : Eng) (n : Nat) (x : MxNode) : (g.setNode n x).entering = g.entering := rfl
@[simp] theorem Eng.setNode_tlb (g : Eng) (n : Nat) (x : MxNode) : (g.setNode n x).tlb = g.tlb := rfl
@[simp] theorem Eng.setNode_active (g : Eng) (n : Nat) (x : MxNode) : (g.setNode n x).active = g.active := rfl
@[simp] theorem Eng.setNode_culture (g : Eng) (n : Nat) (x : MxNode) : (g.setNode n x).culture = g.culture := rfl
@[simp] theorem Eng.setNode_activeRead (g : Eng) (n : Nat) (x : MxNode) : (g.setNode n x).activeRead = g.activeRead := rfl
@[simp] theorem Eng.setNode_cultureRead (g : Eng) (n : Nat) (x : MxNode) : (g.setNode n x).cultureRead = g.cultureRead := rfl
@[simp] theorem Eng.setNode_agActive (g : Eng) (n : Nat) (x : MxNode) : (g.setNode n x).agActive = g.agActive := rfl
@[simp] theorem Eng.setNode_agCulture (g : Eng) (n : Nat) (x : MxNode) : (g.setNode n x).agCulture = g.agCulture := rfl
@[simp] theorem Eng.setNode_mxActive (g : Eng) (n : Nat) (x : MxNode) : (g.setNode n x).mxActive = g.mxActive := rfl
@[simp] theorem Eng.setNode_mxCulture (g : Eng) (n : Nat) (x : MxNode) : (g.setNode n x).mxCulture = g.mxCulture := rfl
@[simp] theorem Eng.setNode_epActive (g : Eng) (n : Nat) (x : MxNode) : (g.setNode n x).epActive = g.epActive := rfl
@[simp] theorem Eng.setNode_epCulture (g : Eng) (n : Nat) (x : MxNode) : (g.setNode n x).epCulture = g.epCulture := rfl
@[simp] theorem Eng.setNode_elems (g : Eng) (n : Nat) (x : MxNode) : (g.setNode n x).elems = g.elems := rfl
@[simp] theorem Eng.setNode_pools (g : Eng) (n : Nat) (x : MxNode) : (g.setNode n x).pools = g.pools := rfl
@[simp] theorem Eng.setNode_flights (g : Eng) (n : Nat) (x : MxNode) : (g.setNode n x).flights = g.flights := rfl
@[simp] theorem Eng.setNode_firing (g : Eng) (n : Nat) (x : MxNode) : (g.setNode n x).firing = g.firing := rfl
@[simp] theorem Eng.setNode_vats (g : Eng) (n : Nat) (x : MxNode) : (g.setNode n x).vats = g.vats := rfl
@[simp] theorem Eng.setNode_streams (g : Eng) (n : Nat) (x : MxNode) : (g.setNode n x).streams = g.streams := rfl
@[simp] theorem Eng.setNode_templates (g : Eng) (n : Nat) (x : MxNode) : (g.setNode n x).templates = g.templates := rfl
@[simp] theorem Eng.setNode_queues (g : Eng) (n : Nat) (x : MxNode) : (g.setNode n x).queues = g.queues := rfl
@[simp] theorem Eng.setNode_copies (g : Eng) (n : Nat) (x : MxNode) : (g.setNode n x).copies = g.copies := rfl
@[simp] theorem Eng.setNode_copyReason (g : Eng) (n : Nat) (x : MxNode) : (g.setNode n x).copyReason = g.copyReason := rfl
@[simp] theorem Eng.setNode_walks (g : Eng) (n : Nat) (x : MxNode) : (g.setNode n x).walks = g.walks := rfl
@[simp] theorem Eng.setNode_hash (g : Eng) (n : Nat) (x : MxNode) : (g.setNode n x).hash = g.hash := rfl
@[simp] theorem Eng.setNode_ports (g : Eng) (n : Nat) (x : MxNode) : (g.setNode n x).ports = g.ports := rfl
@[simp] theorem Eng.setNode_sched (g : Eng) (n : Nat) (x : MxNode) : (g.setNode n x).sched = g.sched := rfl
@[simp] theorem Eng.setNode_ingress (g : Eng) (n : Nat) (x : MxNode) : (g.setNode n x).ingress = g.ingress := rfl
@[simp] theorem Eng.setNode_press (g : Eng) (n : Nat) (x : MxNode) : (g.setNode n x).press = g.press := rfl
@[simp] theorem Eng.setNode_unit (g : Eng) (n : Nat) (x : MxNode) : (g.setNode n x).unit = g.unit := rfl
@[simp] theorem Eng.setNode_eccAt (g : Eng) (n : Nat) (x : MxNode) : (g.setNode n x).eccAt = g.eccAt := rfl
@[simp] theorem Eng.setNode_cacheUe (g : Eng) (n : Nat) (x : MxNode) : (g.setNode n x).cacheUe = g.cacheUe := rfl
@[simp] theorem Eng.setNode_cacheCe (g : Eng) (n : Nat) (x : MxNode) : (g.setNode n x).cacheCe = g.cacheCe := rfl
@[simp] theorem Eng.setPort_node (g : Eng) (p : Nat) (x : EpState) : (g.setPort p x).node = g.node := rfl
@[simp] theorem Eng.setPort_partid (g : Eng) (p : Nat) (x : EpState) : (g.setPort p x).partid = g.partid := rfl
@[simp] theorem Eng.setPort_partWas (g : Eng) (p : Nat) (x : EpState) : (g.setPort p x).partWas = g.partWas := rfl
@[simp] theorem Eng.setPort_partAt (g : Eng) (p : Nat) (x : EpState) : (g.setPort p x).partAt = g.partAt := rfl
@[simp] theorem Eng.setPort_tenant (g : Eng) (p : Nat) (x : EpState) : (g.setPort p x).tenant = g.tenant := rfl
@[simp] theorem Eng.setPort_tfilt (g : Eng) (p : Nat) (x : EpState) : (g.setPort p x).tfilt = g.tfilt := rfl
@[simp] theorem Eng.setPort_jmask (g : Eng) (p : Nat) (x : EpState) : (g.setPort p x).jmask = g.jmask := rfl
@[simp] theorem Eng.setPort_masksWas (g : Eng) (p : Nat) (x : EpState) : (g.setPort p x).masksWas = g.masksWas := rfl
@[simp] theorem Eng.setPort_marking (g : Eng) (p : Nat) (x : EpState) : (g.setPort p x).marking = g.marking := rfl
@[simp] theorem Eng.setPort_tslot (g : Eng) (p : Nat) (x : EpState) : (g.setPort p x).tslot = g.tslot := rfl
@[simp] theorem Eng.setPort_slotOld (g : Eng) (p : Nat) (x : EpState) : (g.setPort p x).slotOld = g.slotOld := rfl
@[simp] theorem Eng.setPort_slotFrom (g : Eng) (p : Nat) (x : EpState) : (g.setPort p x).slotFrom = g.slotFrom := rfl
@[simp] theorem Eng.setPort_triggers (g : Eng) (p : Nat) (x : EpState) : (g.setPort p x).triggers = g.triggers := rfl
@[simp] theorem Eng.setPort_wake (g : Eng) (p : Nat) (x : EpState) : (g.setPort p x).wake = g.wake := rfl
@[simp] theorem Eng.setPort_storeBuf (g : Eng) (p : Nat) (x : EpState) : (g.setPort p x).storeBuf = g.storeBuf := rfl
@[simp] theorem Eng.setPort_commands (g : Eng) (p : Nat) (x : EpState) : (g.setPort p x).commands = g.commands := rfl
@[simp] theorem Eng.setPort_pend (g : Eng) (p : Nat) (x : EpState) : (g.setPort p x).pend = g.pend := rfl
@[simp] theorem Eng.setPort_raised (g : Eng) (p : Nat) (x : EpState) : (g.setPort p x).raised = g.raised := rfl
@[simp] theorem Eng.setPort_reports (g : Eng) (p : Nat) (x : EpState) : (g.setPort p x).reports = g.reports := rfl
@[simp] theorem Eng.setPort_hmsg (g : Eng) (p : Nat) (x : EpState) : (g.setPort p x).hmsg = g.hmsg := rfl
@[simp] theorem Eng.setPort_mcpol (g : Eng) (p : Nat) (x : EpState) : (g.setPort p x).mcpol = g.mcpol := rfl
@[simp] theorem Eng.setPort_plock (g : Eng) (p : Nat) (x : EpState) : (g.setPort p x).plock = g.plock := rfl
@[simp] theorem Eng.setPort_fenced (g : Eng) (p : Nat) (x : EpState) : (g.setPort p x).fenced = g.fenced := rfl
@[simp] theorem Eng.setPort_curds (g : Eng) (p : Nat) (x : EpState) : (g.setPort p x).curds = g.curds := rfl
@[simp] theorem Eng.setPort_entering (g : Eng) (p : Nat) (x : EpState) : (g.setPort p x).entering = g.entering := rfl
@[simp] theorem Eng.setPort_tlb (g : Eng) (p : Nat) (x : EpState) : (g.setPort p x).tlb = g.tlb := rfl
@[simp] theorem Eng.setPort_active (g : Eng) (p : Nat) (x : EpState) : (g.setPort p x).active = g.active := rfl
@[simp] theorem Eng.setPort_culture (g : Eng) (p : Nat) (x : EpState) : (g.setPort p x).culture = g.culture := rfl
@[simp] theorem Eng.setPort_activeRead (g : Eng) (p : Nat) (x : EpState) : (g.setPort p x).activeRead = g.activeRead := rfl
@[simp] theorem Eng.setPort_cultureRead (g : Eng) (p : Nat) (x : EpState) : (g.setPort p x).cultureRead = g.cultureRead := rfl
@[simp] theorem Eng.setPort_agActive (g : Eng) (p : Nat) (x : EpState) : (g.setPort p x).agActive = g.agActive := rfl
@[simp] theorem Eng.setPort_agCulture (g : Eng) (p : Nat) (x : EpState) : (g.setPort p x).agCulture = g.agCulture := rfl
@[simp] theorem Eng.setPort_mxActive (g : Eng) (p : Nat) (x : EpState) : (g.setPort p x).mxActive = g.mxActive := rfl
@[simp] theorem Eng.setPort_mxCulture (g : Eng) (p : Nat) (x : EpState) : (g.setPort p x).mxCulture = g.mxCulture := rfl
@[simp] theorem Eng.setPort_epActive (g : Eng) (p : Nat) (x : EpState) : (g.setPort p x).epActive = g.epActive := rfl
@[simp] theorem Eng.setPort_epCulture (g : Eng) (p : Nat) (x : EpState) : (g.setPort p x).epCulture = g.epCulture := rfl
@[simp] theorem Eng.setPort_elems (g : Eng) (p : Nat) (x : EpState) : (g.setPort p x).elems = g.elems := rfl
@[simp] theorem Eng.setPort_pools (g : Eng) (p : Nat) (x : EpState) : (g.setPort p x).pools = g.pools := rfl
@[simp] theorem Eng.setPort_flights (g : Eng) (p : Nat) (x : EpState) : (g.setPort p x).flights = g.flights := rfl
@[simp] theorem Eng.setPort_firing (g : Eng) (p : Nat) (x : EpState) : (g.setPort p x).firing = g.firing := rfl
@[simp] theorem Eng.setPort_vats (g : Eng) (p : Nat) (x : EpState) : (g.setPort p x).vats = g.vats := rfl
@[simp] theorem Eng.setPort_streams (g : Eng) (p : Nat) (x : EpState) : (g.setPort p x).streams = g.streams := rfl
@[simp] theorem Eng.setPort_templates (g : Eng) (p : Nat) (x : EpState) : (g.setPort p x).templates = g.templates := rfl
@[simp] theorem Eng.setPort_queues (g : Eng) (p : Nat) (x : EpState) : (g.setPort p x).queues = g.queues := rfl
@[simp] theorem Eng.setPort_copies (g : Eng) (p : Nat) (x : EpState) : (g.setPort p x).copies = g.copies := rfl
@[simp] theorem Eng.setPort_copyReason (g : Eng) (p : Nat) (x : EpState) : (g.setPort p x).copyReason = g.copyReason := rfl
@[simp] theorem Eng.setPort_walks (g : Eng) (p : Nat) (x : EpState) : (g.setPort p x).walks = g.walks := rfl
@[simp] theorem Eng.setPort_hash (g : Eng) (p : Nat) (x : EpState) : (g.setPort p x).hash = g.hash := rfl
@[simp] theorem Eng.setPort_mx (g : Eng) (p : Nat) (x : EpState) : (g.setPort p x).mx = g.mx := rfl
@[simp] theorem Eng.setPort_sched (g : Eng) (p : Nat) (x : EpState) : (g.setPort p x).sched = g.sched := rfl
@[simp] theorem Eng.setPort_ingress (g : Eng) (p : Nat) (x : EpState) : (g.setPort p x).ingress = g.ingress := rfl
@[simp] theorem Eng.setPort_press (g : Eng) (p : Nat) (x : EpState) : (g.setPort p x).press = g.press := rfl
@[simp] theorem Eng.setPort_unit (g : Eng) (p : Nat) (x : EpState) : (g.setPort p x).unit = g.unit := rfl
@[simp] theorem Eng.setPort_eccAt (g : Eng) (p : Nat) (x : EpState) : (g.setPort p x).eccAt = g.eccAt := rfl
@[simp] theorem Eng.setPort_cacheUe (g : Eng) (p : Nat) (x : EpState) : (g.setPort p x).cacheUe = g.cacheUe := rfl
@[simp] theorem Eng.setPort_cacheCe (g : Eng) (p : Nat) (x : EpState) : (g.setPort p x).cacheCe = g.cacheCe := rfl

end Sys2Proof.Machine
end

