-- ==== Sys2Proof/Laws/Memory.lean ====
section
/-! SUPPORT. Memory: a read after a write, and the canonical form that every write keeps. -/

namespace Sys2Proof.Machine

/-- Every address of the list lies above `lo`. -/
theorem memWfFrom_above {lo : Nat} {m : List Host.Cell} (h : memWfFrom (some lo) m = true) :
    ∀ p ∈ m, lo < p.1 := by
  induction m generalizing lo with
  | nil => simp
  | cons q t ih =>
    obtain ⟨b, x⟩ := q
    simp only [memWfFrom, Bool.and_eq_true, decide_eq_true_eq] at h
    intro p hp
    rcases List.mem_cons.1 hp with rfl | hp
    · exact h.1.1
    · exact Nat.lt_trans h.1.1 (ih h.2 p hp)

/-- A canonical list stays canonical above a lower bound that its addresses respect. -/
theorem memWfFrom_weaken {lo lo' : Option Nat} {m : List Host.Cell} (h : memWfFrom lo m = true)
    (hlo : ∀ l, lo' = some l → ∀ p ∈ m, l < p.1) : memWfFrom lo' m = true := by
  cases m with
  | nil => rfl
  | cons q t =>
    obtain ⟨b, x⟩ := q
    simp only [memWfFrom, Bool.and_eq_true] at h ⊢
    refine ⟨⟨?_, h.1.2⟩, h.2⟩
    cases lo' with
    | none => rfl
    | some l => simpa using hlo l rfl (b, x) (List.mem_cons_self ..)

/-- An address below every listed one is not listed. -/
theorem memRead_below {m : List Host.Cell} {a : Nat} (h : ∀ p ∈ m, a < p.1) : memRead m a = unwrittenByte := by
  cases m with
  | nil => rfl
  | cons q t =>
    obtain ⟨b, x⟩ := q
    have hb : a < b := h (b, x) (List.mem_cons_self ..)
    simp [memRead, Nat.ne_of_lt hb, hb]

/-- One byte after a write of one byte. -/
theorem memRead_memWrite {lo : Option Nat} {m : List Host.Cell} (h : memWfFrom lo m = true) (a x : Nat) (v : Byte) :
    memRead (memWrite m a v) x = if x = a then v else memRead m x := by
  induction m generalizing lo with
  | nil =>
    by_cases hv : v = unwrittenByte <;> by_cases hx : x = a <;> simp [memWrite, memRead, hv, hx]
  | cons q t ih =>
    obtain ⟨b, y⟩ := q
    have ht : memWfFrom (some b) t = true := by
      simp only [memWfFrom, Bool.and_eq_true] at h
      exact h.2
    have hup := memWfFrom_above ht
    rcases Nat.lt_trichotomy a b with hab | hab | hab
    · have hbelow : memRead ((b, y) :: t) a = unwrittenByte := by
        simp [memRead, Nat.ne_of_lt hab, hab]
      by_cases hv : v = unwrittenByte
      · by_cases hx : x = a
        · subst hx
          simp [memWrite, hab, hv, hbelow]
        · simp [memWrite, hab, hv, hx]
      · by_cases hx : x = a
        · simp [memWrite, hab, hv, memRead, hx]
        · simp only [memWrite, hab, if_true, hv, if_false, hx]
          by_cases hxa : x < a
          · have hxb : x < b := Nat.lt_trans hxa hab
            simp [memRead, hx, hxa, hxb, Nat.ne_of_lt hxb]
          · rw [memRead, if_neg hx, if_neg hxa]
    · subst hab
      by_cases hv : v = unwrittenByte
      · simp only [memWrite, Nat.lt_irrefl, if_false, if_true, hv]
        by_cases hx : x = a
        · subst hx
          rw [if_pos rfl]
          exact memRead_below hup
        · rw [if_neg hx, memRead, if_neg hx]
          by_cases hxa : x < a
          · rw [if_pos hxa]
            exact memRead_below fun p hp => Nat.lt_trans hxa (hup p hp)
          · rw [if_neg hxa]
      · by_cases hx : x = a <;> simp [memWrite, memRead, hv, hx]
    · have h1 : ¬ a < b := Nat.lt_asymm hab
      have h2 : ¬ a = b := Nat.ne_of_gt hab
      simp only [memWrite, h1, h2, if_false, memRead]
      by_cases hxb : x = b
      · subst hxb
        simp [Nat.ne_of_lt hab]
      · by_cases hxl : x < b
        · have hxa : x ≠ a := Nat.ne_of_lt (Nat.lt_trans hxl hab)
          simp [hxb, hxl, hxa]
        · simp [hxb, hxl, ih ht]

/-- A write keeps the canonical form. -/
theorem memWfFrom_memWrite {lo : Option Nat} {m : List Host.Cell} (h : memWfFrom lo m = true) {a : Nat}
    (hlo : ∀ l, lo = some l → l < a) (v : Byte) : memWfFrom lo (memWrite m a v) = true := by
  induction m generalizing lo with
  | nil =>
    by_cases hv : v = unwrittenByte
    · simp [memWrite, memWfFrom, hv]
    · cases lo with
      | none => simp [memWrite, memWfFrom, hv]
      | some l => simp [memWrite, memWfFrom, hv, hlo l rfl]
  | cons q t ih =>
    obtain ⟨b, y⟩ := q
    have h' := h
    simp only [memWfFrom, Bool.and_eq_true] at h'
    obtain ⟨⟨hb, hy⟩, ht⟩ := h'
    have hup := memWfFrom_above ht
    rcases Nat.lt_trichotomy a b with hab | hab | hab
    · by_cases hv : v = unwrittenByte
      · simpa [memWrite, hab, hv] using h
      · simp only [memWrite, hab, if_true, hv, if_false, memWfFrom, Bool.and_eq_true]
        refine ⟨⟨?_, by simp [hv]⟩, ⟨by simp, hy⟩, ht⟩
        cases lo with
        | none => rfl
        | some l => simpa using hlo l rfl
    · subst hab
      by_cases hv : v = unwrittenByte
      · simp only [memWrite, Nat.lt_irrefl, if_false, if_true, hv]
        refine memWfFrom_weaken ht ?_
        intro l hl p hp
        exact Nat.lt_trans (hlo l hl) (hup p hp)
      · simp only [memWrite, Nat.lt_irrefl, if_false, if_true, hv, memWfFrom, Bool.and_eq_true]
        exact ⟨⟨hb, by simp [hv]⟩, ht⟩
    · have h1 : ¬ a < b := Nat.lt_asymm hab
      have h2 : ¬ a = b := Nat.ne_of_gt hab
      simp only [memWrite, h1, h2, if_false, memWfFrom, Bool.and_eq_true]
      refine ⟨⟨hb, hy⟩, ih ht ?_⟩
      intro l hl
      cases hl
      exact hab

theorem memWf_memWrite {m : List Host.Cell} (h : Memory.wf m = true) (a : Nat) (v : Byte) :
    Memory.wf (memWrite m a v) = true :=
  memWfFrom_memWrite h (fun _ hl => nomatch hl) v

/-- Writing bytes keeps the canonical form. -/
theorem memWf_memPut {m : List Host.Cell} (h : Memory.wf m = true) (a : Nat) (bs : List Byte) :
    Memory.wf (memPut m a bs) = true := by
  induction bs generalizing m a with
  | nil => exact h
  | cons b t ih => exact ih (memWf_memWrite h a b) (a + 1)

/-- One byte after a write of some bytes. -/
theorem memRead_memPut {m : List Host.Cell} (h : Memory.wf m = true) (a x : Nat) (bs : List Byte) :
    memRead (memPut m a bs) x = if a ≤ x ∧ x < a + bs.length then bs.getD (x - a) 0 else memRead m x := by
  induction bs generalizing m a with
  | nil =>
    have : ¬ (a ≤ x ∧ x < a + ([] : List Byte).length) := by simp
    rw [if_neg this]
    rfl
  | cons b t ih =>
    rw [memPut, ih (memWf_memWrite h a b), memRead_memWrite h]
    by_cases hx : x = a
    · subst hx
      simp
    · by_cases hin : a + 1 ≤ x ∧ x < a + 1 + t.length
      · have : a ≤ x ∧ x < a + (b :: t).length := by simp; omega
        have e : x - a = (x - (a + 1)) + 1 := by omega
        rw [if_pos hin, if_pos this, e]
        rfl
      · have : ¬ (a ≤ x ∧ x < a + (b :: t).length) := by simp; omega
        rw [if_neg hin, if_neg this, if_neg hx]

/-! Stores of the units. -/

@[simp] theorem World.markLines_mem (w : World) (a n : Nat) : (w.markLines a n).mem = w.mem := by
  unfold World.markLines
  split <;> rfl

/-- The only change that a store makes to memory. -/
@[simp] theorem World.store_mem (w : World) (a : Nat) (bs : List Byte) : (w.store a bs).mem = memPut w.mem a bs := rfl

theorem World.store_wf {w : World} (h : Memory.wf w.mem = true) (a : Nat) (bs : List Byte) :
    Memory.wf (w.store a bs).mem = true := memWf_memPut h a bs

/-- Memory lists nothing at reset. -/
theorem State.reset_wf : Memory.wf State.reset.w.mem = true := rfl

/-! Little-endian numbers. -/

@[simp] theorem leBytes_length (n x : Nat) : (leBytes n x).length = n := by
  induction n generalizing x with
  | zero => rfl
  | succ n ih => simp [leBytes, ih]

theorem leBytes_getD (n x k : Nat) (h : k < n) : (leBytes n x).getD k 0 = byteOf x k := by
  induction n generalizing x k with
  | zero => omega
  | succ n ih =>
    cases k with
    | zero => simp [leBytes, byteOf]
    | succ k =>
      have := ih (x / 256) k (by omega)
      simpa [leBytes, byteOf, Nat.pow_succ, Nat.div_div_eq_div_mul, Nat.mul_comm] using this

/-- One byte after a store of a number. -/
theorem World.store_read {w : World} (h : Memory.wf w.mem = true) (a n v x : Nat) :
    memRead (w.store a (leBytes n v)).mem x = if a ≤ x ∧ x < a + n then byteOf v (x - a) else memRead w.mem x := by
  rw [World.store_mem, memRead_memPut h]
  simp only [leBytes_length]
  split
  · exact leBytes_getD n v _ (by omega)
  · rfl

end Sys2Proof.Machine
end

