-- ==== Sys2Proof/Laws/Access.lean ====
section
/-! SUPPORT. What translation, the trace fabric and the store buffer leave as it was, and what they change. -/

namespace Sys2Proof.Machine

/-! An event changes nothing but the trace fabric. -/

@[simp] theorem World.traceTo_mem (w : World) (k : Nat) (b : Bool) (r : BitVec 128) : (w.traceTo k b r).mem = w.mem := by
  unfold World.traceTo
  dsimp only
  split <;> rfl

@[simp] theorem World.traceTo_engs (w : World) (k : Nat) (b : Bool) (r : BitVec 128) :
    (w.traceTo k b r).engs = w.engs := by
  unfold World.traceTo
  dsimp only
  split <;> rfl

@[simp] theorem World.traceTo_eccUe (w : World) (k : Nat) (b : Bool) (r : BitVec 128) :
    (w.traceTo k b r).eccUe = w.eccUe := by
  unfold World.traceTo
  dsimp only
  split <;> rfl

/-- Everything that an event leaves: memory, its failing words, and of the units all but what they still have to raise. -/
theorem World.emit_keeps (w : World) (c u : Nat) (t : BitVec 8) (p : BitVec 32) :
    (w.emit c u t p).mem = w.mem ∧ (w.emit c u t p).eccUe = w.eccUe ∧
      ∀ k, ∃ r q, (w.emit c u t p).eng k = { w.eng k with raised := r, reports := q } := by
  have same : ∀ v : World, v.engs = w.engs → ∀ k, ∃ r q, v.eng k = { w.eng k with raised := r, reports := q } := by
    intro v h k
    refine ⟨(w.eng k).raised, (w.eng k).reports, ?_⟩
    unfold World.eng
    rw [h]
  have put : ∀ (v : World) (r : Tbl Nat) (q : List Report), v.engs = w.engs → ∀ k, ∃ r' q',
      (v.setEng c { v.eng c with raised := r, reports := q }).eng k = { w.eng k with raised := r', reports := q' } := by
    intro v r q h k
    have e : ∀ k, v.eng k = w.eng k := by
      intro k
      unfold World.eng
      rw [h]
    by_cases hk : k = c
    · subst hk
      exact ⟨r, q, by simp [e]⟩
    · exact ⟨(w.eng k).raised, (w.eng k).reports, by rw [World.eng_setEng_ne _ _ hk, e]⟩
  unfold World.emit
  split
  · exact ⟨rfl, rfl, same w rfl⟩
  · split
    · exact ⟨rfl, rfl, same w rfl⟩
    · split
      · exact ⟨rfl, rfl, put w _ _ rfl⟩
      · unfold World.raiseEvent
        dsimp only
        split
        · exact ⟨World.traceTo_mem .., World.traceTo_eccUe .., same _ (World.traceTo_engs ..)⟩
        · exact ⟨by simp, by simp, put _ _ _ (World.traceTo_engs ..)⟩

@[simp] theorem World.emit_mem (w : World) (c u : Nat) (t : BitVec 8) (p : BitVec 32) : (w.emit c u t p).mem = w.mem :=
  (w.emit_keeps c u t p).1

@[simp] theorem World.emit_eccUe (w : World) (c u : Nat) (t : BitVec 8) (p : BitVec 32) :
    (w.emit c u t p).eccUe = w.eccUe := (w.emit_keeps c u t p).2.1

/-- What the event of a corrected word leaves. -/
theorem World.corrected_keeps (w : World) (c u i a n : Nat) :
    (w.corrected c u i a n).mem = w.mem ∧ (w.corrected c u i a n).eccUe = w.eccUe ∧
      ∀ k, ∃ r q, (w.corrected c u i a n).eng k = { w.eng k with raised := r, reports := q } := by
  unfold World.corrected
  split
  · exact ⟨rfl, rfl, fun k => ⟨_, _, rfl⟩⟩
  · exact World.emit_keeps ..

@[simp] theorem World.corrected_mem (w : World) (c u i a n : Nat) : (w.corrected c u i a n).mem = w.mem :=
  (w.corrected_keeps c u i a n).1

@[simp] theorem World.corrected_eccUe (w : World) (c u i a n : Nat) : (w.corrected c u i a n).eccUe = w.eccUe :=
  (w.corrected_keeps c u i a n).2.1

/-- What the corrected words of a control processor's cache leave. -/
theorem World.cacheCorrected_keeps (w : World) (c a n : Nat) :
    (w.cacheCorrected c a n).mem = w.mem ∧ (w.cacheCorrected c a n).eccUe = w.eccUe ∧
      ∀ k, ∃ r q u, (w.cacheCorrected c a n).eng k = { w.eng k with raised := r, reports := q, cacheCe := u } := by
  have one : ∀ us : List Nat,
      let v := (w.setEng c { w.eng c with cacheCe := us }).eccCorrected c uCP memCache 0
      v.mem = w.mem ∧ v.eccUe = w.eccUe ∧ ∀ k, ∃ r q u, v.eng k = { w.eng k with raised := r, reports := q, cacheCe := u } := by
    intro us
    obtain ⟨h1, h2, h3⟩ := (w.setEng c { w.eng c with cacheCe := us }).emit_keeps c uCP tECCCE
      ((eccInfo memCache (uCP == uCP) (uCP == uCOPY) 0).setWidth 32)
    refine ⟨h1, h2, fun k => ?_⟩
    obtain ⟨r, q, h⟩ := h3 k
    by_cases hk : k = c
    · subst hk
      exact ⟨r, q, us, h.trans (by simp)⟩
    · exact ⟨r, q, (w.eng k).cacheCe, h.trans (by rw [World.eng_setEng_ne _ _ hk])⟩
  unfold World.cacheCorrected
  dsimp only
  split
  · exact ⟨rfl, rfl, fun k => ⟨_, _, _, rfl⟩⟩
  · exact one _

/-- What the corrected words of a control processor's read leave. -/
theorem World.cpCorrected_keeps (w : World) (c a n : Nat) :
    (w.cpCorrected c a n).mem = w.mem ∧ (w.cpCorrected c a n).eccUe = w.eccUe ∧
      ∀ k, ∃ r q u, (w.cpCorrected c a n).eng k = { w.eng k with raised := r, reports := q, cacheCe := u } := by
  obtain ⟨h1, h2, h3⟩ := w.cacheCorrected_keeps c a n
  obtain ⟨e1, e2, e3⟩ := (w.cacheCorrected c a n).corrected_keeps c uCP 0 a n
  refine ⟨e1.trans h1, e2.trans h2, fun k => ?_⟩
  obtain ⟨r, q, h⟩ := e3 k
  obtain ⟨_, _, u, h'⟩ := h3 k
  exact ⟨r, q, u, h.trans (by rw [h'])⟩

/-- Everything that a synchronous trap does: trap entry, and its event. -/
theorem State.trapAt_trapped (s : State) (t : Trap) (epc : Word) :
    OthersStill s (s.trapAt t epc) ∧ (s.trapAt t epc).w.mem = s.w.mem ∧
      s.cp.Trapped (s.trapAt t epc).cp t.code false epc t.info := by
  refine ⟨⟨rfl, rfl, fun k h => s.withCp_others _ k h⟩, World.emit_mem .., ?_⟩
  have e : (s.trapAt t epc).cp = s.cp.enterTrap t.code false epc t.info := State.withCp_cp _ _
  rw [e]
  exact s.cp.enterTrap_trapped t.code false epc t.info

/-! Translation answers out of the TLB and changes nothing, or asks for a walk (R300, R301). -/

/-- Everything that a translation does: an answer changes nothing, a wait adds at most its request to the walks. -/
theorem World.translate_world (w : World) (c : Nat) (who : Walker) (mine : Walk → Bool) (asid : BitVec 16) (root : Word)
    (p : Bool) (k : Access) (va : Word) :
    (w.translate c who mine asid root p k va).2 = w ∨ ((w.translate c who mine asid root p k va).1 = .error .walk ∧
      ∃ x, (w.translate c who mine asid root p k va).2 = w.setEng c ((w.eng c).askWalk x)) := by
  unfold World.translate
  dsimp only
  split
  · exact .inl rfl
  · split
    · split <;> exact .inl rfl
    · split
      · exact .inl rfl
      · split
        · exact .inl rfl
        · exact .inr ⟨rfl, _, rfl⟩

theorem State.translate_world (s : State) (k : Access) (va : Word) :
    (s.translate k va).2 = s.w ∨ ((s.translate k va).1 = .error .walk ∧
      ∃ x, (s.translate k va).2 = s.w.setEng s.cur (s.eng.askWalk x)) := by
  unfold State.translate
  split
  · exact .inl rfl
  · exact World.translate_world ..

/-- A translation that answers changes nothing. -/
theorem State.translate_ok {s : State} {k : Access} {va : Word} {pa : PhysAddr} {w1 : World}
    (h : s.translate k va = (.ok pa, w1)) : w1 = s.w := by
  rcases s.translate_world k va with h' | ⟨h', _⟩
  · rw [← h', h]
  · simp [h] at h'

/-! The store buffer. -/

@[simp] theorem World.markLines_storeBuf (w : World) (a n c : Nat) :
    ((w.markLines a n).eng c).storeBuf = (w.eng c).storeBuf := by
  unfold World.markLines
  split
  · next k e o _ =>
    by_cases h : c = k
    · subst h
      simp
    · simp [World.eng_setEng, h]
  · rfl

@[simp] theorem World.store_storeBuf (w : World) (a : Nat) (bs : List Byte) (c : Nat) :
    ((w.store a bs).eng c).storeBuf = (w.eng c).storeBuf := World.markLines_storeBuf ..

/-- The byte that a store holds for an address is the one it writes there. -/
theorem extract_eq_byteOf (d : BitVec 512) (k : Nat) : d.extractLsb' (8 * k) 8 = byteOf d.toNat k := by
  apply BitVec.eq_of_toNat_eq
  simp [byteOf, Nat.shiftRight_eq_div_pow, Nat.pow_mul]

/-- The core sees a younger store before the older ones. -/
theorem seenByte_append (buf : List PendingStore) (p : PendingStore) (m : List Host.Cell) (x : Nat) :
    seenByte (buf ++ [p]) m x =
      if p.addr ≤ x ∧ x < p.addr + p.len then byteOf p.data.toNat (x - p.addr) else seenByte buf m x := by
  unfold seenByte
  rw [List.reverse_append, List.reverse_singleton, List.singleton_append, List.find?_cons]
  by_cases h : p.addr ≤ x ∧ x < p.addr + p.len
  · simp [h, extract_eq_byteOf]
  · rw [if_neg h]
    have : (decide (p.addr ≤ x) && decide (x < p.addr + p.len)) = false := by
      simpa using h
    rw [this]

/-- Performing stores in order leaves in memory what the core saw. -/
theorem performStores_read {w : World} (h : Memory.wf w.mem = true) (buf : List PendingStore) (x : Nat) :
    Memory.wf (buf.foldl (fun w p => w.performStore p) w).mem = true ∧
      memRead (buf.foldl (fun w p => w.performStore p) w).mem x = seenByte buf w.mem x := by
  induction buf using List.reverseRecOn with
  | nil => exact ⟨h, rfl⟩
  | append_singleton buf p ih =>
    rw [List.foldl_append]
    refine ⟨World.store_wf ih.1 _ _, ?_⟩
    rw [seenByte_append, ← ih.2]
    exact World.store_read ih.1 _ _ _ _

/-- The buffer is empty once every store has been performed, and memory holds what the core saw. -/
theorem World.drainAll_read {w : World} (h : Memory.wf w.mem = true) (c x : Nat) :
    Memory.wf (w.drainAll c).mem = true ∧ memRead (w.drainAll c).mem x = seenByte (w.eng c).storeBuf w.mem x :=
  performStores_read (w := w.setEng c { w.eng c with storeBuf := [] }) h (w.eng c).storeBuf x

theorem performStores_storeBuf (w : World) (buf : List PendingStore) (c : Nat) :
    ((buf.foldl (fun w p => w.performStore p) w).eng c).storeBuf = (w.eng c).storeBuf := by
  induction buf generalizing w with
  | nil => rfl
  | cons p t ih => exact (ih (w.performStore p)).trans (World.store_storeBuf ..)

@[simp] theorem World.drainAll_storeBuf (w : World) (c : Nat) : ((w.drainAll c).eng c).storeBuf = [] := by
  unfold World.drainAll
  rw [performStores_storeBuf]
  simp

/-- What the core sees is what it saw while its oldest stores are performed. -/
theorem performStores_sees {w : World} (h : Memory.wf w.mem = true) (a b : List PendingStore) (x : Nat) :
    seenByte b (a.foldl (fun w p => w.performStore p) w).mem x = seenByte (a ++ b) w.mem x := by
  have h1 := performStores_read h (a ++ b) x
  have h2 := performStores_read (performStores_read h a x).1 b x
  rw [List.foldl_append] at h1
  rw [← h1.2, ← h2.2]

/-- The stores that a release leaves in the buffer are the youngest, and lie outside the scope's instance (R336, R338). -/
theorem release_rest {c : Nat} {scope : BitVec 2} {buf : List PendingStore} {p : PendingStore}
    (h : p ∈ buf.drop (releaseCount c scope buf)) : inInstance c scope p.addr = false := by
  have e : buf.drop (releaseCount c scope buf) =
      (buf.reverse.takeWhile (fun p => !inInstance c scope p.addr)).reverse := by
    have hs := List.takeWhile_append_dropWhile (p := fun p : PendingStore => !inInstance c scope p.addr) (l := buf.reverse)
    have hb : buf = (buf.reverse.dropWhile (fun p => !inInstance c scope p.addr)).reverse ++
        (buf.reverse.takeWhile (fun p => !inInstance c scope p.addr)).reverse := by
      rw [← List.reverse_append, hs, List.reverse_reverse]
    unfold releaseCount
    generalize hx : (buf.reverse.dropWhile (fun p => !inInstance c scope p.addr)).reverse = x at hb
    generalize hy : (buf.reverse.takeWhile (fun p => !inInstance c scope p.addr)) = y at hb
    subst hb
    simp
  rw [e, List.mem_reverse] at h
  simpa using List.mem_takeWhile_imp h

/-- Everything that a release does to the core's own accesses: it sees what it saw, and the stores that stay lie outside
the scope's instance. -/
theorem World.releaseAt_sees {w : World} (h : Memory.wf w.mem = true) (c : Nat) (scope : BitVec 2) :
    Memory.wf (w.releaseAt c scope).mem = true ∧
      (∀ x, seenByte ((w.releaseAt c scope).eng c).storeBuf (w.releaseAt c scope).mem x =
        seenByte (w.eng c).storeBuf w.mem x) ∧
      ∀ p ∈ ((w.releaseAt c scope).eng c).storeBuf, inInstance c scope p.addr = false := by
  have hb : ((w.releaseAt c scope).eng c).storeBuf =
      (w.eng c).storeBuf.drop (releaseCount c scope (w.eng c).storeBuf) := by
    unfold World.releaseAt
    rw [performStores_storeBuf]
    simp
  refine ⟨(performStores_read (w := w.setEng c _) h _ 0).1, fun x => ?_, fun p hp => ?_⟩
  · rw [hb]
    exact (performStores_sees (w := w.setEng c _) h _ _ x).trans (by rw [List.take_append_drop]; rfl)
  · rw [hb] at hp
    exact release_rest hp

/-! Accesses of the control processor to plain memory. -/

/-- The address of a displacement, as an integer (R345). -/
theorem State.dispAddr_eq (s : State) (a : Reg) (w : BitVec 2) (i : BitVec 10) :
    s.dispAddr a w i = BitVec.ofInt 64 ((s.reg a).toInt + i.toInt * (2 ^ w.toNat : Nat)) := by
  unfold State.dispAddr bytesOf
  apply BitVec.eq_of_toInt_eq
  have h1 : (BitVec.ofNat 64 (2 ^ w.toNat)).toInt = (2 ^ w.toNat : Nat) := by
    revert w
    decide
  have h2 : (i.signExtend 64).toInt = i.toInt := BitVec.toInt_signExtend_of_le (by omega)
  rw [BitVec.toInt_add, BitVec.toInt_mul, h1, h2]
  simp

/-- A load that meets no failing word finds none, whatever its own stores cover. -/
theorem World.failingLoad_none {w : World} {ues : List Nat} {c a n : Nat}
    (h : ∀ u ∈ ues, ¬ ((checkWord u).1 < a + n ∧ a < (checkWord u).1 + (checkWord u).2)) :
    w.failingLoad ues c a n = none := by
  unfold World.failingLoad
  rw [List.min?_eq_none_iff, List.filter_eq_nil_iff]
  intro u hu hx
  rw [List.any_eq_true] at hx
  obtain ⟨i, hi, hb⟩ := hx
  simp only [List.mem_range, Bool.and_eq_true, decide_eq_true_eq] at hi hb
  exact h u hu ⟨by omega, by omega⟩

/-- A read of plain memory (R333, R345): the bytes that the core sees; only events to raise and the corrected words of its
cache change. -/
theorem State.physRead_plain {s : State} {va : Word} {pa : PhysAddr} {n : Nat} (b : Bool) (hp : PlainAt s pa)
    (hf : CleanAt s pa.addr n) :
    s.physRead va pa n b = .ok (s.seesNat pa.addr n, s.withWorld (s.w.cpCorrected s.cur pa.addr n)) := by
  have hf1 : s.w.failingLoad s.eng.cacheUe s.cur pa.addr n = none := World.failingLoad_none hf.cache
  have hf2 : s.w.failingLoad s.w.eccUe s.cur pa.addr n = none := by
    apply World.failingLoad_none
    intro u hu' hx
    have := hf.memory
    unfold World.failing at this
    rw [List.min?_eq_none_iff, List.filter_eq_nil_iff] at this
    exact this u hu' (by simpa using hx)
  have hpl : s.plainRead pa.addr n = .ok (s.seesNat pa.addr n, s.withWorld (s.w.cpCorrected s.cur pa.addr n)) := by
    unfold State.plainRead
    simp only [hf1, hf2]
    rfl
  rw [← hpl]
  unfold State.physRead
  rw [hp.here]
  simp only [hp.reach, if_true]
  rcases hp.region with ⟨c, hc⟩ | ⟨c, e', o, hc, hb⟩
  · simp [hc]
  · simp [hc, hb]

/-- Loading plain memory at a virtual address. -/
theorem State.load_plain {s : State} {va : Word} {pa : PhysAddr} {w1 : World} {n : Nat}
    (h : s.translate .read va = (.ok pa, w1)) (hp : PlainAt s pa) (hf : CleanAt s pa.addr n) :
    s.load va n = .ok (s.seesNat pa.addr n, s.withWorld (s.w.cpCorrected s.cur pa.addr n)) := by
  obtain rfl := State.translate_ok h
  unfold State.load
  rw [h]
  exact congrArg (Except.mapError MemStop.trap) (State.physRead_plain false hp hf)

end Sys2Proof.Machine
end

