-- ==== Sys2Proof/Tests/Slice0.lean ====
section
/-! SUPPORT. Tests: words of the specification, terms that are not well formed, single steps with results taken from the
specification, and for each statement a state and operands that meet its hypotheses. -/

open Sys2Proof Sys2Proof.Machine

namespace Sys2Proof.Tests

set_option Elab.async false

/-! States built by hand: core 0 runs in the privileged mode with XOFF, so that an address is its own translation. -/

def cpRun : Cp := { Cp.reset 0 with mode := .running }
def cpUser : Cp := { cpRun with mstat := 0 }
def regsOf (c : Cp) (rs : List (Reg × Word)) : Cp := rs.foldl (fun c p => c.setReg p.1 p.2) c
def stateOf (c : Cp) (g : Eng) (m : List Host.Cell) : State :=
  { State.reset with cps := [(0, c)], w := { World.reset with engs := [(0, g)], mem := m } }
def regs (rs : List (Reg × Word)) : State := stateOf (regsOf cpRun rs) Eng.reset []
def userRegs (rs : List (Reg × Word)) : State := stateOf (regsOf cpUser rs) Eng.reset []
def engState (g : Eng) : State := stateOf cpRun g []

/-- The state after an instruction that answers one. -/
def after (i : Instr) (s : State) : State :=
  match exec i s with
  | .next t => t
  | _ => State.reset

/-! Words written out from the encodings (R40 to R47) and the worked examples of the rules. -/

theorem test_words_worked_out :
    decodeWord 0x04A11005 = .ok (.div 5 1 2 0) ∧
    decodeWord 0x04632408 = .ok (.remu 3 3 4 1) ∧
    decodeWord 0x18E5000C = .ok (.shli 7 5 12) ∧
    decodeWord 0x2949D400 = .ok (.ld 10 9 3 1 1 0) ∧
    decodeWord 0x2C828001 = .ok (.ldu 4 2 2 0 0 1) ∧
    decodeWord 0x286503FF = .ok (.ld 3 5 0 0 0 0x3FF) ∧
    decodeWord 0x30E4E800 = .ok (.st 7 4 3 2 2 0) ∧
    decodeWord 0x34662858 = .ok (.amoadd 3 6 5 2 3 0) ∧
    decodeWord 0x38462080 = .ok (.casQ 2 6 4 0 0) ∧
    decodeWord 0x40000000 = .ok (.jump 0) := by decide +kernel

theorem test_words_worked_out_2 :
    decodeWord 0x49485006 = .ok (.bgeu 4 5 6) ∧
    decodeWord 0x4C1F0000 = .ok (.jr 31) ∧
    decodeWord 0x3C000012 = .ok (.fence 2 1) ∧
    decodeWord 0x3C050084 = .ok (.sbar 5 2) ∧
    decodeWord 0x3C862908 = .ok (.wait 4 6 5 1 0) ∧
    decodeWord 0x01007005 = .ok (.srr 8 5) ∧
    decodeWord 0x00068003 = .ok (.srw 6 3) ∧
    decodeWord 0x00866000 = .ok (.pressSave 4 6) ∧
    decodeWord 0x00055002 = .ok (.tlbiVa 5) ∧
    decodeWord 0x00000000 = .ok .nop := by decide +kernel

/-! The decoder on one word of every instruction that a control processor fetches, each word put together from
its row of the opcode table (R42 to R48) and, in each field, a value with its highest bit set. -/

theorem test_decode_sys_1 :
    decodeWord 0x00000000 = .ok .nop ∧
    decodeWord 0x00001808 = .ok (.trap 0x808) ∧
    decodeWord 0x00002000 = .ok .eret ∧
    decodeWord 0x0000380B = .ok (.brk 0x80b) ∧
    decodeWord 0x00004000 = .ok .idle ∧
    decodeWord 0x00005000 = .ok .tlbiAll ∧
    decodeWord 0x00165001 = .ok (.tlbiAsid 22) ∧
    decodeWord 0x001D5002 = .ok (.tlbiVa 29) ∧
    decodeWord 0x00145003 = .ok (.tlbiVaall 20) ∧
    decodeWord 0x03726000 = .ok (.pressSave 27 18) ∧
    decodeWord 0x03306001 = .ok (.pressPart 25 16) ∧
    decodeWord 0x02FE6002 = .ok (.pressRestore 23 30) := by decide +kernel

theorem test_decode_sys_2 :
    decodeWord 0x02A0782C = .ok (.srr 21 0x82c) ∧
    decodeWord 0x00138832 = .ok (.srw 19 0x832) := by decide +kernel

theorem test_decode_alu_1 :
    decodeWord 0x0638FC00 = .ok (.add 17 24 31 1) ∧
    decodeWord 0x07B4DC01 = .ok (.sub 29 20 27 1) ∧
    decodeWord 0x0730BC02 = .ok (.mul 25 16 23 1) ∧
    decodeWord 0x06BC9803 = .ok (.mulh 21 28 19) ∧
    decodeWord 0x0751C004 = .ok (.mulhu 26 17 24) ∧
    decodeWord 0x07F6EC05 = .ok (.div 31 22 29 1) ∧
    decodeWord 0x0772CC06 = .ok (.divu 27 18 25 1) ∧
    decodeWord 0x06FEAC07 = .ok (.rem 23 30 21 1) ∧
    decodeWord 0x067A8C08 = .ok (.remu 19 26 17 1) ∧
    decodeWord 0x07F6E809 = .ok (.and 31 22 29) ∧
    decodeWord 0x069B900A = .ok (.or 20 27 18) ∧
    decodeWord 0x0730B80B = .ok (.xor 25 16 23) := by decide +kernel

theorem test_decode_alu_2 :
    decodeWord 0x07D5E00C = .ok (.andn 30 21 28) ∧
    decodeWord 0x067A8C0D = .ok (.shl 19 26 17 1) ∧
    decodeWord 0x07F6EC0E = .ok (.shr 31 22 29 1) ∧
    decodeWord 0x0772CC0F = .ok (.sar 27 18 25 1) ∧
    decodeWord 0x06FEAC10 = .ok (.rol 23 30 21 1) ∧
    decodeWord 0x067A8811 = .ok (.min 19 26 17) ∧
    decodeWord 0x071FB012 = .ok (.max 24 31 22) ∧
    decodeWord 0x07B4D813 = .ok (.minu 29 20 27) ∧
    decodeWord 0x06598014 = .ok (.maxu 18 25 16) ∧
    decodeWord 0x06FEA815 = .ok (.seq 23 30 21) ∧
    decodeWord 0x0793D016 = .ok (.sne 28 19 26) ∧
    decodeWord 0x0638F817 = .ok (.slt 17 24 31) := by decide +kernel

theorem test_decode_alu_3 :
    decodeWord 0x06DDA018 = .ok (.sltu 22 29 20) ∧
    decodeWord 0x0772C819 = .ok (.sle 27 18 25) ∧
    decodeWord 0x0617F01A = .ok (.sleu 16 23 30) ∧
    decodeWord 0x06BC041B = .ok (.clz 21 28 1) ∧
    decodeWord 0x0751041C = .ok (.ctz 26 17 1) ∧
    decodeWord 0x07F6041D = .ok (.popc 31 22 1) ∧
    decodeWord 0x069B101E = .ok (.sext 20 27 2) ∧
    decodeWord 0x0730101F = .ok (.zext 25 16 2) ∧
    decodeWord 0x07D50020 = .ok (.bswap 30 21) := by decide +kernel

theorem test_decode_immediate :
    decodeWord 0x0B938182 = .ok (.addi 28 19 0x8182) ∧
    decodeWord 0x0E38818B = .ok (.andi 17 24 0x818b) ∧
    decodeWord 0x12DD8194 = .ok (.ori 22 29 0x8194) ∧
    decodeWord 0x1772819D = .ok (.xori 27 18 0x819d) ∧
    decodeWord 0x1A17002E = .ok (.shli 16 23 0x2e) ∧
    decodeWord 0x1ABC4023 = .ok (.shri 21 28 0x23) ∧
    decodeWord 0x1B518038 = .ok (.sari 26 17 0x38) ∧
    decodeWord 0x1FF681C1 = .ok (.slti 31 22 0x81c1) ∧
    decodeWord 0x229B81CA = .ok (.sltui 20 27 0x81ca) ∧
    decodeWord 0x273081D3 = .ok (.lih 25 16 0x81d3) := by decide +kernel

theorem test_decode_memory :
    decodeWord 0x2BD597E5 = .ok (.ld 30 21 2 1 1 0x3e5) ∧
    decodeWord 0x2F1F97F7 = .ok (.ldu 24 31 2 1 1 0x3f7) ∧
    decodeWord 0x3259A609 = .ok (.st 18 25 2 2 1 0x209) := by decide +kernel

theorem test_decode_amo :
    decodeWord 0x3793D05C = .ok (.amoadd 28 19 26 2 3 2) ∧
    decodeWord 0x36DDA0DC = .ok (.amoand 22 29 20 2 3 2) ∧
    decodeWord 0x3617F15C = .ok (.amoor 16 23 30 2 3 2) ∧
    decodeWord 0x3751C1DC = .ok (.amoxor 26 17 24 2 3 2) ∧
    decodeWord 0x369B925C = .ok (.amomin 20 27 18 2 3 2) ∧
    decodeWord 0x37D5E2DC = .ok (.amomax 30 21 28 2 3 2) ∧
    decodeWord 0x371FB35C = .ok (.amominu 24 31 22 2 3 2) ∧
    decodeWord 0x365983DC = .ok (.amomaxu 18 25 16 2 3 2) ∧
    decodeWord 0x3793D45C = .ok (.amoswap 28 19 26 2 3 2) := by decide +kernel

theorem test_decode_cas :
    decodeWord 0x3ADDA01A = .ok (.casD 22 29 20 3 1) ∧
    decodeWord 0x3B10B09C = .ok (.casQ 24 16 22 3 2) := by decide +kernel

theorem test_decode_order :
    decodeWord 0x3C000014 = .ok (.fence 2 2) ∧
    decodeWord 0x3C1A0084 = .ok (.sbar 26 2) ∧
    decodeWord 0x3F1FB10A = .ok (.wait 24 31 22 1 1) := by decide +kernel

theorem test_decode_branch :
    decodeWord 0x420002E7 = .ok (.jump 0x20002e7) ∧
    decodeWord 0x460002EA = .ok (.call 0x20002ea) ∧
    decodeWord 0x48330AF3 = .ok (.beq 25 16 0xaf3) ∧
    decodeWord 0x487D5AFC = .ok (.bne 30 21 0xafc) ∧
    decodeWord 0x48A7AB05 = .ok (.blt 19 26 0xb05) ∧
    decodeWord 0x48F1FB0E = .ok (.bge 24 31 0xb0e) ∧
    decodeWord 0x493B4B17 = .ok (.bltu 29 20 0xb17) ∧
    decodeWord 0x49659B20 = .ok (.bgeu 18 25 0xb20) ∧
    decodeWord 0x4C170000 = .ok (.jr 23) ∧
    decodeWord 0x4C1E0001 = .ok (.callr 30) := by decide +kernel

theorem test_decode_curd :
    decodeWord 0x535E0000 = .ok (.cdecl 0x35 28) ∧
    decodeWord 0x523D7820 = .ok (.cput 0x23 26 1 14) ∧
    decodeWord 0x53FB3450 = .ok (.crd 0x3f 22 13 1) ∧
    decodeWord 0x53B9007A = .ok (.crdm 0x3b 18 1 2 2) ∧
    decodeWord 0x53EAF090 = .ok (.crdp 0x3e 21 28 1) ∧
    decodeWord 0x53A000A0 = .ok (.settle 0x3a) ∧
    decodeWord 0x521000C0 = .ok (.cclr 0x21) ∧
    decodeWord 0x528F88E0 = .ok (.cstat 0x28 31 2) := by decide +kernel

theorem test_decode_vat :
    decodeWord 0x541D0006 = .ok (.cfg 29 6) ∧
    decodeWord 0x541B0084 = .ok (.cfgw 27 4) ∧
    decodeWord 0x54000105 = .ok (.swap 5) ∧
    decodeWord 0x54100187 = .ok (.arm 16 7) ∧
    decodeWord 0x54000204 = .ok (.drain 4) ∧
    decodeWord 0x54000285 = .ok (.vwait 5) ∧
    decodeWord 0x57801304 = .ok (.vstat 28 2 4) ∧
    decodeWord 0x54000385 = .ok (.vkill 5) := by decide +kernel

theorem test_decode_strm :
    decodeWord 0x5818001F = .ok (.sdef 24 31) ∧
    decodeWord 0x5816E894 = .ok (.sgo 22 29 20) ∧
    decodeWord 0x581B9105 = .ok (.qarm 27 18 5) ∧
    decodeWord 0x58000186 = .ok (.qdis 6) ∧
    decodeWord 0x58170200 = .ok (.cpy 23) ∧
    decodeWord 0x581E0295 = .ok (.tok 30 21) ∧
    decodeWord 0x5B93031A = .ok (.trcv 28 19 26) := by decide +kernel

theorem test_decode_launch :
    decodeWord 0x5E380000 = .ok (.tail 17 24) ∧
    decodeWord 0x5C000001 = .ok .done := by decide +kernel

theorem test_decode_hash :
    decodeWord 0x601FB000 = .ok (.hseed 31 22) ∧
    decodeWord 0x601DA001 = .ok (.htab 29 20) ∧
    decodeWord 0x601B9002 = .ok (.hpool 27 18) ∧
    decodeWord 0x63300003 = .ok (.hstat 25 16) := by decide +kernel

theorem test_decode_trace :
    decodeWord 0x6417F000 = .ok (.tev 23 30) ∧
    decodeWord 0x64150001 = .ok (.tmark 21) ∧
    decodeWord 0x641C0002 = .ok (.tctl 28) ∧
    decodeWord 0x667A0003 = .ok (.time 19 26) ∧
    decodeWord 0x64110004 = .ok (.tat 17) := by decide +kernel

theorem test_decode_snap :
    decodeWord 0x6818F800 = .ok (.rcsnap 24 31) := by decide +kernel
/-! Terms that no encoding or unit of the specification has, and words that are no instruction. -/

theorem test_refuses_orders :
    (Instr.ld 1 2 3 2 0 0).wellFormed = false ∧ (Instr.ldu 1 2 3 3 0 0).wellFormed = false ∧
    (Instr.st 1 2 3 1 0 0).wellFormed = false ∧ (Instr.crdm 1 2 0 1 0).wellFormed = false ∧
    (Instr.wait 1 2 3 2 0).wellFormed = false := by decide

theorem test_refuses_widths :
    (Instr.amoadd 1 2 3 0 0 0).wellFormed = false ∧ (Instr.amoand 1 2 3 1 0 0).wellFormed = false ∧
    (Instr.amoor 1 2 3 1 0 0).wellFormed = false ∧ (Instr.amoxor 1 2 3 1 0 0).wellFormed = false ∧
    (Instr.amomin 1 2 3 1 0 0).wellFormed = false ∧ (Instr.amomax 1 2 3 1 0 0).wellFormed = false ∧
    (Instr.amominu 1 2 3 1 0 0).wellFormed = false ∧ (Instr.amomaxu 1 2 3 1 0 0).wellFormed = false ∧
    (Instr.amoswap 1 2 3 1 0 0).wellFormed = false ∧ (Instr.sext 1 2 3).wellFormed = false ∧
    (Instr.zext 1 2 31).wellFormed = false := by decide

theorem test_refuses_registers_and_selectors :
    (Instr.casQ 3 2 4 0 0).wellFormed = false ∧ (Instr.casQ 2 2 5 0 0).wellFormed = false ∧
    (Instr.cstat 1 2 3).wellFormed = false ∧ (Instr.vstat 1 3 0).wellFormed = false := by decide

theorem test_refuses_units :
    (Instr.iadd 1 0).wellFormed = false ∧ (Instr.iadd 0 6).wellFormed = false ∧ (Instr.mrd 0 0).wellFormed = false ∧
    (Instr.mrd 1 2).wellFormed = false ∧ (Instr.mreordRelease 0).wellFormed = false ∧
    (Instr.linkReplay 36).wellFormed = false ∧ (Instr.linkDown 36).wellFormed = false ∧
    (Instr.linkUp 63).wellFormed = false := by decide

/-- R41, R152, R46: reserved major opcode, reserved function, unused field set, excluded codes. -/
theorem test_decode_refuses :
    decodeWord 0x6C000000 = .error .reservedOpcode ∧ decodeWord 0xFC000000 = .error .reservedOpcode ∧
    decodeWord 0x04000021 = .error .reservedFunction ∧ decodeWord 0x00009000 = .error .reservedFunction ∧
    decodeWord 0x04000403 = .error .nonzeroField ∧ decodeWord 0x0400081B = .error .nonzeroField ∧
    decodeWord 0x00200000 = .error .nonzeroField ∧ decodeWord 0x0400181E = .error .excludedCode ∧
    decodeWord 0x28002000 = .error .excludedCode ∧ decodeWord 0x00005004 = .error .excludedCode ∧
    decodeBytes [1, 2, 3] = .error .fewBytes := by decide +kernel

/-- The host's two questions about an instruction's bits: the decoder's answer, and the run of the word as the first instruction. -/
theorem test_table_word : decodeTableWord 32 0x04A11005 = some (.div 5 1 2 0) ∧ decodeTableWord 32 0x6C000000 = none := by
  decide +kernel

/-! Single steps. Expected values are those that the rules named state or work out. -/

/-- R149: a sum modulo 2^64. -/
theorem test_add_wraps : (after (.add 3 1 2 0) (regs [(1, 5), (2, 0xFFFFFFFFFFFFFFFF)])).reg 3 = 4 := by decide +kernel
/-- R44: the word form sign-extends. -/
theorem test_add_word : (after (.add 3 1 2 1) (regs [(1, 0x7FFFFFFF), (2, 1)])).reg 3 = 0xFFFFFFFF80000000 := by
  decide +kernel
/-- R149: the order of SUB's sources. -/
theorem test_sub_order : (after (.sub 1 1 2 0) (regs [(1, 3), (2, 5)])).reg 1 = 0xFFFFFFFFFFFFFFFE := by decide +kernel
/-- R149: MULH is signed, MULHU is not. -/
theorem test_mulh_sign : (after (.mulh 3 1 2) (regs [(1, 0xFFFFFFFFFFFFFFFF), (2, 2)])).reg 3 = 0xFFFFFFFFFFFFFFFF ∧
    (after (.mulhu 3 1 2) (regs [(1, 0xFFFFFFFFFFFFFFFF), (2, 2)])).reg 3 = 1 := by decide +kernel
/-- R150: a zero divisor. -/
theorem test_div_zero : (after (.div 3 1 2 0) (regs [(1, 7)])).reg 3 = 0xFFFFFFFFFFFFFFFF ∧
    (after (.rem 3 1 2 0) (regs [(1, 7)])).reg 3 = 7 := by decide +kernel
/-- R150: the quotient goes toward zero. -/
theorem test_div_toward_zero : (after (.div 3 1 2 0) (regs [(1, 0xFFFFFFFFFFFFFFF9), (2, 2)])).reg 3 = 0xFFFFFFFFFFFFFFFD ∧
    (after (.rem 3 1 2 0) (regs [(1, 0xFFFFFFFFFFFFFFF9), (2, 2)])).reg 3 = 0xFFFFFFFFFFFFFFFF := by decide +kernel
/-- R151: a word shift takes its count modulo 32. -/
theorem test_shift_word_count : (after (.shl 3 1 2 1) (regs [(1, 1), (2, 33)])).reg 3 = 2 ∧
    (after (.shl 3 1 2 0) (regs [(1, 1), (2, 33)])).reg 3 = 0x200000000 := by decide +kernel
/-- R149: ROL rotates to the left. -/
theorem test_rol : (after (.rol 3 1 2 0) (regs [(1, 0x8000000000000001), (2, 1)])).reg 3 = 3 := by decide +kernel
/-- R149: signed and unsigned comparison of the same patterns. -/
theorem test_compare_sign : (after (.slt 3 1 2) (regs [(1, 0xFFFFFFFFFFFFFFFF), (2, 1)])).reg 3 = 1 ∧
    (after (.sltu 3 1 2) (regs [(1, 0xFFFFFFFFFFFFFFFF), (2, 1)])).reg 3 = 0 := by decide +kernel
/-- R149, R151: counts of zero bits within the width. -/
theorem test_count_zeros : (after (.clz 3 1 1) (regs [(1, 0xFFFFFFFF00000001)])).reg 3 = 31 ∧
    (after (.ctz 3 1 0) (regs [(1, 0)])).reg 3 = 64 := by decide +kernel
/-- R149: extension by the width code. -/
theorem test_extend : (after (.sext 3 1 1) (regs [(1, 0x18000)])).reg 3 = 0xFFFFFFFFFFFF8000 ∧
    (after (.zext 3 1 0) (regs [(1, 0x1FF)])).reg 3 = 0xFF := by decide +kernel
/-- R149: BSWAP reverses the bytes. -/
theorem test_bswap : (after (.bswap 3 1) (regs [(1, 0x0102030405060708)])).reg 3 = 0x0807060504030201 := by decide +kernel
/-- R129: a write to g0 is discarded, and the program counter moves on. -/
theorem test_zero_register : (after (.addi 0 0 5) (regs [])).reg 0 = 0 ∧ (after (.addi 0 0 5) (regs [])).cp.pc = 4 := by
  decide +kernel
/-- R153: ADDI sign-extends, ANDI does not. -/
theorem test_immediate_sign : (after (.addi 3 1 0xFFFF) (regs [(1, 1)])).reg 3 = 0 ∧
    (after (.andi 3 1 0xFFFF) (regs [(1, 0xFFFFFFFFFFFFFFFF)])).reg 3 = 0xFFFF := by decide +kernel
/-- R153: SLTUI compares with the sign-extended immediate; LIH shifts and inserts. -/
theorem test_immediate_others : (after (.sltui 3 1 0xFFFF) (regs [(1, 0xFFFF)])).reg 3 = 1 ∧
    (after (.lih 3 1 0x1234) (regs [(1, 0xABCD)])).reg 3 = 0xABCD1234 := by decide +kernel
/-- R156, R157: a displacement counts words from the instruction. -/
theorem test_branch_back : (after (.beq 0 0 0xFFF) (regs [])).cp.pc = 0xFFFFFFFFFFFFFFFC ∧
    (after (.bne 0 0 0xFFF) (regs [])).cp.pc = 4 := by decide +kernel
/-- R158: CALLR through g31 reads its target before it writes g31. -/
theorem test_callr_link : (after (.callr 31) (regs [(31, 0x100)])).cp.pc = 0x100 ∧
    (after (.callr 31) (regs [(31, 0x100)])).reg 31 = 4 := by decide +kernel
/-- R158: a target that is no multiple of 4 takes MISALIGN. -/
theorem test_jr_misaligned : (after (.jr 1) (regs [(1, 6)])).cp.tcause = 3 ∧
    (after (.jr 1) (regs [(1, 6)])).cp.tinfo.t0 = 6 ∧ (after (.jr 1) (regs [(1, 6)])).cp.pc = 192 := by decide +kernel

/-- A small memory: the bytes 0x80, 0x01 at address 0x1000 of the first core's DRAM. -/
def smallMem : List Host.Cell := [(0x1000, 0x80), (0x1001, 0x01)]

/-- R345: LD extends the sign, LDU does not. -/
theorem test_load_sign : (after (.ld 3 1 0 0 0 0) (stateOf (regsOf cpRun [(1, 0x1000)]) Eng.reset smallMem)).reg 3 =
      0xFFFFFFFFFFFFFF80 ∧
    (after (.ldu 3 1 1 0 0 0) (stateOf (regsOf cpRun [(1, 0x1000)]) Eng.reset smallMem)).reg 3 = 0x180 := by decide +kernel
/-- R13, R345: bytes go lowest first; the displacement counts elements; the store is in the buffer, where the core sees it. -/
theorem test_store_order :
    ((after (.st 2 1 1 0 0 0x3FF) (regs [(1, 0x1002), (2, 0x1234)])).sees 0x1000 = 0x34) ∧
    ((after (.st 2 1 1 0 0 0x3FF) (regs [(1, 0x1002), (2, 0x1234)])).sees 0x1001 = 0x12) ∧
    ((after (.st 2 1 1 0 0 0x3FF) (regs [(1, 0x1002), (2, 0x1234)])).w.mem = []) := by decide +kernel
/-- R345: a misaligned access traps before it is translated. -/
theorem test_load_misaligned : (after (.ld 3 1 2 0 0 0) (regs [(1, 0x1002)])).cp.tcause = 3 ∧
    (after (.ld 3 1 2 0 0 0) (regs [(1, 0x1002)])).reg 3 = 0 := by decide +kernel
/-- R276, R302: an address that no unit has. -/
theorem test_load_absent : (after (.ld 3 1 0 0 0 0) (regs [(1, 0x40000000000)])).cp.tcause = 4 ∧
    (after (.ld 3 1 0 0 0 0) (regs [(1, 0x40000000000)])).cp.tinfo.t0 = 0x40000000000 := by decide +kernel
/-- R346: the old value, and the sum in memory. -/
theorem test_amoadd :
    let t := after (.amoadd 3 1 2 2 0 0) (stateOf (regsOf cpRun [(1, 0x1000), (2, 0x80)]) Eng.reset smallMem)
    t.reg 3 = 0x180 ∧ memRead t.w.mem 0x1000 = 0 ∧ memRead t.w.mem 0x1001 = 2 := by decide +kernel
/-- R347: CAS writes where the old value is the expected one. -/
theorem test_cas :
    let t := after (.casD 3 1 2 0 0) (stateOf (regsOf cpRun [(1, 0x1000), (2, 0x55), (3, 0x180)]) Eng.reset smallMem)
    t.reg 3 = 0x180 ∧ memRead t.w.mem 0x1000 = 0x55 ∧ memRead t.w.mem 0x1001 = 0 := by decide +kernel
/-- R353, R359: TRAP returns past itself; the handler is at TVB + 64 times the code; PRV and IE are saved. -/
theorem test_trap :
    let t := after (.trap 5) (stateOf { cpUser with pc := 0x40, mstat := 2, tvb := 0x10000 } Eng.reset [])
    t.cp.pc = 0x101C0 ∧ t.cp.tepc = 0x44 ∧ t.cp.tcause = 7 ∧ t.cp.tinfo.t0 = 5 ∧ t.cp.mstat = 9 := by decide +kernel
/-- R359: ERET restores the mode and goes to TEPC. -/
theorem test_eret :
    let t := after .eret (stateOf { cpRun with mstat := 0x19, tepc := 0x80 } Eng.reset [])
    t.cp.pc = 0x80 ∧ t.cp.mstat = 0x12 := by decide +kernel
/-- R43: a privileged instruction without privilege takes PRIV with its word. -/
theorem test_eret_priv : (after .eret (userRegs [])).cp.tcause = 2 ∧ (after .eret (userRegs [])).cp.tinfo.t0 = 0x2000 := by
  decide +kernel
/-- R134, R136: REVID; and an absent register takes PRIV. -/
theorem test_srr : (after (.srr 3 1) (userRegs [])).reg 3 = 0x03010001 ∧ (after (.srr 3 0xA) (regs [])).cp.tcause = 2 := by
  decide +kernel
/-- R352: a reserved bit of NBV takes ILLEGAL and the register keeps its value. -/
theorem test_srw_reserved : (after (.srw 1 3) (regs [(1, 4)])).cp.tcause = 1 ∧ (after (.srw 1 3) (regs [(1, 4)])).cp.nbv = 3 ∧
    (after (.srw 1 3) (regs [(1, 1)])).cp.nbv = 1 := by decide +kernel
/-- R347, R358: CAS.q takes pairs. -/
theorem test_cas_pair :
    let t := after (.casQ 2 6 4 0 0) (stateOf (regsOf cpRun [(6, 0x1000), (2, 0x180), (4, 7), (5, 8)]) Eng.reset smallMem)
    t.reg 2 = 0x180 ∧ t.reg 3 = 0 ∧ memRead t.w.mem 0x1000 = 7 ∧ memRead t.w.mem 0x1008 = 8 := by decide +kernel
/-- R116: CRD of a register that no CDECL has declared takes CURD_UNBOUND. -/
theorem test_crd_undeclared : (after (.crd 0 1 0 0) (regs [])).cp.tcause = 5 := by decide +kernel
/-- R436: TIME reads nanosecond sixteenths of package time as they stand. -/
theorem test_time : (after (.time 3 0) (regs [])).reg 3 = 0 ∧ (after (.time 3 1) (regs [(1, 2)])).cp.tcause = 1 := by
  decide +kernel
/-- R145: a command waits in the queue with its operand. -/
theorem test_tctl : ((after (.tctl 1) (regs [(1, 9)])).eng.commands.map (·.x)) = [9] := by decide +kernel
/-- R441, R450: the host's FENCE stops the processor and answers DONE. -/
theorem test_fence : (after .hcmdFence (regs [])).eng.fenced = true ∧ (after .hcmdFence (regs [])).cp.mode = .stopped ∧
    (after .hcmdFence (regs [])).w.host.hrsp = 0x8000000000000000 := by decide +kernel
/-- R444: a replay counts only on a port that is up. -/
theorem test_link_replay : after (.linkReplay 0) (regs []) = regs [] := by decide +kernel
/-! Witnesses: for each statement with hypotheses, states and operands that meet the hypotheses of each of its clauses, at the
ends of their ranges. The conjuncts follow the clauses. -/

theorem witness_AluResults : (0 : BitVec 5).toNat < 3 ∧ (2 : BitVec 5).toNat < 3 := by decide

theorem witness_DivisionLaws :
    (regs [(1, 7)]).reg 2 = 0 ∧
    ((regs [(1, 0x8000000000000000), (2, 0xFFFFFFFFFFFFFFFF)]).reg 1 = 0x8000000000000000 ∧
      (regs [(1, 0x8000000000000000), (2, 0xFFFFFFFFFFFFFFFF)]).reg 2 = 0xFFFFFFFFFFFFFFFF) ∧
    (regs [(1, 7), (2, 1)]).reg 2 ≠ 0 ∧
    ¬ ((regs [(1, 0x8000000000000001), (2, 0xFFFFFFFFFFFFFFFF)]).reg 1 = 0x8000000000000000 ∧
      (regs [(1, 0x8000000000000001), (2, 0xFFFFFFFFFFFFFFFF)]).reg 2 = 0xFFFFFFFFFFFFFFFF) := by decide +kernel

theorem witness_JumpsAndBranches :
    ((regs [(1, 0xFFFFFFFFFFFFFFFC)]).reg 1).toNat % 4 = 0 ∧ ((regs [(1, 0xFFFFFFFFFFFFFFFF)]).reg 1).toNat % 4 ≠ 0 := by
  decide +kernel

/-! Places that take plain accesses: DRAM of the first and of the last core, the last doubleword among them; a scratchpad in RAM
mode. -/

def there (a : Nat) : PhysAddr := ⟨false, 0, a⟩

/-- A memory element whose read side is MRD: its bank is in RAM mode. -/
def ramCfg : ElemCfg := ElemCfg.empty.apply 1 1 0x800F
def ramEng : Eng := { Eng.reset with active := [(1, ramCfg)] }

/-- A page of 64 KiB at 0x10000 for address space 7, readable and writable by unprivileged code, at DRAM address 0x30000. -/
def userPage : TlbEntry where
  asid := 7
  global := false
  bits := 16
  va := 0x10000
  base := 0x30000
  remote := false
  node := 0
  level := 4
  u := true
  x := true
  w := true
  rd := true
def pageEng : Eng := { Eng.reset with tlb := [userPage] }
def pageState (rs : List (Reg × Word)) : State := stateOf { regsOf cpUser rs with asid := 7, mstat := 0 } pageEng []

def plainRegs : List (Reg × Word) := [(1, 0x1000), (2, 0x180), (4, 7), (5, 0x5FFFFFFFF8), (6, 0x1003), (7, 0x10000000000)]
def plainState : State := stateOf (regsOf cpRun plainRegs) ramEng smallMem

theorem plain_low : PlainAt plainState (there 0x1000) := ⟨rfl, by decide +kernel, .inl ⟨0, by decide +kernel⟩⟩
theorem plain_high : PlainAt plainState (there 0x5FFFFFFFF8) := ⟨rfl, by decide +kernel, .inl ⟨95, by decide +kernel⟩⟩
theorem plain_pad : PlainAt plainState (there 0x10000000000) :=
  ⟨rfl, by decide +kernel, .inr ⟨0, 1, 0, by decide +kernel, by decide +kernel⟩⟩
theorem plain_page : PlainAt (pageState [(1, 0x1FFF8)]) (there 0x3FFF8) := ⟨rfl, by decide +kernel, .inl ⟨0, by decide +kernel⟩⟩

theorem clean_low : CleanAt plainState 0x1000 16 := ⟨by decide +kernel, by decide +kernel⟩
theorem clean_high : CleanAt plainState 0x5FFFFFFFF8 8 := ⟨by decide +kernel, by decide +kernel⟩
theorem clean_pad : CleanAt plainState 0x10000000000 8 := ⟨by decide +kernel, by decide +kernel⟩
theorem clean_page : CleanAt (pageState [(1, 0x1FFF8)]) 0x3FFF8 8 := ⟨by decide +kernel, by decide +kernel⟩

theorem witness_Loads :
    okLoadOrder 1 = true ∧
    (plainState.translate .read (BitVec.ofInt 64 ((plainState.reg 5).toInt + (0 : BitVec 10).toInt * 8)) =
        (.ok (there 0x5FFFFFFFF8), plainState.w) ∧
      (plainState.reg 5).toNat % 8 = 0) ∧
    (plainState.translate .read (BitVec.ofInt 64 ((plainState.reg 7).toInt + (0 : BitVec 10).toInt * 8)) =
        (.ok (there 0x10000000000), plainState.w)) ∧
    (pageState [(1, 0x20000)]).translate .read
        (BitVec.ofInt 64 (((pageState [(1, 0x20000)]).reg 1).toInt + (0x3FF : BitVec 10).toInt * 8)) =
      (.ok (there 0x3FFF8), (pageState [(1, 0x20000)]).w) := by decide +kernel

theorem witness_Stores :
    Memory.wf plainState.w.mem = true ∧ okStoreOrder 0 = true ∧ okStoreOrder 2 = true ∧
    (plainState.reg 1).toNat % 8 = 0 ∧
    plainState.translate .write (BitVec.ofInt 64 ((plainState.reg 1).toInt + (0 : BitVec 10).toInt * 8)) =
      (.ok (there 0x1000), plainState.w) := by decide +kernel

theorem witness_AtomicOperations :
    Memory.wf plainState.w.mem = true ∧ okAmoWidth 2 = true ∧ okAmoWidth 3 = true ∧ (plainState.reg 5).toNat % 8 = 0 ∧
    plainState.translate .readWrite (plainState.reg 5) = (.ok (there 0x5FFFFFFFF8), plainState.w) := by decide +kernel

theorem witness_CompareAndSwap :
    (plainState.reg 5).toNat % 8 = 0 ∧
    ((plainState.reg 1).toNat % 16 = 0 ∧ (30 : Reg).toNat % 2 = 0 ∧ (0 : Reg).toNat % 2 = 0 ∧
      plainState.translate .readWrite (plainState.reg 1) = (.ok (there 0x1000), plainState.w)) := by decide +kernel

/-- A user whose page a stream already walks for. -/
def walkingState : State :=
  stateOf (regsOf cpUser [(1, 0x1000)]) { Eng.reset with walks := [.asked (.stream 3) 0 0 0x1FF8 false .read 0] } []

theorem witness_AccessChecks :
    (accessOf (.ld 3 6 1 0 0 0) plainState = some (0x1003, 2, .read) ∧ (0x1003 : Word).toNat % 2 ≠ 0) ∧
    (accessOf (.amoadd 3 1 4 3 0 0) (userRegs [(1, 0x1000)]) = some (0x1000, 8, .readWrite) ∧
      ((userRegs [(1, 0x1000)]).translate .readWrite 0x1000).1 = .error .walk ∧
      (userRegs [(1, 0x1000)]).eng.walking 0 0x1000 = false) ∧
    (accessOf (.ld 3 1 3 0 0 0) (userRegs [(1, 0x100000000000000)]) = some (0x100000000000000, 8, .read) ∧
      (userRegs [(1, 0x100000000000000)]).translate .read 0x100000000000000 =
        (.error (.refused ⟨rRANGE, 0⟩), (userRegs [(1, 0x100000000000000)]).w)) ∧
    (walkingState.translate .read 0x1000 = (.error .walk, walkingState.w) ∧ walkingState.eng.walking 0 0x1000 = true ∧
      accessOf (.ld 3 1 3 0 0 0) walkingState = some (0x1000, 8, .read)) ∧
    (accessOf (.casQ 2 1 4 0 0) (regs [(1, 0x30000000000)]) = some (0x30000000000, 16, .readWrite) ∧
      (regs [(1, 0x30000000000)]).translate .readWrite 0x30000000000 =
        (.ok (there 0x30000000000), (regs [(1, 0x30000000000)]).w) ∧
      regionOf 0x30000000000 = .ingress 0 0) ∧
    (accessOf (.wait 3 1 2 0 0) (regs [(1, 0x5FFFFFFFF8)]) = some (0x5FFFFFFFF8, 8, .read)) ∧
    (Instr.casQ 2 1 4 0 0).wellFormed = true := by decide +kernel

/-- The last place of the scratchpads is no plain place of a core whose element is unused; one past the windows is absent. -/
theorem witness_AccessChecks_places :
    NoAccess (regs []) (there 0x10000000000) 8 ∧ NoAccess (regs []) (there 0x20000000000) 4 ∧
    NoAccess (userRegs []) (there 0x20000000000) 8 ∧ NoAccess (regs []) (there 0x20006000000) 8 :=
  ⟨.inr ⟨rfl, .inr (by decide +kernel)⟩, .inr ⟨rfl, .inr (by decide +kernel)⟩, .inr ⟨rfl, .inl (by decide +kernel)⟩,
    .inr ⟨rfl, trivial⟩⟩

theorem witness_OrderingInstructions :
    Memory.wf plainState.w.mem = true ∧
    ((regs [(1, 0xFFFFFFFF)]).reg 1).toNat < 2 ^ 32 ∧ (regs [(1, 0xFFFFFFFF)]).eng.commands = [] ∧
    ((regs [(1, 0x100000000)]).reg 1).toNat ≥ 2 ^ 32 ∧
    (plainState.reg 1).toNat % 8 = 0 ∧ plainState.translate .read (plainState.reg 1) = (.ok (there 0x1000), plainState.w) ∧
    (plainState.reg 2).toNat ≤ plainState.seesNat 0x1000 8 ∧ plainState.eng.wake = false ∧
    plainState.seesNat 0x1000 8 < (plainState.reg 5).toNat := by decide +kernel

/-- A stream command that has not been performed keeps SBAR waiting. -/
theorem witness_OrderingInstructions_busy :
    let g : Eng := { Eng.reset with commands := [⟨.sgo 1 2 31, 0, 1, 0, 0, true, true⟩] }
    let s := stateOf (regsOf cpRun [(1, 0x80000000)]) g []
    ∃ k ∈ s.eng.commands, ∃ n, Instr.generator k.instr = some n ∧
      ((s.reg 1).getLsbD (2 * n) = true ∨ (s.reg 1).getLsbD (2 * n + 1) = true) :=
  ⟨⟨.sgo 1 2 31, 0, 1, 0, 0, true, true⟩, by decide +kernel, 15, by decide +kernel, .inr (by decide +kernel)⟩

/-- Two causes are pending: the one of the lower code is taken. -/
def pendEng : Eng :=
  { Eng.reset with pend := [⟨0x18, 0, TInfo.zero⟩, ⟨0x11, 3, TInfo.zero⟩, ⟨0x09, 0, TInfo.zero⟩] }
theorem witness_TrapEntry :
    let s := stateOf { cpRun with mstat := 0x13 } pendEng []
    s.cp.ie = true ∧ s.cp.locked = false ∧ s.cp.mode = .running ∧ s.answered = false ∧ s.eng.pend ≠ [] := by decide +kernel

/-- R356: ECC_UE comes before the lower codes. -/
theorem test_trap_order : (after .asyncTrapEntry (stateOf { cpRun with mstat := 0x13 } pendEng [])).cp.tcause =
    0x8000000000000009 := by decide +kernel

theorem witness_TrapReturn :
    (regs []).cp.prv = true ∧ (userRegs []).cp.prv = false ∧
    ((stateOf cpRun pendEng []).cp.prv = true ∧ (stateOf cpRun pendEng []).eng.pend ≠ []) ∧
    ((regs []).cp.mode = .running ∧ (regs []).eng.pend = []) ∧ (regs []).cp.tcause.extractLsb' 0 8 ≠ 0x13 := by
  decide +kernel

theorem witness_TlbInvalidation :
    Memory.wf (regs []).w.mem = true ∧ (regs []).cp.prv = true ∧ ((regs [(1, 0xFFFF)]).reg 1).toNat < 2 ^ 16 ∧ 2 ^ 16 ≤ ((regs [(1, 0x10000)]).reg 1).toNat ∧
    (userRegs []).cp.prv = false := by decide +kernel

/-- R360: TLBI va names the page that holds the address, under the address space in force. -/
theorem test_tlbi : (after (.tlbiVa 1) (stateOf { regsOf cpRun [(1, 0x1FFFF)] with asid := 7 } pageEng [])).eng.tlb = [] ∧
    (after (.tlbiVa 1) (stateOf { regsOf cpRun [(1, 0x1FFFF)] with asid := 6 } pageEng [])).eng.tlb = [userPage] := by
  decide +kernel

theorem witness_SpecialReads :
    (regs []).cur < 96 ∧ (regs []).cp.prv = true ∧ (userRegs []).cp.prv = false ∧
    (0x100 ≤ (0x1FF : BitVec 12).toNat ∧ (0x1FF : BitVec 12).toNat ≤ 0x1FF) ∧
    (0x00A ≤ (0x00A : BitVec 12).toNat ∧ 0x018 ≤ (0x01F : BitVec 12).toNat ∧ 0x025 ≤ (0x0FF : BitVec 12).toNat ∧
      0x200 ≤ (0x200 : BitVec 12).toNat) := by decide +kernel

/-- A window write of NBV in the present cycle, which took the privileged mode away as well. -/
def wonState : State :=
  stateOf { regsOf cpUser [(1, 1)] with winSrs := [3, 2], winPrv := true } Eng.reset []

theorem witness_SpecialWrites_order :
    wonState.cp.winAt = wonState.w.cycle ∧ 0x003 ∈ wonState.cp.winSrs ∧ wonState.cp.winPrv = true ∧
    wonState.cp.prv = false ∧ wonState.reg 1 = 1 ∧
    ((userRegs [(1, 2)]).cp.prv = false ∧ ¬ ((userRegs [(1, 2)]).reg 1).toNat < 2) := by decide +kernel

/-- R141: an SRW behind a window write of its cycle leaves the window's value, and its own mode was the one before. -/
theorem test_window_first : (after (.srw 1 3) wonState).cp.nbv = 3 ∧ (after (.srw 1 3) wonState).cp.pc = 4 := by decide +kernel

theorem witness_SpecialWrites :
    ((regs [(1, 0xFFC0000000000000)]).cp.prv = true ∧
      ((regs [(1, 0xFFC0000000000000)]).reg 1).extractLsb' 0 50 = ((regs []).srRead 0 0).extractLsb' 0 50) ∧
    ((regs [(1, 0x1F)]).reg 1).toNat < 2 ^ 5 ∧ ((regs [(1, 3)]).reg 1 = 3) ∧ ((regs [(1, 4096)]).reg 1).toNat ≤ 4096 ∧
    ¬ ((regs [(1, 0)]).reg 1 = 1 ∨ (regs [(1, 0)]).reg 1 = 2 ∨ (regs [(1, 0)]).reg 1 = 3) ∧
    ((userRegs [(1, 1)]).cp.prv = false ∧ ((userRegs [(1, 1)]).reg 1).toNat < 2) ∧
    (regs []).eng.locked = false ∧ 0x003 ∉ (regs []).cp.winSrs ∧
    (let s := stateOf { regsOf cpRun [(1, 3)] with winSrs := [3] } Eng.reset [];
      s.cp.winAt = s.w.cycle ∧ 0x003 ∈ s.cp.winSrs ∧ s.reg 1 = 3) := by decide +kernel
/-! A live vat whose rectangle is the whole grid. -/

def allPlane : Plane :=
  { rect := 0x00FC, id := 0, addr := 0x2000, units := [], framing := none, ctl := [] }
def liveVat : Vat := { Vat.reset with state := .running, active := some allPlane }

/-! Presses. -/

def pressOf (active : Bool) (st : Option (BitVec 8)) : Press :=
  { active := active, part := false, issuer := true, host := false, area := 0x1000, covered := [0], curds := [], status := st }

/-- The head of an image of core 0 with 576 bytes at 0x1000, and a size doubleword of 0x1000000. -/
def imageMem : List Host.Cell :=
  [(0x1003, 1), (0x1008, 0x40), (0x1009, 2), (0x1012, 1), (0x1013, 3)]

/-- An image of a core whose vat 0 holds matrix node 0, with a computed tile over a weight buffer of some tag. -/
def imageEng (tag : BitVec 32) : Eng :=
  { Eng.reset with
    vats := [(0, { liveVat with active := some { allPlane with units := [addrMatrix 0] } })]
    mx := [(0, { MxNode.reset with tag := tag, tiles := Vector.replicate 2 { MxTile.reset with dirty := true } })] }
def imageOf (g : Eng) : Image := { core := 0, cycle := 0, covered := [0], eng := g, lines := [], body := [] }
def imageState (g : Eng) : State :=
  let s := stateOf (regsOf cpRun [(1, 0x1000)]) Eng.reset imageMem
  { s with w := { s.w with images := [(0, imageOf g)] } }

theorem witness_PressInstructions :
    (userRegs []).cp.prv = false ∧ (regs []).cp.prv = true ∧
    ((regs [(1, 63)]).reg 1).toNat % 64 ≠ 0 ∧ ((regs [(1, 4)]).reg 1).toNat % 8 ≠ 0 ∧
    (Memory.wf plainState.w.mem = true ∧ (plainState.reg 1).toNat % 64 = 0 ∧ plainState.eng.press = none) ∧
    ((engState { Eng.reset with press := some (pressOf true none) }).eng.press = some (pressOf true none) ∧
      (pressOf true none).status = none) ∧
    (engState { Eng.reset with press := some (pressOf false (some 2)) }).eng.press = some (pressOf false (some 2)) ∧
    (((engState { Eng.reset with press := some (pressOf true none) }).w.pressTable 0 0x1000).any
      (fun q => q.1 = 0)) = true ∧
    ((plainState.w.pressTable 0 0x1000).all (fun q => (plainState.w.eng q.1).press == none) = true ∧
      plainState.w.areaOk 0 0x1000 (8 * (plainState.w.pressTable 0 0x1000).length) = true) ∧
    plainState.w.areaOk 0 0x10000000000 (8 * (plainState.w.pressTable 0 0x10000000000).length) = false := by decide +kernel

theorem witness_PressInstructions_restore :
    ((engState { Eng.reset with streams := [(3, { Stream.reset with state := .running })] }).eng.stream 3).busy = true ∧
    (regs []).eng.streams = [] ∧ (List.range 8).all (fun v => !((regs []).eng.vat v).state.live) = true ∧
    (plainState.w.areaOk 0 0x1000 576 = true ∧ plainState.w.findImage 0x1000 = none) ∧
    plainState.w.areaOk 0 0x10000000000 576 = false ∧
    Memory.wf imageMem = true ∧ (imageState Eng.reset).w.findImage 0x1000 = some (imageOf Eng.reset) := by decide +kernel

/-- A configuration that is not at its address any more, a weight buffer of another tag, an image that can be restored. -/
theorem witness_PressInstructions_config :
    ((imageState (imageEng 0)).rereadAll (imageOf (imageEng 0))).1.isNone = true ∧
    Eng.reset.tagsMatch (imageOf (imageEng 1)) = false ∧ Eng.reset.tagsMatch (imageOf (imageEng 0)) = true ∧
    Eng.reset.tagsMatch (imageOf Eng.reset) = true ∧
    ((imageState Eng.reset).rereadAll (imageOf Eng.reset)).1.map (·.length) = some 0 := by decide +kernel

/-! Stage 0 of element 0 holding one operation: A from port pn0, B from port
pn1, the result to the hold register. -/

def stageCfg (op : BitVec 16) : ElemCfg :=
  ((((((ElemCfg.empty.apply 0 1 op).apply 0 2 0).apply 0 3 0x40).apply 0 0x36 1).apply 0 0x37 0x8000).apply 0 0x38 0x8000
    |>.apply 0 0x36 2 |>.apply 0 0x37 0x8000).apply 0 0x38 0x8000
def dataTok (d : Payload) : Token := { plainToken kDATA with valid := 16, data := d }
def poolWith (ts : List Token) : InQueue := { InQueue.empty with toks := ts }
def stageEng (op : BitVec 16) : Eng :=
  { Eng.reset with
    vats := [(0, liveVat)], active := [(0, stageCfg op)]
    pools := [((Endpoint.grid 0 0 0).key, poolWith [dataTok 5, dataTok 6]), ((Endpoint.grid 0 1 0).key, poolWith [dataTok 7])] }
def stageState (op : BitVec 16) : State := engState (stageEng op)
/-- The world in which a claimant acts: the grid has begun its cycle and the claimant is taken off what still acts. -/
def actingWorld (s : State) (who : Claimant) : World :=
  let w0 := s.w.beginGrid s.cur
  w0.setEng s.cur ((w0.eng s.cur).actedOn who)

def offersAt {α : Type} (p : Option Planned) (o : Option α) (q : α → Bool) : Bool :=
  match p, o with
  | some _, some y => q y
  | _, _ => false

theorem offersAt_spec {α : Type} {p : Option Planned} {o : Option α} {q : α → Bool} (h : offersAt p o q = true) :
    ∃ a y, p = some a ∧ o = some y ∧ q y = true := by
  cases p <;> cases o <;> simp_all [offersAt]

/-- A stage acts in this cycle: it is planned, and it has an offer of the operation, in vat 0. -/
def firesAt (s : State) (op : StageOp) (e k : Nat) : Bool :=
  let who := Claimant.stage e k
  offersAt (plannedFor (s.w.planned s.cur) who) ((actingWorld s who).stageOffer s.cur e k)
    (fun y => y.1.op == op && y.1.vat == 0)

theorem iadd_fires : firesAt (stageState 0x1012) .iadd 0 0 = true := by decide +kernel

theorem witness_StageFires :
    (Instr.iadd 0 0).wellFormed = true ∧ stageOf (.iadd 0 0) = some (.iadd, 0, 0) ∧
    (∃ p y, plannedFor ((stageState 0x1012).w.planned 0) (.stage 0 0) = some p ∧
      (actingWorld (stageState 0x1012) (.stage 0 0)).stageOffer 0 0 0 = some y ∧
      (y.1.op == .iadd && y.1.vat == 0) = true) ∧
    (stageState 0x1012).w.stall = none ∧ NotScheduled (stageState 0x1012) 0 0 0 ∧
    plannedFor ((stageState 0x1012).w.planned 0) (.stage 0 5) = none ∧
    (((stageState 0x1012).w.beginGrid 0).fireAt 0 0 0).map (·.op) ≠ some .isub :=
  ⟨by decide, by decide, offersAt_spec iadd_fires, rfl,
    ⟨fun p h => by
      have h' : some allPlane = some p := h
      cases h'
      decide +kernel, by decide +kernel⟩, by decide +kernel, by decide +kernel⟩

/-- A view of a firing with two, or one, full DATA tokens to read. -/
def readsTwo (s : State) (op : StageOp) : Bool :=
  match s.w.fireAt s.cur 0 0 with
  | none => false
  | some x =>
    x.op == op && x.pc.fmt == 0 && x.pc.guard == 0 && !x.pc.low.getLsbD 5 &&
      match x.reads with
      | [.tok a, .tok b] => a.tok.kind == kDATA && a.tok.valid == 16 && b.tok.kind == kDATA && b.tok.valid == 16
      | [.tok a] => a.tok.kind == kDATA && a.tok.valid == 16
      | _ => false

theorem witness_StageIntegerValues :
    readsTwo (stageState 0x1012) .iadd = true ∧ readsTwo (stageState 0x2112) .stageShr = true ∧
    readsTwo (stageState 0x151F) .ineg = true := by decide +kernel

/-- Stage 0 with a third port and a full setting of its operation. -/
def opState (op mod arg : BitVec 16) : State :=
  engState { stageEng op with
    active := [(0, (((((stageCfg op).apply 0 2 mod).apply 0 5 arg).apply 0 0x36 3).apply 0 0x37 0x8000).apply 0 0x38 0x8000)]
    pools := (List.range 3).map (fun p => ((Endpoint.grid 0 p 0).key, poolWith [dataTok 5])) }
/-- The stage's view owes nothing, holds the operation in a format, and reads `n` full DATA tokens. -/
def readsFull (op mod arg : BitVec 16) (o : StageOp) (fmt : BitVec 4) (n : Nat) : Bool :=
  match (opState op mod arg).w.fireAt 0 0 0 with
  | none => false
  | some x =>
    x.op == o && !x.owed && x.pc.fmt == fmt && x.pc.guard == 0 && x.ops.elems == [] && x.ops.out == [] && x.reads.length == n &&
      x.reads.all (fun r =>
        match r with
        | .tok a => a.tok.kind == kDATA && a.tok.valid == 16 && a.taken.under == none
        | _ => false)

theorem witness_StageValues :
    readsFull 0x1412 0 3 .imac 0 3 = true ∧ readsFull 0x3012 0x1000 0 .fadd 1 2 = true ∧
    readsFull 0x3312 0x1000 3 .fma 1 3 = true ∧ readsFull 0x481F 0x1001 0 .cvt 1 1 = true ∧
    readsFull 0x501F 0x1000 0 .lsum 1 1 = true ∧ readsFull 0x6012 0 0x80 .steer 0 2 = true ∧
    readsFull 0x701F 0 0x1201 .prune 0 1 = true ∧ readsFull 0x001F 0 0 .pass 0 1 = true := by decide +kernel

/-- A write side in reorder mode that holds the next token, a full window of one place; its results go to the hold register and
by output port pe0 to element 2. -/
def reorderCfg : ElemCfg := ((((ElemCfg.empty.apply 1 9 0x8512).apply 1 11 0x0440).apply 1 13 1).apply 1 0x33 0x000D).apply 1 0x39 3
def reorderState : State :=
  engState { Eng.reset with
    vats := [(0, liveVat)], active := [(1, reorderCfg), (2, ((ramCfg.apply 2 0x36 7).apply 2 0x37 0x8000).apply 2 0x38 0x8000)], elems := [(1, { Elem.reset with window := [(0, dataTok 3)], next := 4 })] }
theorem reorder_releases : offersAt (plannedFor (reorderState.w.planned 0) (.release 1))
    ((actingWorld reorderState (.release 1)).releaseOffer 0 1) (fun y => y.1.pc.dst == 0x0440) = true := by decide +kernel

theorem test_release_sends : (after (.mreordRelease 1) reorderState).eng.flights.map (fun y => (y.dest, y.tok.data)) =
    [(.grid 2 6 0, 3)] ∧ (((after (.mreordRelease 1) reorderState).eng.elem 1).stage 1).holdNext.map (·.2) = [3] := by
  decide +kernel

/-- Two claims on one pool, of two tags: both are claims, of tags below 8, and there are no two alike. -/
def twoClaims : List Claim := [⟨.stage 0 0, .grid 1 0 0⟩, ⟨.stage 0 1, .grid 1 0 7⟩]
theorem witness_ReorderRelease :
    (∃ p y, plannedFor (reorderState.w.planned 0) (.release 1) = some p ∧
      (actingWorld reorderState (.release 1)).releaseOffer 0 1 = some y ∧ (y.1.pc.dst == 0x0440) = true) ∧
    reorderState.w.stall = none ∧ reorderState.w.miss = none ∧ plannedFor ((engState Eng.reset).w.planned 0) (.release 1) = none ∧
    twoClaims.Nodup ∧ ∀ k ∈ twoClaims, k.dest.tag < 8 :=
  ⟨offersAt_spec reorder_releases, rfl, by decide +kernel, by decide +kernel, by decide +kernel⟩
/-! Vats and planes. -/

def cmd (i : Instr) (x : Word) : Command := ⟨i, x, 0, 0, 0, true, true⟩

/-- A vat whose element 0 holds nothing and that no sink keeps from retiring, at the end of its sequence numbers. -/
def retireState (cw : Word) : State :=
  engState { Eng.reset with vats := [(7, { liveVat with cw := cw, vseq := 0xFFFFFFFFFFFFFFFF, asid := 7, priv := true, xoff := true })] }

def stallState : State :=
  let s := engState (stageEng 0x1012)
  { s with w := { s.w with cycle := 65537 } }

theorem witness_VatEnds :
    ((retireState 0).w.mayRetire 0 7 = true ∧ ((retireState 0).eng.vat 7).cw = 0) ∧
    ((retireState 0x1000).w.mayRetire 0 7 = true ∧ ((retireState 0x1000).eng.vat 7).cw ≠ 0 ∧
      Memory.wf (retireState 0x1000).w.mem = true ∧
      (retireState 0x1000).w.commandXlat 0 (addrVat 7) 7 0 true true .write 0x1000 = (.ok (there 0x1000), (retireState 0x1000).w)) ∧
    (regs []).w.mayRetire 0 7 = false ∧
    ((stallState.eng.vat 0).active = some allPlane ∧ (stallState.eng.vat 0).state.live = true ∧
      stallState.w.tokensPresent 0 allPlane.has = true ∧ (stallState.eng.vat 0).stallReported = false ∧
      65536 ≤ stallState.w.cycle - 1 - (stallState.eng.vat 0).lastFire) ∧
    ((engState (stageEng 0x1012)).w.cycle - 1 - ((engState (stageEng 0x1012)).eng.vat 0).lastFire < 65536) ∧
    (let s := retireState 0x100000000000000
     s.w.mayRetire 0 7 = true ∧ (s.eng.vat 7).cw ≠ 0 ∧
       (s.w.commandXlat 0 (addrVat 7) 7 0 true true .write 0x100000000000000).1 = .error (.refused ⟨rRANGE, 0⟩)) ∧
    (let g : Eng := { stageEng 0x1012 with commands := [cmd (.vkill 0) 0, cmd (.drain 1) 0] }
     g.commands = cmd (.vkill 0) 0 :: [cmd (.drain 1) 0] ∧ g.pressing = false ∧ (g.vat 0).state ≠ .free ∧
       (engState g).w.heldUnit 0 (addrVat 0) = false ∧ (engState g).w.miss = none ∧ (g.vat 0).cw = 0) := by
  decide +kernel

theorem plain_retire : PlainAt (retireState 0x1000) (there 0x1000) := ⟨rfl, by decide +kernel, .inl ⟨0, by decide +kernel⟩⟩

/-- A loaded culture plane beside an active one, the SWAP behind another slot's command, the region quiet since cycle 0; with
and without a token. -/
def smallPlane : Plane := { allPlane with rect := 0x1024, id := 5 }
def swapState (ts : List Token) : State :=
  engState { Eng.reset with
    vats := [(3, { Vat.reset with state := .retired, active := some allPlane, culture := some smallPlane, cst := .loaded, quietFrom := some 0 })]
    active := [(0, stageCfg 0x1012)], culture := [(8, stageCfg 0x1112)]
    pools := [((Endpoint.grid 0 0 0).key, poolWith ts)]
    commands := [cmd (.drain 1) 0, cmd (.swap 3) 0, cmd (.vkill 3) 0] }
/-- A trace context serves the partition of the core. -/
def tracedState (g : Eng) : State :=
  let s := engState g
  { s with w := { s.w with sinks := [(0, { Sink.empty with cfg := 0x208 })] } }
def nextCycle (s : State) : State := { s with w := { s.w with cycle := 1 } }

theorem witness_PlaneExchange :
    ((swapState []).eng.firstOf 3 = some (cmd (.swap 3) 0, 1) ∧ (swapState []).eng.pressing = false ∧
      ((swapState []).eng.vat 3).state = .retired ∧ ((swapState []).eng.vat 3).cst = .loaded ∧
      ((swapState []).eng.vat 3).culture = some smallPlane ∧ ((swapState []).eng.vat 3).quietFrom = some 0 ∧
      (swapState []).w.cycle ≤ 0 ∧ 0 < (nextCycle (swapState [])).w.cycle ∧
      (swapState []).eng.residue (eitherHas smallPlane (some allPlane)) = []) ∧
    ((swapState [dataTok 1]).eng.firstOf 3 = some (cmd (.swap 3) 0, 1) ∧
      (swapState [dataTok 1]).eng.residue (eitherHas smallPlane (some allPlane)) ≠ []) ∧
    (nextCycle (swapState [])).w.mustFollow 0 (addrVat 3) tVATRESIDUE = false ∧
    (let s := tracedState { (swapState [dataTok 1]).eng with raised := [(addrVat 3, 0)] }
     s.w.mustFollow 0 (addrVat 3) tVATRESIDUE = true) := by decide +kernel

/-- A configuration of BEGIN for element 0 alone and END at address 0x1000: the words 0xFF000000 and 0xFF400000 (R61). -/
def loadState (m : List Host.Cell) (other : Option Plane) (at0 : Word) : State :=
  stateOf cpRun { Eng.reset with
    vats := [(0, { Vat.reset with cst := .loading, loadAt := some (cmd (.cfg 1 0) at0) }),
      (1, { Vat.reset with state := .running, active := other })] } m
def planeMem : List Host.Cell := [(0x1003, 0xFF), (0x1006, 0x40), (0x1007, 0xFF)]

/-- The first word of a configuration as a load reads it. -/
def firstWord (s : State) (at0 : Word) : Option (BitVec 32) :=
  match s.w.commandRead 0 (addrVat 0) uCP 0 0 true true at0 4 with
  | (.ok bs, _) => some (BitVec.ofNat 32 (leNat bs))
  | _ => none

theorem witness_PlaneLoad :
    (((loadState planeMem none 0x1000).eng.vat 0).loadAt = some (cmd (.cfg 1 0) 0x1000) ∧
      (loadState planeMem none 0x1000).eng.pressing = false) ∧
    firstWord (loadState planeMem none 0x40000000000) 0x40000000000 = none ∧
    ((firstWord (loadState [] none 0x1000) 0x1000).map cfgAddr = some 0) ∧
    ((firstWord (loadState planeMem none 0x1000) 0x1000).map cfgAddr = some 0x3FC) ∧
    ((loadState planeMem (some allPlane) 0x1000).eng.loadOverlap 0 0 = some 0) ∧
    ((loadState planeMem none 0x1000).eng.loadOverlap 0 0 = none ∧
      ((((loadState planeMem none 0x1000).w.setEng 0 (Load.begin (loadState planeMem none 0x1000).eng 0xFF000000 0x1000).g).loadWords
        0 0 (cmd (.cfg 1 0) 0x1000) 65535 0x1004 (Load.begin (loadState planeMem none 0x1000).eng 0xFF000000 0x1000)).2.1.p.id) = 0) ∧
    ((regs []).eng.vat 0).loadAt = none := by decide +kernel

/-- The stream of BEGIN and END alone, in plain memory. -/
theorem witness_PlaneLoad_stream :
    cfgAddr 0xFF000000 = 0x3FC ∧ cfgAddr 0xFF400000 = 0x3FD ∧
    ∀ i y, ([0xFF000000, 0xFF400000] : List (BitVec 32))[i]? = some y →
      (loadState planeMem none 0x1000).w.commandXlat 0 (addrVat 0) 0 0 true true .read (0x1000 + BitVec.ofNat 64 (4 * i)) =
          (.ok ⟨false, 0, 0x1000 + 4 * i⟩, (loadState planeMem none 0x1000).w) ∧
        PlainAt (loadState planeMem none 0x1000) ⟨false, 0, 0x1000 + 4 * i⟩ ∧
        SoundAt (loadState planeMem none 0x1000) (0x1000 + 4 * i) 4 ∧
        memNat (loadState planeMem none 0x1000).w.mem (0x1000 + 4 * i) 4 = y.toNat :=
  ⟨by decide, by decide, fun i y h => by
    match i, h with
    | 0, h =>
      cases h
      exact ⟨by decide +kernel, ⟨rfl, by decide +kernel, .inl ⟨0, by decide +kernel⟩⟩, ⟨by decide +kernel, by decide +kernel⟩,
        by decide +kernel⟩
    | 1, h =>
      cases h
      exact ⟨by decide +kernel, ⟨rfl, by decide +kernel, .inl ⟨0, by decide +kernel⟩⟩, ⟨by decide +kernel, by decide +kernel⟩,
        by decide +kernel⟩
    | _ + 2, h => cases h⟩

/-! Tokens on their way. -/

def flight (d : Endpoint) (t : Token) (arrive : Nat) : Flight := { dest := d, tok := t, fmt := 0, arrive := arrive, spoilt := false }
def flightState : State :=
  engState { stageEng 0x1012 with flights :=
    [flight (.grid 0 1 0) (dataTok 4) 0, flight (.grid 0 0 0) (dataTok 5) 0, flight (.grid 0 0 0) (dataTok 6) 0,
      flight (.stream 3 0) (plainToken kPRESS) 0, flight (.edge 0) (dataTok 1) 9] }

theorem witness_TokenDelivery :
    (flightState.eng.flights[1]? = some (flight (.grid 0 0 0) (dataTok 5) 0) ∧
      (flight (.grid 0 0 0) (dataTok 5) 0).arrive ≤ flightState.w.cycle ∧
      flightState.eng.blockedAt (.grid 0 0 0) = false ∧ flightState.eng.heldUp (flight (.grid 0 0 0) (dataTok 5) 0) = false ∧
      ((flightState.eng.flights.take 1).all (fun h => h.dest != .grid 0 0 0)) = true ∧
      malformed (dataTok 5) = none ∧ cfgMalformed (dataTok 5) = false) ∧
    (flightState.eng.flights[3]? = some (flight (.stream 3 0) (plainToken kPRESS) 0) ∧
      flightState.eng.blockedAt (.stream 3 0) = false ∧ malformed (plainToken kPRESS) = none ∧
      flightState.eng.heldUp (flight (.stream 3 0) (plainToken kPRESS) 0) = false) ∧
    ((flightState.eng.flights.take 2).any (fun h => h.dest == .grid 0 0 0)) = true ∧
    ¬ (flight (.edge 0) (dataTok 1) 9).arrive ≤ flightState.w.cycle := by decide +kernel

/-- Output port pe0 of element 0 leads to input port pw0 of element 1; its branch counter stands at 16,384 cycles. -/
def linkedCfg : ElemCfg := (((stageCfg 0x1012).apply 0 3 0x0400).apply 0 0x33 0x000D).apply 0 0x39 3
def neighbourCfg : ElemCfg := ((ramCfg.apply 1 0x36 7).apply 1 0x37 0x8000).apply 1 0x38 0x8000
def mcastState : State :=
  let s := engState { stageEng 0x1012 with
    active := [(0, linkedCfg), (1, neighbourCfg)]
    elems := [(0, { Elem.reset with stages := Vector.ofFn (fun k =>
      if k.val = 0 then { StageState.reset with branch := [(2, 16384)] } else StageState.reset) })] }
  { s with w := { s.w with cycle := 16384 } }

theorem witness_MulticastStall :
    mcastState.eng.vatOf 0 = some 0 ∧ linkOf mcastState.eng.cfg 0 2 = some (.grid 1 6 0, 0) ∧
    (Endpoint.grid 1 6 0).tag = (0 : BitVec 3).toNat ∧ (Endpoint.grid 1 6 0).tag ≠ (7 : BitVec 3).toNat ∧
    (List.range 6).find? (fun k =>
      let st := (mcastState.eng.elem 0).stage k
      !st.told.getLsbD 2 && 16384 ≤ Tbl.get st.branch 0 2) = some 0 ∧
    ((mcastState.eng.elem 0).stage 1).told.getLsbD 3 = false ∧ Tbl.get ((mcastState.eng.elem 0).stage 1).branch 0 3 < 16384 ∧
    mcastState.eng.mcpol.getLsbD 0 = false := by decide +kernel
/-! Commands and instructions that wait for units. -/

def fullQueue : List Command := List.replicate 16 (cmd (.drain 7) 0)
def queueState (x y : Word) (n : Nat) : State :=
  stateOf (regsOf cpRun [(1, x), (2, y)]) { Eng.reset with commands := fullQueue.take n } []

theorem witness_QueuedCommands :
    Memory.wf (queueState 0 0 15).w.mem = true ∧
    ((queueState 0x1F 0xFFFFFFFF 15).eng.commands.length < 16 ∧ ((queueState 0x1F 0xFFFFFFFF 15).reg 1).toNat ≤ 0x1F ∧
      ((queueState 0x1F 0xFFFFFFFF 15).reg 2).toNat < 2 ^ 32) ∧
    16 ≤ (queueState 64 0 16).eng.commands.length ∧ ((queueState 64 0 16).reg 1).toNat % 64 = 0 ∧
    ((queueState 32 0 16).reg 1).toNat % 64 ≠ 0 ∧ 0x1F < ((queueState 0x20 0 0).reg 1).toNat ∧
    2 ^ 32 ≤ ((queueState 0x1F 0x100000000 0).reg 2).toNat ∧
    (((queueState 255 0 0).reg 1).toNat ≤ 255 ∧ 255 < ((queueState 256 0 0).reg 1).toNat) ∧
    htabBad (queueState 0x00003001 0x40 0).eng.hashAhead 0x00003001 0x40 = none ∧
    htabBad (queueState 0x00002001 0x40 0).eng.hashAhead 0x00002001 0x40 = some 0x00002001 ∧
    htabBad (queueState 0x00003001 0x41 0).eng.hashAhead 0x00003001 0x41 = some 0x41 ∧
    ((0x00FFFFFFFFFFFFC0 : Word).toNat % 64 = 0 ∧ (0x00FFFFFFFFFFFFC0 : Word).toNat < 2 ^ 56 ∧
      (0x8000000 : Word) ≠ 1 ∧ (0x8000000 : Word).toNat ≤ 2 ^ 27) ∧
    ¬ ((0x0100000000000000 : Word).toNat % 64 = 0 ∧ (0x0100000000000000 : Word).toNat < 2 ^ 56) ∧
    2 ^ 27 < (0x8000001 : Word).toNat := by decide +kernel

def cmdState (k : Command) (g : Eng) (m : List Host.Cell) : State :=
  stateOf cpRun { g with tlb := [userPage], commands := [k, cmd (.drain 1) 0] } m
/-- A command given under address space 7. -/
def under (i : Instr) (x y : Word) : Command := { cmd i x with y := y, asid := 7, priv := false, xoff := false }

theorem witness_CommandEffects :
    let s (k : Command) := engState { Eng.reset with commands := [k, cmd (.drain 1) 0] }
    ((s (cmd (.hseed 1 2) 255)).eng.pressing = false ∧ (s (cmd (.hseed 1 2) 255)).eng.headBusy 255 = false ∧
      (s (cmd (.hseed 1 2) 255)).w.heldUnit 0 (commandSource (.hseed 1 2)) = false ∧ (s (cmd (.hseed 1 2) 255)).w.miss = none) ∧
    ((s (cmd (.hpool 1 2) 64)).eng.keystBusy = false) ∧
    ((s { cmd (.htab 1 2) 0x00003001 with y := 0x40 }).eng.headBusy (htabHead 0x00003001) = false) ∧
    (((s (cmd (.cfg 1 3) 64)).eng.vat 3).cst ≠ .loading) := by decide +kernel

/-- ARM of a slot whose vat runs, of one without an active plane, of a legal plane and of one with a cycle or a BLOCKED element. -/
def armState (st : VatState) (op : BitVec 16) : State :=
  cmdState (cmd (.arm 1 0) 0x1000) { stageEng op with vats := [(0, { liveVat with state := st })] } []
theorem witness_CommandEffects_arm :
    ((armState .running 0x1012).eng.vat 0).state.live = true ∧
    (((armState .retired 0x1012).eng.vat 0).state.live = false ∧ ((armState .retired 0x1012).eng.vat 0).state ≠ .residue ∧
      ((armState .retired 0x1012).eng.vat 0).active = some allPlane ∧ ((armState .retired 0x1012).eng.armFault 0 allPlane).isSome = true) ∧
    ((armState .retired 0x1112).eng.armFault 0 smallPlane).isSome = false ∧
    ((cmdState (cmd (.arm 1 0) 0) Eng.reset []).eng.vat 0).state = .free ∧
    (((armState .running 0x1012).eng.vat 5).state ≠ .armed ∧ ((armState .running 0x1012).eng.vat 0).state = .running) := by
  decide +kernel

def sdefResult (m : List Host.Cell) : Option Bool :=
  let k := under (.sdef 1 3) 0x10000 0
  match (cmdState k Eng.reset m).w.sdefWords 0 3 k 65 0 { (cmdState k Eng.reset m).eng.streamCfg 3 with blocked := none } with
  | (.ok _, w) => if w.miss.isNone then some true else none
  | (.bad, w) => if w.miss.isNone then some false else none
  | (.refused _ _, _) => none
def busyStream : Eng := { Eng.reset with streams := [(3, { Stream.reset with state := .running })] }

/-- The descriptor of END alone and one of a word of another address; SGO of a stream that no plane and no SDEF has. -/
theorem witness_CommandEffects_streams :
    sdefResult [(0x30002, 0x40), (0x30003, 0xFF)] = some true ∧ sdefResult [] = some false ∧
    ((cmdState (under (.sgo 1 2 3) 0 0) busyStream []).eng.stream 3).busy = true ∧
    (let k := under (.sgo 1 2 3) 0x10000 4
     let cfg := StreamCfg.empty.apply 0 0 0x2100
     let g : Eng := { Eng.reset with agActive := [(3, cfg)] }
     ((cmdState k g []).eng.stream 3).busy = false ∧ (cmdState k g []).eng.sgoBad 3 k = true ∧
       (cmdState k { g with streams := [(3, { Stream.reset with defined := true })] } []).eng.sgoBad 3 k = false) := by
  decide +kernel

/-- Stream 0 enters element 0 by input port pw0, whose tag 0 reserves one slot. -/
def tokState (i : Instr) (m : List Host.Cell) : State :=
  cmdState (under i 0x10000 0) { stageEng 0x1012 with
    active := [(0, (((stageCfg 0x1012).apply 0 0x36 7).apply 0 0x37 0x8000).apply 0 0x38 0x8800)] } m
/-- A command of unit `u` reads the record at the start of its page. -/
def readsRecord (s : State) (u : Nat) (xoff : Bool) (va : Word) : Bool :=
  match s.w.commandXlat 0 u 7 0 false xoff .read va with
  | (.ok pa, w) => pa == there (0x30000 + (va.toNat - 0x10000)) && w == s.w
  | _ => false
def someCopy : Copy := {
  crec := { words := Vector.replicate 8 0, asid := 0, ptroot := 0, ok := true }, from' := none, state := .running, reason := 0
  row := 0, off := 0, written := 0, status := none, cwDone := false, landed := false, srcEntry := none, dstEntry := none
  refused := none }
theorem witness_CommandEffects_reads :
    readsRecord (tokState (.tok 1 0) []) (addrStream 0) false 0x10000 = true ∧
    readsRecord (tokState (.tok 1 0) []) (addrStream 0) false 0x10040 = true ∧
    readsRecord (tokState (.cpy 1) []) uCOPY false 0x10000 = true ∧
    readsRecord (tokState (.tat 1) []) uTIME false 0x10000 = true ∧
    (streamLink (tokState (.tok 1 0) []).eng.cfg 0 = some (.grid 0 6 0, 0) ∧
      (tokState (.tok 1 0) []).eng.reserveFree (.grid 0 6 0) = true ∧ (tokState (.tok 1 0) []).w.gridBegun 0 = false ∧
      memWord (tokState (.tok 1 0) []).w.mem 0x30040 = 0) ∧
    2 ^ 24 ≤ (memWord (tokState (.tok 1 0) [(0x30043, 1)]).w.mem 0x30040).toNat ∧
    (tokState (.cpy 1) []).eng.freePlace = some 0 ∧
    ({ (tokState (.cpy 1) []).eng with copies := (List.range 64).map (fun p => (p, someCopy)) } : Eng).freePlace = none := by
  decide +kernel
theorem plain_record : PlainAt (tokState (.tok 1 0) []) (there 0x30000) := ⟨rfl, by decide +kernel, .inl ⟨0, by decide +kernel⟩⟩
theorem sound_record : SoundAt (tokState (.tok 1 0) []) 0x30000 72 := ⟨by decide +kernel, by decide +kernel⟩

/-- TEV with room in the context, filtered, without a context, and behind another event of its cycle. -/
theorem witness_CommandEffects_trace :
    (let s := tracedState Eng.reset
     s.w.filtered 0 0 = false ∧ s.w.contextOf 0 = some 0 ∧ s.w.hasRaised 0 uCP = false ∧ (s.w.sink 0).buf.length < 64 ∧
       (s.w.sink 0).waiting = [] ∧ s.w.stall = none ∧ s.w.mustFollow 0 uCP 0 = false) ∧
    (tracedState { Eng.reset with jmask := 1 }).w.filtered 0 0 = true ∧ (regs []).w.contextOf 0 = none ∧
    (tracedState { Eng.reset with raised := [(uCP, 0)] }).w.mustFollow 0 uCP 0 = true := by decide +kernel

/-- Records of TAT: a wake at time 0, and one whose kind is none. -/
theorem witness_CommandEffects_tat :
    tatFieldsOk (memWord [] 0x30000) (memWord [(0x30008, 0x23)] 0x30008) 0 = true ∧
    tatFieldsOk 0 0x05 0 = true ∧ tatFieldsOk 1 0x05 0 = false ∧ tatFieldsOk 0 0x55 0 = false ∧
    (let s := tokState (.tat 1) []
     s.w.commandXlat 0 uTIME 7 0 false false .write 0x10018 = (.ok (there 0x30018), s.w)) := by decide +kernel

theorem witness_WaitingInstructions :
    let busyState (v : VatState) (k : List Command) : State :=
      stateOf (regsOf cpRun [(1, 0xFFF)]) { Eng.reset with vats := [(7, { Vat.reset with state := v })], commands := k } []
    (((busyState .retired []).eng.vat 7).state.live = false ∧ (busyState .retired []).eng.commands = []) ∧
    ((busyState .drained []).eng.vat 7).state.live = true ∧
    ((busyState .retired [cmd (.arm 1 7) 0]).eng.commands.any (fun k => cmdUnit k.instr == 7)) = true ∧
    ((busyState .retired [cmd (.hseed 1 7) 0]).eng.commands.any (fun k => cmdUnit k.instr == 65)) = true ∧
    ((busyState .free []).reg 1).toNat < 2 ^ 12 ∧ 2 ^ 12 ≤ ((regs [(1, 0x1000)]).reg 1).toNat ∧
    ((regs [(1, 32)]).reg 1).toNat % 64 ≠ 0 ∧
    ((plainState.reg 1).toNat % 64 = 0 ∧ plainState.cp.waitFrom = none ∧ plainState.eng.commands.length < 16) ∧
    (let t := after (.cfgw 1 0) plainState
     t.cp.waitFrom ≠ none ∧ t.eng.commands.any (fun k => cmdUnit k.instr == 0) = true) ∧
    (let t := stateOf { cpRun with waitFrom := some 0 } Eng.reset []
     t.cp.waitFrom ≠ none ∧ t.eng.commands = [] ∧ (t.eng.vat 0).cst ≠ .loading) ∧
    ((userRegs []).cp.prv = false ∧ (userRegs []).w.mayEnd 0 = true) ∧
    ((stateOf cpUser (stageEng 0x1012) []).cp.prv = false ∧ (stateOf cpUser (stageEng 0x1012) []).w.mayEnd 0 = false) ∧
    (regs []).cp.prv = true ∧
    (¬ (queueState 64 0 16).eng.commands.length < 16 ∧ ((queueState 64 0 16).reg 1).toNat < 2 ^ 12 ∧
      ((queueState 64 0 16).reg 1).toNat % 64 = 0 ∧ (queueState 64 0 16).cp.waitFrom = none) := by decide +kernel

/-- A stream of mode CPIO with tag 0 enabled that holds a token; another without; a stage that holds ROUTE. -/
def cpioCfg : StreamCfg := (StreamCfg.empty.apply 0x10 0x10 0x8000).apply 0x11 0x11 0x8000
def unitState : State :=
  stateOf (regsOf cpRun [(1, 0x1000), (2, 0x0000), (3, 0x10000)]) { stageEng 0x6312 with
    agActive := [(31, cpioCfg)]
    pools := [((Endpoint.stream 31 0).key, poolWith [dataTok 9])] } []

/-- The same once its stores are released. -/
def released (s : State) : State := s.withWorld (s.w.releaseAt s.cur 0)

theorem witness_DirectUnitInstructions :
    Memory.wf unitState.w.mem = true ∧ unitState.unitReady 64 = true ∧ (unitState.reg 1).toNat % 64 = 0 ∧
    unitState.unitReady (16 + 31 / 2) = true ∧
    ((unitState.eng.streamCfg 31).modeOf = mCPIO ∧ ltagEn ((unitState.eng.streamCfg 31).tag 0) = true ∧
      ((unitState.eng.popPool (.stream 31 0)).map (·.1)) = some (dataTok 9) ∧
      unitState.translate .write (unitState.reg 1) = (.ok (there 0x1000), unitState.w) ∧
      (released unitState).translate .write (unitState.reg 1) = (.ok (there 0x1000), (released unitState).w)) ∧
    (unitState.eng.commands.length < 16 ∧
      (released unitState).w.readWaits 0 uCOPY unitState.cp.asid unitState.cp.ptroot false false (unitState.reg 1) = false) ∧
    ltagEn ((unitState.eng.streamCfg 0).tag 0) = false ∧
    ((unitState.reg 2).toNat < 2 ^ 16 ∧ bitsNat (unitState.reg 2) 10 3 < 6 ∧ (unitState.reg 1).toNat % 32 = 0 ∧
      unitState.unitReady 0 = true ∧ (unitState.eng.routeStage 0 0 0).isSome = true) ∧
    (unitState.reg 0 = 0 ∧ 1 < (unitState.reg 1).toNat ∧ (regs [(1, 1)]).reg 1 = 1) ∧
    (let t := stateOf { cpRun with waitFrom := some 1 } Eng.reset []
     t.cp.waitFrom = some (2 * 0 + 1) ∧ t.w.unsettled 0 0 = false) ∧
    (let t := engState { Eng.reset with commands := [cmd (.tctl 1) 0] }
     t.cp.waitFrom = none ∧ t.unitReady 66 = false) := by decide +kernel

theorem plain_unit : PlainAt unitState (there 0x1000) := ⟨rfl, by decide +kernel, .inl ⟨0, by decide +kernel⟩⟩
theorem plain_released : PlainAt (released unitState) (there 0x1000) := ⟨rfl, by decide +kernel, .inl ⟨0, by decide +kernel⟩⟩

/-- A running job without a child, and one with; the unprivileged program that calls TAIL reads a block in its own page. -/
def jobOf (child : Option JobRef) : Job :=
  { addr := 0x2000, block := Vector.replicate 8 0, units := 1, cores := [0], nextUnit := [], ended := 0, begun := true, child := child }
def tailState (j : Option Job) : State :=
  let s := pageState [(1, 0x10000)]
  { s with w := { s.w with jobs := [(0, { JobUnit.reset with job := j })] } }

/-- What TAIL finds: whether its block could be read, and whether the job has no child. -/
def tailFinds (s : State) : Option (Option Bool) :=
  match (released s).load 0x10000 64 with
  | .ok (_, s1) => some ((s1.w.job (s1.w.partOf 0)).job.map (fun j => j.child == none))
  | .error _ => none

theorem witness_DirectUnitInstructions_tail :
    (tailState none).eng.commands.length < 16 ∧ (tailState none).cp.prv = false ∧ ((tailState none).reg 1).toNat % 64 = 0 ∧ tailFinds (tailState none) = some none ∧
    tailFinds (tailState (some (jobOf none))) = some (some true) ∧
    tailFinds (tailState (some (jobOf (some ⟨0x3000, none, none⟩)))) = some (some false) := by decide +kernel
/-! The end of a press; curd registers. -/

/-- A press covers slot 0; element 0 has stopped, its marker is there; curd register 63 is declared for it. -/
def savingEng : Eng :=
  { Eng.reset with
    vats := [(0, { liveVat with active := some { allPlane with rect := 0 } })]
    active := [(0, stageCfg 0x1012)]
    elems := [(0, { Elem.reset with pressed := true })]
    pools := [((Endpoint.grid 0 0 0).key, { poolWith [] with marker := some (plainToken kPRESS) })]
    press := some (pressOf true none)
    curds := [(63, { Curd.declare 0x010002 (Vector.ofFn (fun j => if j.val = 0 then 0x5000 else 0)) with src := 0 })] }
def savingState : State := stateOf cpRun savingEng imageMem
def savedEng : Eng :=
  { savingEng with
    elems := [(0, { Elem.reset with pressed := true, saved := true })]
    press := some { pressOf true none with curds := [63] } }
def savedState : State := stateOf cpRun savedEng imageMem

theorem witness_PressEnds :
    savingState.cur < 96 ∧ savingState.eng.press = some (pressOf true none) ∧ (pressOf true none).active = true ∧
    Memory.wf savingState.w.mem = true ∧
    (savingState.eng.covers [0] 0 = true ∧ (savingState.eng.elem 0).pressed = true ∧
      savingState.eng.allMarked (savingState.eng.elemTags 0) = true ∧ savingState.w.inbound 0 (· == 0) = false) ∧
    ((savingState.eng.curd 63).declared = true ∧
      ((savingState.eng.curd 63).binds.toList.all (savingState.eng.contributorSaved [0])) = true) ∧
    (savedState.eng.press = some { pressOf true none with curds := [63] } ∧
      savedState.eng.allSaved { pressOf true none with curds := [63] } = true) ∧
    Memory.wf savedState.w.mem = true ∧ memNat savedState.w.mem 0x1000 8 = 0x1000000 := by decide +kernel

theorem witness_PressEnds_blocked :
    let g : Eng := { savingEng with active := [(0, { stageCfg 0x1012 with blocked := some 3 })] }
    g.pressBlocked [0] = true ∧ savedEng.pressBlocked [0] = false ∧ (pressOf true none).part = false ∧
    (pressOf true none).host = false ∧ memNat (stateOf cpRun savedEng []).w.mem 0x1000 8 < 576 := by decide +kernel

/-- A stream that reads, a matrix node and an egress port that no link feeds, in a plane under press. -/
def unitsPressed : State :=
  engState { Eng.reset with
    vats := [(0, { liveVat with active := some { allPlane with units := [addrStream 0, addrMatrix 1, addrEdge 7] } })]
    agActive := [(0, StreamCfg.empty.apply 0 0 0x2100)]
    press := some (pressOf true none)
    pools := [((Endpoint.matrix 1 0).key, { poolWith [] with marker := some (plainToken kPRESS) })] }
theorem witness_PressEnds_units :
    let g := unitsPressed.eng
    (g.coversStream [0] 0 = true ∧ pressSource (g.streamCfg 0).modeOf = true ∧ (g.stream 0).saved = false ∧ (g.stream 0).out = [] ∧
      (g.stream 0).buf = [] ∧ (g.stream 0).orders = []) ∧
    (g.covers [0] (addrMatrix 1) = true ∧ (g.mxn 1).saved = false ∧ g.allMarked (nodeTags 1) = true ∧ (g.mxn 1).outs = [] ∧
      (g.mxn 1).out = []) ∧
    (g.covers [0] (addrEdge 7) = true ∧ (g.port 7).saved = false ∧ (g.epCfg 7).isIngress = false ∧
      g.linked (.edge 7) = false) := by decide +kernel

theorem freeBody_length (n type index : Nat) : (freeBody n type index).length ≤ 8 * 65535 := by
  have := (Config.imageWords n type index).isLt
  simp only [freeBody, List.length_map, List.length_range]
  omega

theorem imageRecord_length (type index : Nat) (body : List Byte) :
    (imageRecord type index body).length = 8 + body.length := by
  simp only [imageRecord, List.length_append, show (leBytes 8 (type * 2 ^ 56 + index * 2 ^ 32 + (8 + body.length))).length = 8 from rfl]

theorem savedElem_length : (savedState.w.elemBody 0 0 0).length ≤ 64 + 8 * 65535 := by
  have hp : savedState.eng.poolBuffers 0 ++ (savedState.eng.elem 0).placeBuffers = [] := by decide +kernel
  have he : isCe (BitVec.ofNat 7 0) = true := by decide
  have hf := freeBody_length 0 3 0
  have hl : (leBytes 64 (bitmap [])).length = 64 := by decide
  unfold World.elemBody
  simp only [show savedState.w.eng 0 = savedState.eng from rfl, hp, he, if_true, List.map_nil, List.flatten_nil,
    List.append_nil, List.length_append, hl]
  omega

theorem savedImage_length : (savedState.w.imageBody 0 0 [0]).length ≤ 0x900000 := by
  have h2 : (List.range 8) = [0, 1, 2, 3, 4, 5, 6, 7] := by decide
  have h3 : (List.range 128).filter ((savedState.w.eng 0).covers [0]) = [0] := by decide +kernel
  have h4 : (List.range 32).filter ((savedState.w.eng 0).coversStream [0]) = [] := by decide +kernel
  have h6 : (List.range 64).filter (fun i => ((savedState.w.eng 0).curd i).declared) = [63] := by decide +kernel
  have h7 : (List.range 16).filter (fun i => i % 4 < 2 && (savedState.w.eng 0).covers [0] (addrMatrix (i / 4))) = [] := by
    decide +kernel
  have hc : (savedState.w.eng 0).commands = [] := by decide +kernel
  have he := savedElem_length
  have f := freeBody_length 0
  have a0 := f 2 0
  have a1 := f 2 1
  have a2 := f 2 2
  have a3 := f 2 3
  have a4 := f 2 4
  have a5 := f 2 5
  have a6 := f 2 6
  have a7 := f 2 7
  have a8 := f 5 0
  have a9 := f 6 63
  have b0 := f 8 0
  have b1 := f 9 0
  have b2 := f 10 0
  unfold World.imageBody
  simp only [h2, h3, h4, h6, h7, hc, List.map_nil, List.map_cons, List.flatten_nil, List.flatten_cons, List.append_nil,
    List.length_append, imageRecord_length, List.length_nil]
  omega

/-- Whatever the parts of the image that the specification leaves open, it fits the area. -/
theorem witness_PressEnds_fits :
    let len := 576 + (savedState.w.imageBody 0 savedState.w.images.length [0]).length
    savedState.w.areaOk 0 0x1000 len = true ∧ len ≤ memNat savedState.w.mem 0x1000 8 := by
  have hs : memNat savedState.w.mem 0x1000 8 = 0x1000000 := by decide +kernel
  have hi : savedState.w.images.length = 0 := rfl
  have hl := savedImage_length
  have h0 : regionOf 0x1000 = .dram 0 := by decide +kernel
  have h1 : regionOf (0x1000 + (576 + (savedState.w.imageBody 0 0 [0]).length) - 1) = .dram 0 := by
    unfold regionOf
    rw [if_pos (by omega)]
    congr 1
    omega
  rw [hi]
  refine ⟨?_, by rw [hs]; omega⟩
  unfold World.areaOk
  rw [h0, h1]
  simp

/-- A register of 32-bit sums with the control processor at position 0, as CDECL leaves it; then with one element entered at the
last place and closed. -/
def sumRecord : Word := 0x010002
def curdOf (w0 : Word) : Curd := Curd.declare w0 (Vector.ofFn (fun j => if j.val = 0 then 0x5000 else 0))
def curdEng (w0 : Word) : Eng := { Eng.reset with curds := [(63, curdOf w0)] }
def curdState (w0 : Word) (ctl : Word) : State :=
  stateOf { regsOf cpRun [(1, 0x1000), (2, 0x7E), (3, 9)] with curdctl := ctl } (curdEng w0) []
def closedState (ctl : Word) : State := after (.cput 63 3 1 15) (curdState sumRecord ctl)

def closedTo (s : State) (k : Nat) : Bool :=
  (List.finRange 8).all (fun j => !(decide (j.val ≤ k)) || !((s.eng.curd 63).mask.getLsbD j.val) || ((s.eng.curd 63).part j).closed)

theorem witness_CurdReads :
    (regs []).eng.curd 63 = Curd.undeclared ∧ Curd.undeclared.gen = 0 ∧
    (((curdState 0x01010A 0).eng.curd 63).gen ≠ 0 ∧ ((curdState 0x01010A 0).eng.curd 63).isAff = true ∧
      7 < (8 : BitVec 4).toNat ∧ (7 : BitVec 4).toNat ≤ 7) ∧
    closedTo (curdState sumRecord 0) 7 = false ∧
    ((closedState 0).eng.curd 63).gen ≠ 0 ∧ closedTo (closedState 0) 7 = true ∧
    (closedState 0).cp.curdctl.getLsbD 0 = false ∧ ((closedState 0).reg 2).toNat / 16 % 8 = 7 ∧
    (((closedState 0).reg 1).toNat % ((closedState 0).eng.curd 63).imageLen = 0 ∧
      (closedState 0).translate .write ((closedState 0).reg 1) = (.ok (there 0x1000), (closedState 0).w) ∧
      Memory.wf (closedState 0).w.mem = true) := by decide +kernel

/-- A poisoned partial under PTRAP. -/
def poisonedState : State :=
  let s := curdState sumRecord 1
  let c := curdOf sumRecord
  s.withEng { s.eng with curds := [(63, { c with parts := Vector.ofFn (fun j =>
    if j.val = 7 then { c.part j with flags := flagPoison } else c.part j) })] }
theorem witness_CurdReads_poison :
    poisonedState.cp.curdctl.getLsbD 0 = true ∧ ((poisonedState.eng.curd 63).part 7).flags &&& flagPoison ≠ 0 := by
  decide +kernel

theorem witness_CurdIntegerSum :
    let r := (closedState 0).eng.curd 63
    r.gen ≠ 0 ∧ r.decl.extractLsb' 0 8 = 2 ∧ r.decl.extractLsb' 8 4 = 0 ∧ (closedState 0).cp.curdctl.getLsbD 0 = false ∧
    ∀ j : Fin 8, r.mask.getLsbD j.val = true → (r.part j).closed = true := by decide +kernel

/-- R113: the sum of the one element. -/
theorem test_crd_sum : (after (.crd 63 5 15 0) (closedState 0)).reg 5 = 9 ∧ (after (.crd 63 5 14 0) (closedState 0)).reg 5 = 0 := by
  decide +kernel

/-- A legal record and one whose operator is reserved at 0x1000. -/
def recordMem (op : Byte) : List Host.Cell := [(0x1000, op), (0x1002, 1), (0x1009, 0x50)]
def recordState (op : Byte) : State := stateOf (regsOf cpRun [(1, 0x1000)]) Eng.reset (recordMem op)
def recordAt (s : State) : Option (Option Nat) :=
  match s.loadWords [0x1000, 0x1008, 0x1010, 0x1018] with
  | .ok ([w0, w1, w2, w3], _) => some (recordError w0 (bindsOf w1 w2).toList w3)
  | _ => none

theorem witness_CurdUpdates :
    ((regs [(1, 0x1004)]).reg 1).toNat % 8 ≠ 0 ∧ ((recordState 2).reg 1).toNat % 8 = 0 ∧
    recordAt (recordState 2) = some none ∧ recordAt (recordState 11) = some (some 0) ∧
    ((curdState 0x01010A 0).eng.curd 63).isAff = true ∧ ((regs []).eng.curd 63).gen = 0 ∧
    (((curdState sumRecord 0).eng.curd 63).gen ≠ 0 ∧ ((curdState sumRecord 0).eng.curd 63).binds.get 0 = 0x5000 ∧
      ((curdState sumRecord 0).eng.curd 63).isAff = false ∧
      (∀ i : Fin 8, ((curdState sumRecord 0).eng.curd 63).binds.get i = 0x5000 → i = 0) ∧
      (((curdState sumRecord 0).eng.curd 63).part 0).closed = false ∧ Memory.wf (curdState sumRecord 0).w.mem = true) ∧
    (((closedState 0).eng.curd 63).part 0).closed = true ∧
    (let c := Curd.declare sumRecord (Vector.replicate 8 0x1000)
     c.gen ≠ 0 ∧ ∀ j : Fin 8, c.binds.get j ≠ 0x5000) ∧
    ((closedState 0).eng.curd 63).gen ≠ 0 ∧ (closedState 0).cp.curdctl.getLsbD 0 = false ∧
    ∀ j : Fin 8, ((closedState 0).eng.curd 63).mask.getLsbD j.val = true → (((closedState 0).eng.curd 63).part j).closed = true := by
  decide +kernel

/-- R117: CSTAT names the closed position and the one that holds elements. -/
theorem test_cstat : (after (.cstat 63 5 0) (closedState 0)).reg 5 &&& 0xFFFF = 0x0101 := by decide +kernel
/-! Streams under address space 7, whose page at 0x10000 is theirs already; core 0 has no other translation. -/

def runStream : Stream := { Stream.reset with state := .running, base := 0x1FFFC, asid := 7, entry := some userPage, count := 1 }
/-- One token per element, one level without bound. -/
def modeCfg (mode : BitVec 16) : StreamCfg := StreamCfg.empty.apply 0 0 mode
/-- The same with an extent of one in dimension 0 and an origin outside it. -/
def outCfg : StreamCfg := ((modeCfg 0x2100).apply 9 9 1).apply 7 7 0xFFFF
def streamState (cfg : StreamCfg) (x : Stream) (ts ts1 : List Token) (m : List Host.Cell) : State :=
  stateOf cpRun { Eng.reset with
    agActive := [(31, cfg)], streams := [(31, x)]
    pools := [((Endpoint.stream 31 0).key, poolWith ts), ((Endpoint.stream 31 1).key, poolWith ts1)] } m
def oneLane (v : BitVec 32) : Token := { plainToken kDATA with valid := 1, data := v.setWidth 512 }
def readState : State := streamState (modeCfg 0x2100) runStream [] [] [(0x3FFFC, 0x2A)]
def writeState : State := streamState (modeCfg 0x5000) runStream [oneLane 0xAABBCCDD] [] []
def xlatIs (x : Xlat) (a : Nat) : Bool :=
  match x with
  | .ok pa _ => pa == there a
  | _ => false

theorem xlatIs_spec {x : Xlat} {a : Nat} (h : xlatIs x a = true) : ∃ e, x = .ok (there a) e := by
  unfold xlatIs at h
  split at h
  · rename_i pa e
    exact ⟨e, by rw [beq_iff_eq.1 h]⟩
  · cases h

theorem plain_stream (g : Eng) (m : List Host.Cell) (h : g.partid = 0) : PlainAt (stateOf cpRun g m) (there 0x3FFFC) := by
  refine ⟨rfl, ?_, .inl ⟨0, by decide +kernel⟩⟩
  simp [World.mayReach, stateOf, State.reset, World.eng, Tbl.get, Tbl.find, h]

theorem unit_stream (g : Eng) (m : List Host.Cell) (h : g.partid = 0) : UnitAt (stateOf cpRun g m) (there 0x3FFFC) :=
  ⟨plain_stream g m h, fun c e o he => by
    have hd : regionOf 0x3FFFC = .dram 0 := by decide
    exact absurd (hd.symm.trans he) (by simp)⟩

theorem witness_StreamReadWrite :
    ((readState.eng.stream 31).state = .running ∧ (readState.eng.streamCfg 31).modeOf = mREAD ∧
      (readState.eng.streamCfg 31).per = 1 ∧ ((readState.eng.streamCfg 31).elemAt 0x1FFFC 0) = (0x1FFFC, true) ∧
      xlatIs (readState.w.streamXlat 0 31 false 0x1FFFC 4) 0x3FFFC = true ∧ readState.w.failing 0x3FFFC 4 = none) ∧
    ((streamState outCfg runStream [] [] []).eng.streamCfg 31).modeOf = mREAD ∧ outCfg.per = 1 ∧
    (outCfg.elemAt 0x1FFFC 0).2 = false ∧
    ((writeState.eng.streamCfg 31).modeOf = mWRITE ∧ 1 ≤ (writeState.eng.streamCfg 31).per ∧
      (writeState.eng.streamCfg 31).reached (writeState.eng.stream 31) = false ∧
      (writeState.eng.pool (.stream 31 0)).toks = [oneLane 0xAABBCCDD] ∧
      writeState.w.headToken 0 31 0 = some (oneLane 0xAABBCCDD) ∧
      ((writeState.eng.streamCfg 31).elemAt 0x1FFFC 0).2 = true ∧
      xlatIs (writeState.w.streamXlat 0 31 true 0x1FFFC 4) 0x3FFFC = true ∧ Memory.wf writeState.w.mem = true) ∧
    ((regs []).eng.stream 31).state ≠ .running := by decide +kernel

theorem test_stream_write : memRead (after (.streamWriteToken 31) writeState).w.mem 0x3FFFC = 0xDD ∧
    memRead (after (.streamWriteToken 31) writeState).w.mem 0x3FFFF = 0xAA := by decide +kernel
theorem test_stream_read : ((after (.streamReadToken 31) readState).eng.stream 31).out.map (·.data) = [0x2A, 0] := by
  decide +kernel

/-- Rows of 4 bytes, pitch 4. -/
def rowCfg (mode : BitVec 16) : StreamCfg := (modeCfg mode).apply 11 11 4
def rowStream : Stream := { runStream with base := 0x10000, count := 0 }
def gatherState : State := streamState (rowCfg 0x6000) rowStream [oneLane 0x3FFF] [] [(0x3FFFC, 0x2A)]
def scatterState : State := streamState (rowCfg 0x8000) rowStream [oneLane 0x55] [oneLane 0x3FFF] []

theorem witness_GatherScatter :
    ((gatherState.eng.streamCfg 31).modeOf = mGATHER ∧ (gatherState.eng.streamCfg 31).b64 = false ∧
      (gatherState.eng.streamCfg 31).size = 4 ∧ (gatherState.eng.stream 31).state = .running ∧
      (gatherState.eng.pool (.stream 31 0)).toks = [oneLane 0x3FFF] ∧
      (gatherState.eng.streamCfg 31).rowAt 0x10000 (lane (oneLane 0x3FFF).data 0) = (0x1FFFC, true) ∧
      xlatIs (gatherState.w.streamXlat 0 31 false 0x1FFFC 4) 0x3FFFC = true ∧ gatherState.w.failing 0x3FFFC 4 = none) ∧
    ((scatterState.eng.streamCfg 31).modeOf = mSCATTER ∧ (scatterState.eng.streamCfg 31).size = 4 ∧
      (scatterState.eng.pool (.stream 31 1)).toks = [oneLane 0x3FFF] ∧
      (scatterState.eng.pool (.stream 31 0)).toks = [oneLane 0x55] ∧
      scatterState.w.headToken 0 31 1 = some (oneLane 0x3FFF) ∧ scatterState.w.headToken 0 31 0 = some (oneLane 0x55) ∧
      xlatIs (scatterState.w.streamXlat 0 31 true 0x1FFFC 4) 0x3FFFC = true ∧ Memory.wf scatterState.w.mem = true) := by
  decide +kernel

theorem test_gather_scatter :
    ((after (.gatherToken 31) gatherState).eng.stream 31).pos = 1 ∧
    memRead (after (.scatterToken 31) scatterState).w.mem 0x3FFFC = 0x55 := by decide +kernel

/-! The walker: tables at 0x100000, 0x102000, 0x104000, 0x106000; a 64 KiB leaf with all permissions at 0x30000. -/

def tableMem : List Host.Cell :=
  [(0x100000, 1), (0x100001, 0x20), (0x100002, 0x10), (0x102000, 1), (0x102001, 0x40), (0x102002, 0x10),
    (0x104000, 1), (0x104001, 0x60), (0x104002, 0x10), (0x106008, 0x3F), (0x10600A, 3)]
def walkOf (va : Word) (who : Walker) (level base : Nat) : Walk :=
  { who := who, asid := 7, ptroot := 0x100000, va := va, priv := false, access := .read, level := level
    base := base, at' := 0, refused := none, named := [] }
def walkState (ks : List Walk) : State := stateOf cpRun { Eng.reset with walks := ks } tableMem
def twoWalks : List Walk := [walkOf 0x1FFFF (.stream 31) 1 0x100000, walkOf 0 (.node 1) 2 0x102000]

theorem witness_PageWalk :
    (regs []).eng.walks = [] ∧ ((walkState twoWalks).eng.walks.map (·.who)).Nodup ∧
    ((walkState twoWalks).eng.walks.take 16).map (fun k => walkStep tableMem 7 k.va.toNat k.level k.base) =
      [.table 0x102000, .table 0x104000] ∧
    (walkState [walkOf 0x1FFFF (.stream 31) 4 0x106000]).eng.walks = [walkOf 0x1FFFF (.stream 31) 4 0x106000] ∧
    walkStep tableMem 7 0x1FFFF 4 0x106000 = .leaf userPage ∧ userPage.permits false .read = true ∧
    walkStep tableMem 7 0x20000 4 0x106000 = .refused ⟨0, 4⟩ ∧
    ({ userPage with u := false } : TlbEntry).permits false .read = false ∧
    (walkOf 0x1FFFF (.stream 31) 4 0x106000).discarded userPage = false ∧
    ({ walkOf 0x1FFFF .cp 4 0x106000 with named := [.all] } : Walk).discarded userPage = true ∧
    ((walkState [{ walkOf 0x20000 .cp 4 0x106000 with refused := some ⟨0, 4⟩ }]).eng.walks.filter
      (fun k => k.refused.isNone)) = [] := by decide +kernel

/-- R301: a walk that finds a table entry is at the next level one step later. -/
theorem test_walk_goes_on :
    (after .pageWalk (walkState twoWalks)).eng.walks.map (fun k => (k.level, k.base)) = [(2, 0x102000), (3, 0x104000)] := by
  decide +kernel

theorem witness_WalkOfTable :
    regionOf 0x100000 = .dram 0 ∧ memWord tableMem 0x100000 = 0x102001 ∧ memWord tableMem 0x102000 = 0x104001 ∧
    memWord tableMem 0x104000 = 0x106001 ∧ memWord tableMem 0x106008 = 0x3003F ∧
    (memWord [] 0x100000).getLsbD 0 = false ∧ regionOf 0x10000000000 = .pad 0 1 0 := by decide +kernel
/-! Copies, retries, keys and queries. -/

def copyRec (len : Word) (cw : Word) (lanes : Word) : CopyRec :=
  { words := Vector.ofFn (fun i => ([0x1FFF0, 0x10008, len, 0, cw, 0, lanes, 0] : List Word).getD i.val 0), asid := 7
    ptroot := 0, ok := true }
def copyOf (r : CopyRec) (st : Option (BitVec 32)) : Copy :=
  { crec := r, from' := none, state := .running, reason := 0, row := 0, off := 0, written := 0, status := st, cwDone := false
    landed := false, srcEntry := some userPage, dstEntry := some userPage, refused := none }
def copyState (k : Copy) : State := stateOf cpRun { Eng.reset with copies := [(63, k)] } [(0x3FFF0, 1), (0x3FFFF, 2)]
/-- A trigger whose lane 0 moves the source back by one line, in a queue armed with the last slot. -/
def fireState : State :=
  engState { Eng.reset with
    templates := [(31, copyRec 0x40 0 0x7FE0)]
    queues := [(7, { slot := some 31, since := none, before := none, triggers := [⟨0xFFFFFFFF, none, 0, none⟩, ⟨1, none, 0, some (copyRec 8 0 0)⟩] })] }
/-- The translations of a copy's two addresses and of its completion word. -/
def copyXlat (k : Copy) (who : Walker) (a : Access) (va : Word) : Xlat :=
  (copyState k).w.unitTranslate 0 who (some userPage) 7 0 a va

theorem witness_CopyBeats :
    ((List.range 32).all (fun n => !fireState.w.copyStreamLive 0 n)) = true ∧ fireState.eng.pressing = false ∧
    (fireState.eng.queue 7).slot = some 31 ∧ (fireState.eng.queue 7).since ≠ some fireState.w.cycle ∧
    (fireState.eng.queue 7).triggers.length = 2 ∧
    Tbl.find fireState.eng.templates 31 = some (copyRec 0x40 0 0x7FE0) ∧ fireState.eng.freePlace = some 0 ∧
    (regs []).eng.copy 63 = none ∧
    (let k := copyOf (copyRec 0x10 0 0x7FFF) none
     (copyState k).eng.copy 63 = some k ∧ k.status = none ∧ k.crec.dch = false ∧
      xlatIs (copyXlat k (.copySrc 63) .read k.srcAddr) 0x3FFF0 = true ∧
      xlatIs (copyXlat k (.copyDst 63) .write k.dstAddr) 0x30008 = true ∧
      (copyState k).w.failing 0x3FFF0 64 = none ∧ Memory.wf (copyState k).w.mem = true) ∧
    (let k := copyOf (copyRec 0x10 0x1FFF8 0x7FFF) (some 2)
     (copyState k).eng.copy 63 = some k ∧ k.status = some 2 ∧ k.crec.lport = 0 ∧ k.crec.cw ≠ 0 ∧ k.crec.cw.toNat % 8 = 0 ∧
      xlatIs (copyXlat k (.copyDst 63) .readWrite k.crec.cw) 0x3FFF8 = true ∧ (copyState k).w.failing 0x3FFF8 8 = none) := by
  decide +kernel

theorem test_copy :
    (let t := after (.copyBeat 63) (copyState (copyOf (copyRec 0x10 0 0x7FFF) none))
     memRead t.w.mem 0x30008 = 1 ∧ memRead t.w.mem 0x30017 = 2 ∧ (t.eng.copy 63).map (·.status) = some (some 0)) ∧
    ((after (.copyFire 7) fireState).eng.copy 0).map (·.crec.src) = some 0x1FFB0 := by decide +kernel

def faultedStream : Stream := { runStream with state := .faulted, refused := some ⟨true, 0x00FFFFFFFFFFFFC0⟩ }
def faultedCopy : Copy := { copyOf (copyRec 0x10 0 0x7FFF) none with state := .faulted, refused := some ⟨false, 0x20000⟩ }
def retryState (part : BitVec 16) (fenced : Bool) : State :=
  engState { Eng.reset with partid := part, fenced := fenced, streams := [(31, faultedStream)], copies := [(63, faultedCopy)] }

theorem witness_UnitRetries :
    (retryState 0 true).eng.fenced = true ∧
    ((retryState 5 false).eng.fenced = false ∧ ((retryState 5 false).w.eng 0).partid ≠ 0 ∧
      (retryState 5 false).eng.partid ≠ 0) ∧
    ((retryState 5 false).eng.partid = ((retryState 5 false).w.eng 0).partid) ∧
    ((cpOf (retryState 5 false).cps 0).prv = true ∧ (cpOf (userRegs []).cps 0).prv = false) ∧
    ((retryState 0 false).eng.stream 31).state = .faulted ∧
    ((retryState 0 false).eng.stream 31).refused = some ⟨true, 0x00FFFFFFFFFFFFC0⟩ ∧
    (0x00FFFFFFFFFFFFC0 : Word).extractLsb' 56 8 = 0 ∧ (retryState 0 false).eng.copy 63 = some faultedCopy ∧
    faultedCopy.refused = some ⟨false, 0x20000⟩ ∧ ((regs []).eng.stream 31).state ≠ .faulted ∧ (regs []).eng.copy 63 = none := by
  decide +kernel

/-- Head 0 with table 0 of sixteen entries at 0x11000 for keys of 16, a pool of eight hoops at 0x12000. -/
def keyHash : Hash := { (Hash.reset.htab 0x3000 0x11000) with pool := 0x12000, slots := 8, next := 1 }
def keyState : State :=
  let s := streamState ((modeCfg 0xC000).apply 0x11 0x11 0x8000) { runStream with base := 0x10000, count := 0 } [dataTok 3] [] []
  s.withEng { s.eng with hash := keyHash }
/-- A query record at 0x10000 with position 9; bucket entries that all name hoop 7, whose indices are 9, 4 and 10. -/
def queryMem : List Host.Cell :=
  [(0x30040, 9), (0x31000, 7), (0x31008, 7), (0x31010, 7), (0x31018, 7), (0x31020, 7), (0x31028, 7), (0x31030, 7),
    (0x31038, 7), (0x31040, 7), (0x31048, 7), (0x31050, 7), (0x31058, 7), (0x31060, 7), (0x31068, 7), (0x31070, 7),
    (0x31078, 7), (0x321C3, 0x18), (0x321C4, 9), (0x321C8, 4), (0x321CC, 10)]
def queryState : State :=
  let s := streamState (((modeCfg 0xE000).apply 0x15 0x15 15).apply 0x16 0x16 2)
    { runStream with base := 0x10000, count := 1 } [] [] queryMem
  s.withEng { s.eng with hash := keyHash }

/-- The entry of the key of one token whose only element is 3, and of the query of zeros. -/
def keyEntry (ts : List Token) : Word :=
  0x11000 + BitVec.ofNat 64 (8 * signature (keyHash.seed 0) 0 4 ((keyElems 0 none ts).take 16))

/-- An access that the page of address space 7 serves. -/
def heldOk (s : State) (va : Word) (n : Nat) : Bool :=
  let p := userPage.phys s.eng.node va.toNat
  va.extractLsb' 56 8 == 0 && va.toNat % n == 0 && userPage.serves 7 va.toNat && !p.remote && s.w.mayReach s.cur p &&
    regionOf p.addr == .dram 0 && s.w.failing p.addr n == none

theorem heldOk_spec {s : State} {va : Word} {n : Nat} (h : heldOk s va n = true) : HeldAt s 7 userPage va n := by
  simp only [heldOk, Bool.and_eq_true, beq_iff_eq, Bool.not_eq_true'] at h
  obtain ⟨⟨⟨⟨⟨⟨h1, h2⟩, h3⟩, h4⟩, h5⟩, h6⟩, h7⟩ := h
  exact ⟨h1, h2, h3, ⟨⟨h4, h5, .inl ⟨0, h6⟩⟩, fun c e o he => absurd (h6.symm.trans he) (by simp)⟩, h7⟩

theorem witness_KeysAndQueries :
    (let x := keyState.eng.stream 31
     let cfg := keyState.eng.streamCfg 31
     x.state = .running ∧ x.entry = some userPage ∧ keyState.eng.walks = [] ∧
      (keyState.eng.hash.tablesOf cfg.head).map (·.1) = [0] ∧ cfg.modeOf = mKEYST ∧
      keyTokens (keyState.eng.hash.keyLen cfg.head) (ltagFmt (cfg.tag 0)) = 1 ∧ x.toks = [] ∧ x.count = 0 ∧
      keyState.w.headToken 0 31 0 = some (dataTok 3) ∧ keyState.eng.insertHeld 31 = false ∧
      keyState.eng.hash.outOfTurn keyState.w.cycle 31 = false ∧
      (keyState.eng.pool (.stream 31 0)).toks = [dataTok 3] ∧ userPage.permits false .read = true ∧
      userPage.permits false .write = true ∧ 1 ≤ keyState.eng.hash.next ∧ keyState.eng.hash.next < keyState.eng.hash.slots ∧
      keyState.eng.hash.slots ≤ 2 ^ 27 ∧ Memory.wf keyState.w.mem = true ∧ keyEntry [dataTok 3] = 0x11020 ∧
      keyState.heldAddr userPage 0x10000 = 0x30000 ∧ keyState.heldAddr userPage 0x11020 = 0x31020 ∧
      keyState.heldAddr userPage 0x12040 = 0x32040 ∧ memNat keyState.w.mem 0x31020 8 = 0) ∧
    (let x := queryState.eng.stream 31
     let cfg := queryState.eng.streamCfg 31
     x.state = .running ∧ cfg.modeOf = mBGATH ∧ keyTokens (queryState.eng.hash.keyLen cfg.head) cfg.qfmt = 1 ∧ x.out = [] ∧
      x.dense = none ∧ x.held = none ∧ x.pos < x.count ∧ 15 ≤ cfg.kmax ∧
      (queryState.eng.hash.tablesOf cfg.head).map (·.2.limit) = [0] ∧
      keyEntry [dataTok 0] = 0x11000 + 8 * ((keyEntry [dataTok 0] - 0x11000) / 8) ∧
      memNat queryState.w.mem (queryState.heldAddr userPage (keyEntry [dataTok 0])) 8 = 7 ∧
      7 < queryState.eng.hash.slots ∧ memNat queryState.w.mem (queryState.heldAddr userPage 0x121C0) 4 = 3 * 2 ^ 27) ∧
    ((regs []).eng.stream 31).state ≠ .running := by decide +kernel

theorem witness_KeysAndQueries_held :
    HeldAt keyState 7 userPage 0x10000 64 ∧ HeldAt keyState 7 userPage 0x11020 8 ∧ HeldAt keyState 7 userPage 0x12040 64 ∧
    HeldAt queryState 7 userPage 0x10000 64 ∧ HeldAt queryState 7 userPage 0x10040 4 ∧
    HeldAt queryState 7 userPage (keyEntry [dataTok 0]) 8 ∧ HeldAt queryState 7 userPage 0x121C0 4 ∧
    HeldAt queryState 7 userPage 0x121CC 4 ∧
    ∀ z, ¬ (within 0x30000 64 z ∧ within 0x31020 8 z) ∧ ¬ (within 0x30000 64 z ∧ within 0x32040 64 z) ∧
      ¬ (within 0x31020 8 z ∧ within 0x32040 64 z) :=
  ⟨heldOk_spec (by decide +kernel), heldOk_spec (by decide +kernel), heldOk_spec (by decide +kernel),
    heldOk_spec (by decide +kernel), heldOk_spec (by decide +kernel), heldOk_spec (by decide +kernel),
    heldOk_spec (by decide +kernel), heldOk_spec (by decide +kernel), fun z => by unfold within; omega⟩

/-- R313, R320: a new hoop with its index, and the indices at or below the position in ascending order. -/
theorem test_keys_and_queries :
    memNat (after (.keystKey 31) keyState).w.mem 0x31020 8 = 2 ^ 55 + 2 ^ 27 + 1 ∧
    ((after (.bgathQuery 31) queryState).eng.stream 31).out.map (·.data) = [0x900000004, 0] := by decide +kernel
/-! Matrix nodes: node 3 of a live vat, format i8, two values of K, one row, one column. -/

def unitPlane : Plane := { allPlane with units := [addrMatrix 3, addrEdge 7] }
def unitVat : Vat := { liveVat with active := some unitPlane, asid := 7 }
/-- A memory element whose north port takes tag 0 with a reserved slot. -/
def northCfg : ElemCfg := ((ramCfg.apply 7 0x36 1).apply 7 0x37 0x8000).apply 7 0x38 0x8820
def southCfg : ElemCfg := ((ramCfg.apply 7 0x36 5).apply 7 0x37 0x8000).apply 7 0x38 0x8800
def nodeCfg : MxCfg :=
  (((MxCfg.empty.apply 0 0x4800).apply 1 2).apply 8 0xFFC0).apply 9 1
def byteTok (d : Payload) : Token := { plainToken kDATA with valid := 3, data := d }
def elemOf (n : Nat) : SrcElem := ⟨n, 9, none, false, false, 0, false⟩
def mxState (c : MxCfg) (x : MxNode) (ps : Tbl InQueue) : State :=
  engState { Eng.reset with
    vats := [(0, unitVat)], active := [(7, northCfg)], mxActive := [(3, c)], mx := [(3, { x with state := .running })]
    pools := ps }
def wPool (f : BitVec 4) : InQueue := { poolWith [byteTok 7, byteTok 8] with fmt := f }
def sparseCfg : MxCfg := (((nodeCfg.apply 0 0xC800).apply 1 64).apply 6 0x1200).apply 5 0

def inputState : State :=
  mxState (nodeCfg.apply 5 1) { MxNode.reset with left := 1 }
    [((Endpoint.matrix 3 0).key, wPool 9), ((Endpoint.matrix 3 1).key, wPool 9), ((Endpoint.matrix 3 3).key, wPool 0)]
def maskState : State :=
  mxState (sparseCfg.apply 5 1) MxNode.reset [((Endpoint.matrix 3 3).key, wPool 0)]

theorem witness_MatrixInputs :
    (regs []).w.nodeLive 0 3 = false ∧ inputState.w.nodeLive 0 3 = true ∧ (inputState.eng.mxn 3).pressed = false ∧
    (byteTok 7).kind = kDATA ∧ (byteTok 7).p = false ∧
    ((inputState.eng.pool (.matrix 3 0)).toks = [byteTok 7, byteTok 8] ∧ (inputState.eng.pool (.matrix 3 0)).taken = 0 ∧
      (inputState.eng.pool (.matrix 3 0)).fmt = (inputState.eng.mxCfg 3).fmt ∧ (inputState.eng.mxn 3).left ≠ 0 ∧
      (inputState.eng.mxn 3).used (inputState.eng.mxCfg 3) < 32768) ∧
    ((maskState.eng.pool (.matrix 3 3)).toks = [byteTok 7, byteTok 8] ∧
      (maskState.eng.mxn 3).wantsMask (maskState.eng.mxCfg 3) = true ∧
      (maskState.eng.mxn 3).lines + (((maskState.eng.mxn 3).masks.length + 1) * (16 * perLane (maskState.eng.mxCfg 3).fmt) + 511) / 512 ≤ 32768) ∧
    ((inputState.eng.pool (.matrix 3 1)).fmt = (inputState.eng.mxCfg 3).fmt ∧ (inputState.eng.pool (.matrix 3 1)).marker = none ∧
      (inputState.eng.pool (.matrix 3 2)).marker = none ∧ inputState.eng.linked (.matrix 3 2) = false ∧
      (inputState.eng.mxn 3).over (inputState.eng.mxCfg 3) = false ∧ (inputState.eng.mxn 3).aEnded = false ∧
      inputState.eng.edgeHolds (addrMatrix 3) (sinkMatrix 3) (some (byteTok 7)) = false ∧
      (inputState.eng.mxn 3).a.length < (inputState.eng.mxCfg 3).rows * (inputState.eng.mxCfg 3).klen) := by decide +kernel

/-- Rows 3 and -2, weights 5 and -1. -/
def tileState : State :=
  mxState nodeCfg { MxNode.reset with weights := [{ dataTok 0xFF05 with valid := 16 }], a := [elemOf 3, elemOf 0xFE], aBad := [false, false] } []
def outTile (row : Nat) : MxOut := { tile := 0, rows := 1, row := row, tok := 0, p := false, lastTile := true }
def storeState : State :=
  mxState nodeCfg { MxNode.reset with
    outs := [outTile 0], entry := some userPage, tiles := Vector.replicate 2 { MxTile.reset with vals := [(0, 0x800000000001)] } } []
def sendState : State := mxState nodeCfg { MxNode.reset with out := [dataTok 5, dataTok 6] } []

theorem witness_MatrixTiles :
    (regs []).w.nodeLive 0 3 = false ∧
    (let x := tileState.eng.mxn 3
     let cfg := tileState.eng.mxCfg 3
     tileState.w.nodeLive 0 3 = true ∧ cfg.isInt = true ∧ cfg.sparse = false ∧ cfg.accin = false ∧ 1 ≤ cfg.klen ∧
      x.over cfg = false ∧ x.left = 0 ∧ x.outs.length < 2 ∧ cfg.rows * cfg.klen ≤ x.a.length ∧
      cfg.klen * cfg.cols ≤ (weightElems cfg x.weights none).length) ∧
    (let x := storeState.eng.mxn 3
     let cfg := storeState.eng.mxCfg 3
     x.out = [] ∧ x.outs = [outTile 0] ∧ cfg.epi = eST ∧ cfg.outFmt = 0 ∧ storeState.eng.vatOf (addrMatrix 3) = some 0 ∧
      16 * (outTile 0).tok < cfg.cols ∧ cfg.base = 0x1FFC0 ∧
      xlatIs (storeState.w.unitTranslate 0 (.node 3) (some userPage) 7 0 .write 0x1FFC0) 0x3FFC0 = true ∧
      (0x1FFC0 : Word).toNat % 64 + 4 ≤ 64 ∧ Memory.wf storeState.w.mem = true) ∧
    ((sendState.eng.mxn 3).out = [dataTok 5, dataTok 6] ∧ matrixLink sendState.eng.cfg 3 = some (.grid 7 0 0, 0) ∧
      sendState.eng.reserveFree (.grid 7 0 0) = true ∧ sendState.w.gridBegun 0 = false) := by decide +kernel

theorem unit_store : UnitAt storeState (there 0x3FFC0) :=
  ⟨⟨rfl, by decide +kernel, .inl ⟨0, by decide +kernel⟩⟩, fun c e o he => by
    have hd : regionOf 0x3FFC0 = .dram 0 := by decide
    exact absurd (hd.symm.trans he) (by simp)⟩

/-- R388, R389: 3·5 + (-2)·(-1); a sum below the range of i32 is stored as the least value. -/
theorem test_matrix :
    Tbl.get (((after (.mxTile 3) tileState).eng.mxn 3).tiles.get 0).vals 0 0 = 17 ∧
    memNat (after (.mxEpilogueToken 3) storeState).w.mem 0x3FFC0 4 = 0x80000000 := by decide +kernel
/-! Edge ports: port 7 of a live vat, egress to a core of this die, of another die, outside the partition; ingress. -/

def portCfg (dir dst : BitVec 16) : EpCfg := (EpCfg.empty.apply 0 dir).apply 2 dst
/-- The element that port 7 enters the grid at takes its tokens with a reserved slot. -/
def portState (c : EpCfg) (x : EpState) (part : BitVec 16) (nets : List NetToken) : State :=
  let s := engState { Eng.reset with
    partid := part, partWas := part, vats := [(0, unitVat)], active := [(127, southCfg)], epActive := [(7, c)], ports := [(7, x)]
    pools := [((Endpoint.edge 7).key, poolWith [dataTok 1, dataTok 2])] }
  { s with w := { s.w with nets := nets } }
def netTok (part : BitVec 16) : NetToken :=
  { srcCore := 1, srcPort := 0, dstCore := 0, dstPort := 7, part := part, tok := dataTok 9, fmt := 0, arrive := 0
    spoilt := false }

/-- The ingress port on the other die that port 7 names has one credit. -/
def withCredit (s : State) : State :=
  s.withWorld (s.w.setEng 95 { Eng.reset with ports := [(0, { EpState.reset with credits := 1 })] })

theorem witness_EdgePorts_egress :
    (regs []).eng.portLive 7 = false ∧
    (let s := portState (portCfg 0x5000 95) EpState.reset 5 []
     s.eng.portLive 7 = true ∧ (s.eng.epCfg 7).isEgress = true ∧ (s.eng.epCfg 7).red = false ∧
      (s.eng.epCfg 7).node s.eng.node = s.eng.node ∧ (s.eng.pool (.edge 7)).toks = [dataTok 1, dataTok 2] ∧
      s.w.outside 0 s.eng.node (some 95) = true ∧ (s.eng.epCfg 7).dstCore.toNat = 95 ∧ (s.eng.port 7).dcnt = 0) ∧
    (let s := portState (portCfg 0x5000 95) EpState.reset 0 []
     s.w.outside 0 s.eng.node (some 95) = false ∧ (dataTok 1).r = false ∧ s.eng.windowed 0 7 = true ∧
      (s.eng.epCfg 7).dstPort = 0 ∧ ((s.w.eng 95).port 0).credits = 0) ∧
    (let s := withCredit (portState (portCfg 0x5000 95) EpState.reset 0 []);
     s.eng.windowed 0 7 = true ∧ ((s.w.eng 95).port 0).credits ≠ 0) ∧
    (let s := portState (portCfg 0x5000 23) EpState.reset 0 []
     s.eng.windowed 0 7 = false ∧ (s.w.nets.filter (fun n => n.srcCore = 0 && n.srcPort = 7)).length < 64) := by
  decide +kernel

/-- A credit for the only egress port that names the ingress port; a reduce-store at the end of DRAM. -/
def creditState : State :=
  let s := portState (portCfg 0x5000 0xA005) EpState.reset 0 []
  { s with w := { s.w with
    credits := [⟨1, 1⟩, ⟨5, 5⟩, ⟨2, 2⟩]
    reduces := [{ core := 1, port := 0, addr := 0x1000, rop := 0, tok := dataTok 1 },
      { core := 0, port := 7, addr := 0x5FFFFFFFC0, rop := 0, tok := dataTok 0xFFFFFFFF }] } }

/-- Frames of another package: tokens for three ports of core 0, two reduce-stores at the end of DRAM. -/
def tokenFrame (p : Nat) : TokenFrame := ⟨0, p, 5, 0, (dataTok 9).sideband, 9⟩
def frameState : State :=
  let s := portState (portCfg 0x9000 0) EpState.reset 5 []
  let f : ReduceFrame := ⟨1, 0x5FFFFFFFC0, 0, (dataTok 9).sideband, 9⟩
  { s with w := { s.w with tokensIn := [tokenFrame 6, tokenFrame 7, tokenFrame 5], reducesIn := [{ f with sender := 2 }, f] } }

theorem witness_EdgePorts_ingress :
    (let s := portState (portCfg 0x9000 0) EpState.reset 0 [netTok 5, netTok 0]
     s.eng.portLive 7 = true ∧ (s.eng.port 7).inbox = [] ∧ s.w.gridBegun 0 = false ∧ (s.eng.epCfg 7).isIngress = true ∧ (s.eng.epCfg 7).ctb = false ∧ (s.eng.port 7).dead = false ∧
      s.w.nets = netTok 5 :: [netTok 0] ∧ (netTok 5).dstCore = s.cur ∧ (netTok 5).arrive ≤ s.w.cycle ∧
      (netTok 5).tok.kind ≠ kPRESS ∧ s.eng.fenced = false ∧ (netTok 5).part ≠ 0 ∧ (netTok 5).part ≠ s.eng.partid) ∧
    (let s := portState (portCfg 0x9000 0) EpState.reset 5 [netTok 5]
     (netTok 5).part = s.eng.partid ∧ edgeLink s.eng.cfg 7 = some (.grid 127 4 0, 0) ∧
      s.eng.reserveFree (.grid 127 4 0) = true) ∧
    (creditState.w.credits = [⟨1, 1⟩] ++ ⟨5, 5⟩ :: [⟨2, 2⟩]) ∧
    (let s := portState ((portCfg 0x7000 0xA005).apply 3 9) EpState.reset 0 [];
     (s.eng.epCfg 7).isEgress = true ∧ (s.eng.epCfg 7).node s.eng.node ≠ s.eng.node) ∧
    (let k := tokenFrame 7
     let s := frameState
     s.w.nets = [] ∧ s.w.tokensIn = [tokenFrame 6] ++ k :: [tokenFrame 5] ∧ (tokenFrame 6).port ≠ 7 ∧ k.core = s.cur ∧
      k.part = s.eng.partid ∧ (Token.ofSideband k.side k.data).kind ≠ kPRESS) ∧
    (let f : ReduceFrame := ⟨1, 0x5FFFFFFFC0, 0, (dataTok 9).sideband, 9⟩
     let f' : ReduceFrame := { f with sender := 2 }
     frameState.w.reducesIn = [f'] ++ f :: [] ∧ f'.sender ≠ f.sender ∧ (Token.ofSideband f.side f.data).valid.toNat ≤ 16) ∧
    regionOf ((0x5FFFFFFFC0 : Word).toNat % 2 ^ 50) = .dram 95 ∧ (dataTok 1).valid.toNat ≤ 16 ∧
    creditState.w.failing 0x5FFFFFFFC0 64 = none ∧ Memory.wf creditState.w.mem = true := by decide +kernel

/-- The CTRL half of a pair for a word of this node, and for one of another. -/
def ctrlHalf (node : BitVec 32) : Token :=
  { plainToken kCTRL with valid := 16, data := (0x1000 : Payload) ||| ((node ++ (0 : BitVec 32)).setWidth 512) }
def redState (k : Token) (part : BitVec 16) : State :=
  portState (portCfg 0x7400 95) { EpState.reset with ctrl := some k } part []
theorem witness_EdgePorts_pairs :
    (let s := redState (ctrlHalf 0) 0
     (s.eng.epCfg 7).isEgress = true ∧ (s.eng.epCfg 7).red = true ∧ (s.eng.pool (.edge 7)).toks = [dataTok 1, dataTok 2] ∧
       s.w.ctrlOutside 0 (ctrlHalf 0) = false ∧
       (lane (ctrlHalf 0).data 1 ++ lane (ctrlHalf 0).data 0 : Word).extractLsb' 50 14 = s.eng.node) ∧
    (redState (ctrlHalf 0x40000) 5).w.ctrlOutside 0 (ctrlHalf 0x40000) = true ∧
    (let s := portState (portCfg 0x9000 0) EpState.reset 0 [netTok 5]
     let t := { s with w := { s.w with engs := [(0, { s.eng with fenced := true })] } }
     t.eng.fenced = true ∧ (t.eng.epCfg 7).isIngress = true ∧ (t.eng.port 7).inbox = [] ∧ t.w.nets = [netTok 5]) := by
  decide +kernel

/-! The block scheduler: slot 7 runs block 255, its records enter element 0 at port pn0. -/

def recOf (at0 : Nat) : ThreadRec := { toks := [{ plainToken kTHR with level := 1 }, dataTok 5], at' := at0 }
def schedPlane (b : BitVec 16) : Plane := { allPlane with ctl := [(0, 1), (1, b), (2, 0x80)] }
def schedState (inj : List Token) (qs : Tbl (List ThreadRec)) (stopped : List Nat) (now : Nat) : State :=
  let s := engState { stageEng 0x1012 with
    pools := [], vats := [(7, { liveVat with active := some (schedPlane 255) })]
    sched := { Sched.reset with queues := qs, injecting := [(7, inj)], stopped := stopped } }
  { s with w := { s.w with cycle := now } }

theorem witness_BlockScheduler :
    (regs []).eng.scheduledSlots = [] ∧ (regs []).eng.ingress.toks = [] ∧
    (let s := schedState [dataTok 5] [] [] 0
     7 ∈ s.eng.scheduledSlots ∧ s.eng.pressing = false ∧ (s.eng.vat 7).state = .running ∧
      (schedPlane 255).entryElem = 0 ∧ (schedPlane 255).entryPort = 0 ∧ s.eng.hasSlot (.grid 0 0 0) = true ∧ s.w.gridBegun 0 = false ∧
      Tbl.get s.eng.sched.injecting [] 7 = dataTok 5 :: []) ∧
    (let s := schedState [] [(255, [recOf 0])] [] 0
     s.eng.sched.queue (schedPlane 255).block = recOf 0 :: [] ∧ 7 ∉ s.eng.sched.stopped ∧
      (recOf 0).toks = { plainToken kTHR with level := 1 } :: [dataTok 5]) ∧
    (let s := schedState [] [(3, [recOf 1])] [] 65537
     s.eng.sched.queue 3 = recOf 1 :: [] ∧ 65536 ≤ s.w.cycle - (recOf 1).at' ∧ s.eng.scheduledSlots = [7] ∧
      s.eng.slotBlock 7 = 255 ∧ s.eng.sched.queue 255 = []) ∧
    (let s := schedState [] [(3, [recOf 1])] [7] 65537
     s.eng.pickBlock s.w.cycle 7 = some 3 ∧ s.eng.pressing = false ∧ s.w.slotDrained 0 7 = true ∧
      s.eng.sched.queue (s.eng.slotBlock 7) = [] ∧ 7 ∈ s.eng.sched.stopped) := by decide +kernel

/-! Jobs: a block of two units, the same that waits on a dependence, the same with a wrong NBV. -/

def jobMem (nbv : Byte) (dep : List Host.Cell) : List Host.Cell :=
  [(0x1000, 0x10), (0x1008, 5)] ++ (if nbv = 0 then [] else [(0x2002, nbv)]) ++ [(0x2004, 2), (0x2009, 4), (0x2011, 0x30)] ++ dep
def depCells : List Host.Cell := [(0x2019, 0x10)]
def refOf : JobRef := { addr := 0x2000, copied := none, arg0 := none }
def jobState (m : List Host.Cell) (u : JobUnit) : State :=
  let s := stateOf { cpRun with mode := .between } Eng.reset m
  { s with w := { s.w with jobs := [(0, u)] } }
def queued (r : JobRef) : JobUnit := { JobUnit.reset with queues := [(15, [r])] }
def blockOf : Vector Word 8 := Vector.ofFn (fun i => ([0x200010000, 0x400, 0x3000, 0, 1, 2, 3, 4] : List Word).getD i.val 0)
def runningJob (ended : Nat) : Job := { jobOf none with block := blockOf, units := 2, nextUnit := [(0, 1)], ended := ended }
theorem witness_JobUnit :
    (let s := jobState (jobMem 1 []) (queued refOf)
     (s.w.job 0).job = none ∧ (s.w.job 0).reread = 0 ∧ (s.w.job 0).queue 15 = refOf :: [] ∧
      (List.range 15).all (fun k => ((s.w.job 0).queue k).isEmpty) = true ∧ refOf.copied = none ∧ refOf.arg0 = none ∧
      s.w.failing 0x2000 64 = none ∧ memWord s.w.mem 0x2000 = 0x200010000 ∧ memWord s.w.mem 0x2008 = 0x400 ∧
      memWord s.w.mem 0x2010 = 0x3000 ∧ memWord s.w.mem 0x2018 = 0) ∧
    (let s := jobState [] (queued { refOf with addr := 0x40000000000 })
     let u : State := { s with w := s.w.setEng 0 { s.eng with partid := 5 } }
     u.w.mayReach 0 ⟨false, 0, 0x40000000000⟩ = false) ∧
    (let s := jobState (jobMem 0 []) { queued refOf with reread := 1 }
     let u : State := { s with w := { s.w with cycle := 1 } }
     (u.w.job 0).reread ≠ 0 ∧ (u.w.job 0).reread ≤ u.w.cycle ∧ (memWord u.w.mem 0x2000).extractLsb' 16 2 = 0 ∧
      Memory.wf u.w.mem = true) ∧
    (let s := jobState (jobMem 1 depCells) (queued refOf)
     memWord s.w.mem 0x2018 = 0x1000 ∧ memWord s.w.mem 0x1000 = 0x10 ∧
      (memWord s.w.mem 0x10).toInt < (memWord s.w.mem 0x1008).toInt ∧ s.w.failing 0x1000 32 = none ∧
      s.w.failing 0x10 8 = none) ∧
    (let s := jobState (jobMem 1 []) { JobUnit.reset with job := some (runningJob 1) }
     (s.w.job 0).job = some (runningJob 1) ∧ (runningJob 1).ended ≠ (runningJob 1).units ∧
      (runningJob 2).ended = (runningJob 2).units ∧ Block.word (runningJob 2).block 2 = 0x3000 ∧
      Memory.wf s.w.mem = true ∧ s.w.failing 0x3000 8 = none ∧
      Tbl.find (runningJob 1).nextUnit s.cur = some 1 ∧ s.eng.fenced = false ∧ s.eng.unit = none ∧ 1 < (runningJob 1).units ∧
      s.cp.mode = .between ∧ (Block.word (runningJob 1).block 1).toNat % 4 = 0 ∧ (runningJob 1).begun = true ∧
      (runningJob 1).cores.Nodup ∧ ({ runningJob 1 with begun := false } : Job).begun = false) := by decide +kernel

theorem plain_job (m : List Host.Cell) (u : JobUnit) (a : Nat) (h : a < 0x100000000) : PlainAt (jobState m u) (there a) := by
  refine ⟨rfl, rfl, .inl ⟨0, ?_⟩⟩
  show regionOf a = .dram 0
  unfold regionOf
  rw [if_pos (by omega), Nat.div_eq_of_lt h]

/-! Doorbells and messages. -/

def mleState (part : BitVec 16) : State :=
  let s := engState { Eng.reset with partid := part }
  { s with w := { s.w with jobs := [(9, { JobUnit.reset with mles := [(3, ⟨0x1041, 7⟩), (7, ⟨0x2001, 7⟩)] })] } }
def fullJobs : State :=
  { regs [] with w := { (regs []).w with jobs := [(0, { JobUnit.reset with queues := [(15, List.replicate 64 refOf)] })] } }
def watched (cycles : Nat) (m : CpMode) : State :=
  let s := stateOf { cpRun with mode := m, wdogLimit := 1 } Eng.reset []
  { s with w := { s.w with cycle := cycles } }

theorem witness_MessagesAndDoorbells :
    ((regs []).w.lowestCore 0 = true ∧ (((regs []).w.job 0).queue 15).length < 64) ∧
    (let s := regs []
     ({ s with cur := 95 } : State).w.lowestCore 95 = false) ∧
    64 ≤ ((fullJobs.w.job 0).queue 15).length ∧
    ((mleState 0).w.eng 0).node = 0 ∧ (1 : BitVec 14) ≠ ((mleState 0).w.eng 0).node ∧
    ((Tbl.get ((mleState 0).w.job 9).mles Mle.empty 3).w0.getLsbD 0 = true ∧
      (Tbl.get ((mleState 0).w.job 9).mles Mle.empty 3).w1.extractLsb' 0 16 = (7 : BitVec 16) ∧
      (List.range 3).all (fun k => !(Tbl.get ((mleState 0).w.job 9).mles Mle.empty k).w0.getLsbD 0) = true) ∧
    (List.range 8).all (fun k => !((Tbl.get ((mleState 0).w.job 8).mles Mle.empty k).w0.getLsbD 0)) = true ∧
    (retryState 0 true).eng.fenced = true ∧ (regs []).eng.fenced = false ∧
    ((cpOf (regs []).cps 0).prv = true ∧ (cpOf (userRegs []).cps 0).prv = false) ∧
    ((mleState 5).eng.partid ≠ 0 ∧ ((mleState 5).w.eng 1).partid ≠ (mleState 5).eng.partid) ∧
    ((watched 1024 .idling).cp.wdogLimit ≠ 0 ∧
      (watched 1024 .idling).cp.wdogLimit.toNat ≤ ((watched 1024 .idling).w.cycle - (watched 1024 .idling).cp.wdogStart) / 1024 ∧
      (watched 1024 .idling).cp.mode = .idling) ∧
    ¬ ((watched 1023 .running).cp.wdogLimit.toNat ≤ ((watched 1023 .running).w.cycle - (watched 1023 .running).cp.wdogStart) / 1024) := by
  decide +kernel

def thr (n : BitVec 4) : Token := { plainToken kTHR with level := n, r := true }
def ingressState (side : BitVec 24) (ts : List Token) : State :=
  engState { Eng.reset with ingress := { sideband := side, toks := ts, drops := 0 } }

theorem witness_IngressPort :
    2 ^ 24 ≤ (0x1000000 : Word).toNat ∧ (0xFFFFFF : Word).toNat < 2 ^ 24 ∧ (1 : BitVec 12) ≠ 0 ∧
    64 ≤ (ingressState 0 (List.replicate 64 (thr 1))).eng.ingress.toks.length ∧
    ((ingressState 0x730000 []).eng.ingress.toks = [] ∧
      (Token.ofSideband (ingressState 0x730000 []).eng.ingress.sideband 0).kind = kTHR ∧
      (Token.ofSideband (ingressState 0x730000 []).eng.ingress.sideband 0).level = 3) ∧
    ((ingressState 0 [thr 3, dataTok 1]).eng.ingress.toks = thr 3 :: [dataTok 1] ∧ 1 + 1 < (thr 3).level.toNat ∧
      (Token.ofSideband (ingressState 0 [thr 3, dataTok 1]).eng.ingress.sideband 0).kind ≠ kTHR) ∧
    ((ingressState 0 []).eng.ingress.toks = [] ∧
      (Token.ofSideband (ingressState 0 []).eng.ingress.sideband 0).kind ≠ kTHR) ∧
    ((ingressState 0x710000 [thr 1]).eng.ingress.toks = thr 1 :: [] ∧ 0 < (thr 1).level.toNat ∧
      (Token.ofSideband (ingressState 0x710000 [thr 1]).eng.ingress.sideband 0).kind = kTHR) ∧
    (regs []).w.host.hrcfg.getLsbD 8 = false := by decide +kernel

/-! Host commands, boot, links. Partition 5 is core 0 alone. -/

theorem witness_HostCommands :
    let cores (s : State) := (List.range 96).filter (fun c => (s.w.eng c).partid.toNat = s.eng.partid.toNat && !(s.w.eng c).fenced)
    (mleState 5).cur < 96 ∧ cores (mleState 5) = [0] ∧ ((mleState 5).w.eng 0).press = none ∧
    (mleState 5).w.areaOk 0 0x1000 8 = true ∧ (0x1000 : Word).toNat % 2 ^ 49 % 8 = 0 ∧ (0x1004 : Word).toNat % 2 ^ 49 % 8 ≠ 0 ∧
    (List.range 8).all (fun v => !(((mleState 5).w.eng 0).vat v).state.live) = true ∧
    ((engState { Eng.reset with partid := 5, press := some (pressOf true none) }).w.eng 0).press ≠ none ∧
    (0x1FFFFFFFFFFFC : Word).toNat % 2 ^ 49 % 4 = 0 ∧ (0x1FFFFFFFFFFFD : Word).toNat % 2 ^ 49 % 4 ≠ 0 ∧
    (List.range 8).all (fun v => decide (((regs []).eng.vat v).state = .free)) = true ∧
    (mleState 5).w.host.hcmdAt ≠ some (mleState 5).w.cycle ∧
    (let s := { regs [] with w := { (regs []).w with host := { HostBlock.reset with hcmdAt := some 0 } } }
     s.w.host.hcmdAt = some s.w.cycle) := by decide +kernel

theorem witness_BootAndReset :
    2 ≤ (2 : Word).toNat ∧ (1 : Word).toNat < 2 ∧ (cpOf (regs []).cps 0).mode ≠ .rom ∧ (cpOf State.reset.cps 0).mode = .rom := by
  decide +kernel

def linkState (up : Bool) (n : Nat) : State :=
  { regs [] with w := { (regs []).w with links := [(35, { up := up, peer := 3, replays := 9, tries := n })] } }
def eccState (ie : Bool) (now : Nat) : State :=
  let s := stateOf { cpRun with mstat := if ie then 3 else 1 } { Eng.reset with pend := [⟨0x09, 128, TInfo.zero⟩], eccAt := some 0 } []
  { s with w := { s.w with cycle := now } }

theorem witness_LinksAndHeat :
    (35 : BitVec 6).toNat < 36 ∧ ¬ ((36 : BitVec 6).toNat < 36) ∧
    ((linkState true 8).w.link 35).up = true ∧ 8 ≤ ((linkState true 8).w.link 35).tries ∧
    ¬ 8 ≤ ((linkState true 7).w.link 35).tries ∧ ((linkState false 0).w.link 35).up = false ∧
    875 < (regs []).w.aclkOf 3 ∧
    ({ (regs []).w with aclk := [(3, 875)] } : World).aclkOf 3 ≤ 875 ∧
    ((eccState false (2 ^ 20)).eng.eccAt = some 0 ∧
      (eccState false (2 ^ 20)).eng.pend.find? (fun q => q.code == 0x09) = some ⟨0x09, 128, TInfo.zero⟩ ∧
      (eccState false (2 ^ 20)).cp.ie = false ∧ 2 ^ 20 ≤ (eccState false (2 ^ 20)).w.cycle - 0) ∧
    (eccState true (2 ^ 20)).cp.ie = true ∧ (eccState false (2 ^ 20 - 1)).w.cycle - 0 < 2 ^ 20 ∧
    (regs []).eng.eccAt = none := by decide +kernel

/-! Package time, triggers, trace sinks, windows. -/

def timerOf (kind : BitVec 4) : TimeTrigger where
  addr := 0x2000
  asid := 0
  ptroot := 0
  priv := true
  xoff := true
  target := 5
  kind := kind
  stream := 0
  queue := 3
  image := 7
  side := 0
  due := 5
  late := false
def timeState (st : BitVec 2) (time : Nat) (armed : Option Nat) : State :=
  let s := engState { Eng.reset with triggers := [(1, timerOf 1), (2, timerOf 2), (3, timerOf 3), (4, timerOf 4)], templates := [(1, copyRec 8 0 0)]
                                     queues := [(3, { slot := armed, since := none, before := none, triggers := [] })] }
  { s with w := { s.w with time := time, timeState := st } }

theorem plain_timer (st : BitVec 2) (time : Nat) (armed : Option Nat) : PlainAt (timeState st time armed) (there 0x2018) :=
  ⟨rfl, rfl, .inl ⟨0, by decide +kernel⟩⟩

theorem witness_PackageTime_clock :
    ((timeState 1 5 none).w.timeState = 1 ∧ (timeState 1 5 none).w.time < (0x10 : Word).toNat) ∧
    (timeState 2 5 none).w.timeState = 2 ∧ (timeState 1 5 none).w.timeState ≠ 2 ∧
    (timeState 2 5 none).w.timeLocked = false ∧
    (16000000000 * 1 ≤ (timeState 2 15999999920 none).w.time + 80 ∧ (timeState 2 15999999920 none).w.time ≤ 16000000000 * 1 + 80 ∧
      (timeState 2 15999999920 none).w.ppsOut < 1) ∧
    (16000000000 * 0 + 80 < (timeState 2 15999999919 none).w.time ∧ (timeState 2 15999999919 none).w.time + 80 < 16000000000 * (0 + 1)) ∧
    (timeState 2 80 none).w.time ≤ 16000000000 * 0 + 80 := by decide +kernel

/-- At the boundary of 80 sixteenths, and one before it: triggers 2, 3 and 4 are armed, one of each kind. -/
theorem witness_PackageTime_trigger :
    let s := timeState 2 80 (some 1)
    Tbl.find s.eng.triggers 5 = none ∧ Tbl.find s.eng.triggers 1 = some (timerOf 1) ∧ (s.eng.streamCfg 0).modeOf = mCPIO ∧
    streamLink s.eng.cfg 0 = none ∧
    ([2, 3, 4] : List Nat).map (Tbl.find s.eng.triggers) = [some (timerOf 2), some (timerOf 3), some (timerOf 4)] ∧
    (timeState 2 79 (some 1)).w.time < 16 * (timerOf 2).due ∧ 16 * (timerOf 2).due ≤ s.w.time ∧
    s.eng.armedRec s.w.cycle 3 ≠ none ∧ (s.eng.queue 3).triggers.length < 16 ∧ Memory.wf s.w.mem = true := by decide +kernel

theorem witness_PackageTime_status :
    (timeState 2 80 (some 1)).w.commandXlat 0 uTIME 0 0 true true .write (0x2000 + 24) =
      (.ok (there 0x2018), (timeState 2 80 (some 1)).w) := rfl

/-- A context of 256 places (LOG2N = 8) that partition 5 is served by, with one record; `used` places are taken. -/
def sinkOf (cfg : Word) (used lost : Nat) : Sink where
  base := 0x4000
  cfg := cfg
  widx := BitVec.ofNat 32 used
  ridx := 0
  drops := 0
  stalls := 0
  buf := [9]
  waiting := []
  lost := lost
def sinkState (x : Sink) (now : Nat) : State :=
  let s := engState { Eng.reset with partid := 5 }
  { s with w := { s.w with cycle := now, time := 1, sinks := [(0, x)] } }

theorem witness_TraceSinks :
    let c := sinkOf 0x5000000000208 255 0
    (let s := sinkState c 0
     (s.w.sink 0) = c ∧ c.en = true ∧ s.w.cycle % 8 = 0 ∧ c.buf = 9 :: [] ∧ c.waiting = [] ∧
      ((9 : BitVec 128).extractLsb' 64 64).toNat < s.w.time ∧ (s.w.eng 0).marking = none ∧
      (c.widx - c.ridx).toNat < 2 ^ c.log2n ∧ Memory.wf s.w.mem = true ∧
      regionOf ((c.base.extractLsb' 12 38).toNat * 4096 + 16 * (c.widx.toNat % 2 ^ c.log2n)) = .dram 0) ∧
    (sinkState c 1).w.cycle % 8 ≠ 0 ∧ ¬ ((2 ^ 64 + 9 : BitVec 128).extractLsb' 64 64).toNat < (sinkState c 0).w.time ∧
    (cpOf (sinkState c 0).cps 0).prv = true ∧
    (sinkOf 0x5000000000208 255 3).lost ≠ 0 ∧
    (let c := sinkOf 0x5000000000208 256 0
     ¬ (c.widx - c.ridx).toNat < 2 ^ c.log2n ∧ c.lossless = false) ∧
    (sinkOf 0x5000000000608 256 0).lossless = true ∧ (sinkOf 0x5000000000608 256 0).en = true ∧
    (sinkOf 0x5000000000008 0 0).en = false ∧
    (let v : Word := 0x5000000000208
     v.extractLsb' 11 37 = 0 ∧ v.extractLsb' 5 4 = 0 ∧ 8 ≤ (v.extractLsb' 0 5).toNat ∧ (v.extractLsb' 0 5).toNat ≤ 24 ∧
      v.extractLsb' 48 16 = c.part ∧ v.getLsbD 10 = c.lossless ∧ (v.extractLsb' 0 5).toNat = c.log2n) ∧
    (let v : Word := 0x5000000000218
     v.extractLsb' 11 37 = 0 ∧ v.extractLsb' 5 4 = 0 ∧ (v.extractLsb' 0 5).toNat = 24 ∧ (v.extractLsb' 0 5).toNat ≠ c.log2n) ∧
    ((0x219 : Word).getLsbD 9 = true ∧ ¬ ((0x219 : Word).extractLsb' 0 5).toNat ≤ 24) ∧
    ((0x3FFFFFFFFF000 : Word).extractLsb' 0 12 = 0 ∧ (0x3FFFFFFFFF000 : Word).extractLsb' 50 14 = 0 ∧
      (0x4000000000000 : Word).extractLsb' 50 14 ≠ 0) ∧
    c.part = ((sinkState c 0).w.eng 0).partid ∧ c.part ≠ ((sinkState c 0).w.eng 1).partid ∧
    ((255 : Word).toNat < 2 ^ 32 ∧ (c.widx - (255 : Word).extractLsb' 0 32).toNat ≤ 2 ^ c.log2n) ∧
    ¬ (c.widx - (256 : Word).extractLsb' 0 32).toNat ≤ 2 ^ c.log2n := by decide +kernel

theorem witness_WindowAccess :
    regionOf 0x20000000000 = .window 0 0 ∧ regionOf 0x20005FFFFF8 = .window 95 0xFFFF8 ∧ regionOf 0x20006000000 = .absent ∧
    regionOf 0x2000000D300 = .window 0 0xD300 ∧ regionOf 0x2000000F1F8 = .window 0 (0xF000 + 8 * 63) ∧
    regionOf 0x20000008038 = .window 0 (0x8000 + 8 * 7) ∧ regionOf 0x2000000D200 = .window 0 0xD200 ∧
    regionOf 0x20000000080 = .window 0 (8 * 0x010) ∧ regionOf 0x200000000B8 = .window 0 (8 * 0x017) ∧
    regionOf 0x20000000008 = .window 0 (8 * 0x001) ∧ regionOf 0x20000000084 = .window 0 0x84 ∧
    (0x84 % 8 ≠ 0) ∧ (0x1000 : Word).toNat % 4096 = 0 ∧ (1 : Word).toNat < 2 ∧ 2 ≤ (2 : Word).toNat ∧
    (0xFFFF : Word).extractLsb' 16 5 = 0 ∧ (0x10000 : Word).extractLsb' 16 5 ≠ 0 ∧
    srView true ((mleState 5).w.eng 0).locked 0x010 ≠ .absent ∧ ((mleState 5).w.eng 0).fenced = false ∧
    (((mleState 5).w.eng 0).partid = 5 ∧ ((mleState 5).w.eng 1).partid = 0) ∧
    (((engState { Eng.reset with partid := 5 }).w.eng 0).partid ≠ 0 ∧
      ((engState { Eng.reset with partid := 5 }).w.eng 2).partid ≠ ((engState { Eng.reset with partid := 5 }).w.eng 0).partid) ∧
    regionOf 0x1000 = .dram 0 ∧ regionOf 0x10000000000 = .pad 0 1 0 ∧ ((plainState.w.eng 0).cfg 1).bankMode = .ram ∧
    regionOf 0x5FFFFFFFFF = .dram 95 ∧ regionOf (0x5FFFFFFFFF + (2 - 1)) = .absent ∧
    (srView true ((mleState 5).w.eng 0).locked 0x001 = .r ∧ srView true ((mleState 5).w.eng 0).locked 0x024 = .rw ∧
      srView true ((mleState 5).w.eng 0).locked 0xA = .absent ∧ (mleState 5).srLegal 0 0x024 (2 ^ 63) = true ∧
      (mleState 5).srLegal 0 3 4 = false) ∧
    Memory.wf plainState.w.mem = true ∧
    ((cpOf (mleState 5).cps 1).prv = true ∧ (cpOf (userRegs []).cps 0).prv = false) := by decide +kernel

/-! Encodings and steps. -/

theorem witness_EncodingRoundTrip :
    (Instr.div 5 1 2 0).wellFormed = true ∧ encode (.div 5 1 2 0) = some 0x04A11005 ∧
    decodeWord 0x04A11005 = .ok (.div 5 1 2 0) := by decide +kernel

theorem witness_IllegalAluWords :
    let alu (w : BitVec 32) : Bool := w.extractLsb' 26 6 == 0x01
    (alu 0x04000021 = true ∧ (0x04000021 : BitVec 32).extractLsb' 0 10 = 0x021) ∧
    (alu 0x040003FF = true ∧ (0x040003FF : BitVec 32).extractLsb' 0 10 = 0x3FF) ∧
    (alu 0x04000420 = true ∧ (0x04000420 : BitVec 32).getLsbD 10 = true ∧ (0x04000420 : BitVec 32).extractLsb' 0 10 = 0x020) ∧
    (alu 0x0400F81B = true ∧ (0x0400F81B : BitVec 32).extractLsb' 11 5 = 31) ∧
    (alu 0x0400181E = true ∧ (0x0400181E : BitVec 32).extractLsb' 11 5 = 3) := by decide +kernel

theorem witness_IllegalAluWords_fetch :
    ((stateOf cpRun Eng.reset [(0, 0x21), (3, 0x04)]).fetch.toOption.map (fun p => p.1)) = some 0x04000021 := by decide +kernel

/-- A turn of core 0 with ADDI g3, g0, 5 in memory at its program counter. -/
def turnState (a : Act) : State :=
  { stateOf cpRun Eng.reset [(0, 5), (2, 0x60), (3, 0x08)] with schedule := [⟨3, 0, 0, a⟩] }

/-- The state in which that turn acts: three cycles have passed. -/
def turned : State := (turnState .cp).nextTurn.2

theorem witness_StepRunsDecoded :
    (turnState .cp).nextTurn.1 = .cp ∧ (turnState .cp).schedule = [⟨3, 0, 0, .cp⟩] ∧
    turned.cp.mode = .running ∧ turned.asyncDue = none ∧
    (turned.translate .fetch turned.cp.pc).1 = .ok (there 0) ∧ turned.w.eccCe = [] ∧
    decodeBytes [turned.sees 0, turned.sees 1, turned.sees 2, turned.sees 3] = .ok (.addi 3 0 5, []) ∧
    turned.w.heldUnit 0 uCP = false ∧ turned.eventHeld .ppsInput = false ∧
    turned.w.stall = none ∧ turned.w.miss = none ∧ (turned.w.eng turned.cur).epActive = [] := by decide +kernel

theorem plain_turn : PlainAt turned (there 0) := ⟨rfl, by decide +kernel, .inl ⟨0, by decide +kernel⟩⟩
theorem clean_turn : CleanAt turned 0 4 := ⟨by decide +kernel, by decide +kernel⟩

/-- An empty schedule: with and without a command that can be performed. -/
theorem witness_StepRunsDecoded_alone :
    (regs []).schedule = [] ∧ ((regs []).pass 1 0).performFirst.isNone = true ∧
    (((engState { Eng.reset with commands := [cmd (.hpool 1 2) 64] }).pass 1 0).performFirst.isSome = true) ∧
    ((regs []).pass 1 0).eng.walks.any Walk.live = false ∧ (walkState twoWalks).schedule = [] ∧
    ((walkState twoWalks).pass 1 0).performFirst.isNone = true ∧ ((walkState twoWalks).pass 1 0).eng.walks.any Walk.live = true ∧
    Instr.ppsInput.isWord = false := by decide +kernel

/-- The state a step leads to. -/
def stepped (s : State) : State :=
  match step s with
  | .next t => t
  | _ => State.reset

/-- R129, R153: the step runs the word in memory, and its turn's cycles pass. -/
theorem test_step : (stepped (turnState .cp)).reg 3 = 5 ∧ (stepped (turnState .cp)).cp.pc = 4 ∧
    (stepped (turnState .cp)).w.cycle = 3 := by decide +kernel

theorem test_step_event : (stepped (turnState (.event .ppsInput))).w.ppsIn = 27 := by decide +kernel

/-- Does a step lead to a state? -/
def leadsOn (s : State) : Bool :=
  match step s with
  | .next _ => true
  | _ => false

theorem leadsOn_spec {s : State} (h : leadsOn s = true) : ∃ t, step s = .next t := by
  unfold leadsOn at h
  split at h
  · exact ⟨_, by assumption⟩
  · cases h

theorem witness_StepKeepsMemory : Memory.wf State.reset.w.mem = true ∧ ∃ t, step State.reset = .next t :=
  ⟨rfl, leadsOn_spec (by decide +kernel)⟩

theorem witness_StepKeepsRegisters : State.reset.Sound ∧ ∃ t, step State.reset = .next t := by
  refine ⟨fun c => ?_, leadsOn_spec (by decide +kernel)⟩
  show (Cp.reset c).Sound
  unfold Cp.reset
  constructor <;> dsimp only <;> try split
  all_goals decide

/-- R173: a stage whose operands are there fires in the cycle, whatever the schedule. A core at rest lets cycles go by. -/
theorem test_cycle_fires : (((stageState 0x1012).pass 1 0).eng.elem 0).stages[0].lastFire = some 0 ∧
    ((regs []).pass 5 0).w.cycle = 5 ∧ ((regs []).pass 5 0).w.engs = (regs []).w.engs := by decide +kernel
end Sys2Proof.Tests
end

section
/-! SUPPORT. The registers of the control processors stay sound under every operation on the state (R14, R84, R103, R130,
R137, R138, R352, R353). -/

namespace Sys2Proof.Machine

/-! Low bits of an address. -/

/-- The low bits of a sum are zero when those of both terms are. -/
theorem extractLsb'_add_zero {n k : Nat} {x y : BitVec n} (hk : k ≤ n) (hx : x.extractLsb' 0 k = 0)
    (hy : y.extractLsb' 0 k = 0) : (x + y).extractLsb' 0 k = 0 := by
  simp [BitVec.extractLsb'_add hk, hx, hy]

/-- A product with a factor whose low bits are zero has zero low bits. -/
theorem extractLsb'_mul_zero {n k : Nat} {x y : BitVec n} (hk : k ≤ n) (hx : x.extractLsb' 0 k = 0) :
    (x * y).extractLsb' 0 k = 0 := by
  simp [BitVec.extractLsb'_mul hk, hx]

/-- Fewer low bits are zero too. -/
theorem extractLsb'_zero_le {n j k : Nat} {x : BitVec n} (hj : j ≤ k) (hx : x.extractLsb' 0 k = 0) :
    x.extractLsb' 0 j = 0 := by
  rw [← BitVec.setWidth_extractLsb'_of_le hj, hx]
  exact BitVec.setWidth_zero ..

/-- A number that 4 divides has zero low bits as a word. -/
theorem ofNat_extractLsb'_four {n : Nat} (h : n % 4 = 0) : (BitVec.ofNat 64 n).extractLsb' 0 2 = 0 := by
  apply BitVec.eq_of_toNat_eq
  simp
  omega

/-! One control processor. -/

/-- The registers that `Cp.Sound` speaks of. -/
def Cp.checked (c : Cp) : Word × Word × Word × Word × Word × Word × Word × Word :=
  (c.pc, c.tepc, c.tvb, c.mstat, c.tcause, c.nbv, c.curdctl, c.ptroot)

theorem Cp.Sound.of_checked {c d : Cp} (h : c.Sound) (e : d.checked = c.checked) : d.Sound := by
  simp only [Cp.checked, Prod.mk.injEq] at e
  obtain ⟨hpc, htepc, htvb, hmstat, htcause, hnbv, hcurdctl, hptroot⟩ := e
  constructor
  · exact hpc ▸ h.pc
  · exact htepc ▸ h.tepc
  · exact htvb ▸ h.tvb
  · exact hmstat ▸ h.mstat
  · exact htcause ▸ h.tcause
  · exact hnbv ▸ h.nbv
  · exact hcurdctl ▸ h.curdctl
  · exact hptroot ▸ h.rootLow
  · exact hptroot ▸ h.rootHigh

theorem Cp.Sound.withPc {c : Cp} (h : c.Sound) {p : Word} (hp : p.extractLsb' 0 2 = 0) :
    ({ c with pc := p } : Cp).Sound :=
  ⟨hp, h.tepc, h.tvb, h.mstat, h.tcause, h.nbv, h.curdctl, h.rootLow, h.rootHigh⟩

/-- The address of the next word is a multiple of 4. -/
theorem Cp.Sound.next {c : Cp} (h : c.Sound) : (c.pc + 4).extractLsb' 0 2 = 0 :=
  extractLsb'_add_zero (by decide) h.pc (by decide)

theorem Cp.reset_sound (c : Nat) : (Cp.reset c).Sound := by
  unfold Cp.reset
  constructor <;> simp only <;> decide

theorem Cp.resetAt_sound (c now : Nat) : (Cp.resetAt c now).Sound := (Cp.reset_sound c).of_checked rfl

theorem Cp.Sound.setReg {c : Cp} (h : c.Sound) (r : Reg) (v : Word) : (c.setReg r v).Sound :=
  h.of_checked (by simp [Cp.checked])

theorem Cp.Sound.goto {c : Cp} (h : c.Sound) {p : Word} (hp : p.extractLsb' 0 2 = 0) : (c.goto p).Sound :=
  (h.withPc hp).of_checked rfl

theorem Cp.Sound.advance {c : Cp} (h : c.Sound) : c.advance.Sound := h.goto h.next

/-- Trap entry: the entry of a cause lies 64 bytes times its code behind the vector base (R353). -/
theorem Cp.Sound.enterTrap {c : Cp} (h : c.Sound) (k : BitVec 8) (y : Bool) {epc : Word} (i : TInfo)
    (he : epc.extractLsb' 0 2 = 0) : (c.enterTrap k y epc i).Sound where
  pc := extractLsb'_add_zero (by decide) (extractLsb'_zero_le (by decide) h.tvb) (extractLsb'_mul_zero (by decide) (by decide))
  tepc := he
  tvb := h.tvb
  mstat := (mstatOf_bits ..).2.2.2.2.2
  tcause := tcauseOf_rest y k
  nbv := h.nbv
  curdctl := h.curdctl
  rootLow := h.rootLow
  rootHigh := h.rootHigh

theorem Cp.Sound.leaveTrap {c : Cp} (h : c.Sound) : c.leaveTrap.Sound :=
  ⟨h.tepc, h.tepc, h.tvb, (mstatOf_bits ..).2.2.2.2.2, h.tcause, h.nbv, h.curdctl, h.rootLow, h.rootHigh⟩

/-- A work unit begins at the entry of its block, with the NBV of two bits that the block gives (R244). -/
theorem Cp.Sound.startUnit {c : Cp} (h : c.Sound) {x : Job} (u : Nat) (he : (Block.entry x.block).extractLsb' 0 2 = 0) :
    (c.startUnit x u).Sound where
  pc := he
  tepc := h.tepc
  tvb := h.tvb
  mstat := by show (2 : Word).extractLsb' 5 59 = 0; decide
  tcause := h.tcause
  nbv := by
    have hlt : Block.nbv x.block < 4 := Nat.mod_lt _ (by decide)
    show (BitVec.ofNat 64 (Block.nbv x.block)).extractLsb' 2 62 = 0
    apply BitVec.eq_of_toNat_eq
    simp [Nat.shiftRight_eq_div_pow]
    omega
  curdctl := h.curdctl
  rootLow := h.rootLow
  rootHigh := h.rootHigh

/-! The control processors of the package. -/

/-- The registers of every core of a table are sound. -/
def CpsSound (cps : Tbl Cp) : Prop := ∀ c, (cpOf cps c).Sound

theorem CpsSound.put {cps : Tbl Cp} (h : CpsSound cps) (k : Nat) {p : Cp} (hp : p.Sound) : CpsSound (Tbl.put cps k p) := by
  intro c
  by_cases hc : c = k
  · rw [hc, cpOf_put_same]
    exact hp
  · rw [cpOf_put_ne cps p hc]
    exact h c

theorem State.Sound.of_cps {s t : State} (h : s.Sound) (e : t.cps = s.cps) : t.Sound := by
  unfold State.Sound
  rw [e]
  exact h

theorem State.Sound.cp {s : State} (h : s.Sound) : s.cp.Sound := h s.cur

theorem State.Sound.withWorld {s : State} (h : s.Sound) (w : World) : (s.withWorld w).Sound := h

theorem State.Sound.withEng {s : State} (h : s.Sound) (g : Eng) : (s.withEng g).Sound := h

theorem State.Sound.withCp {s : State} (h : s.Sound) {p : Cp} (hp : p.Sound) : (s.withCp p).Sound := CpsSound.put h s.cur hp

/-- An update of registers that no reserved bit belongs to. -/
theorem State.Sound.withCp_of_checked {s : State} (h : s.Sound) {p : Cp} (e : p.checked = s.cp.checked) :
    (s.withCp p).Sound := h.withCp (h.cp.of_checked e)

theorem State.Sound.done {s : State} (h : s.Sound) : s.done.Sound := h.withCp h.cp.advance

theorem State.Sound.finish {s : State} (h : s.Sound) (d : Reg) (v : Word) : (s.finish d v).Sound :=
  h.withCp (h.cp.setReg d v).advance

theorem State.Sound.trapAt {s : State} (h : s.Sound) (t : Trap) {epc : Word} (he : epc.extractLsb' 0 2 = 0) :
    (s.trapAt t epc).Sound := h.withCp (h.cp.enterTrap _ _ _ he)

theorem State.Sound.trap {s : State} (h : s.Sound) (t : Trap) : (s.trap t).Sound := h.trapAt t h.cp.pc

/-- A fold of operations that keep the registers sound keeps them sound. -/
theorem State.Sound.foldl {α : Type} {f : State → α → State} (hf : ∀ s x, s.Sound → (f s x).Sound) (xs : List α)
    {s : State} (h : s.Sound) : (xs.foldl f s).Sound := by
  induction xs generalizing s with
  | nil => exact h
  | cons x xs ih => exact ih (hf s x h)
end Sys2Proof.Machine
end

section
namespace Sys2Proof.Machine

/-! Waiting, the start of a work unit, what the trace fabric holds up. -/

theorem State.Sound.awaitWalk {s : State} (h : s.Sound) (w : World) : (s.awaitWalk w).Sound :=
  (h.withWorld w).withCp_of_checked rfl

/-- A unit that is due has an entry that is a multiple of 4 (R242). -/
theorem State.unitDue_entry {s : State} {c u : Nat} {x : Job} (hd : s.unitDue c = some (x, u)) :
    (Block.entry x.block).extractLsb' 0 2 = 0 := by
  unfold State.unitDue at hd
  dsimp only at hd
  split at hd
  · cases hd
  · split at hd
    · cases hd
    · split at hd
      · cases hd
      · next hn =>
        cases hd
        simp only [Bool.or_eq_true, not_or] at hn
        simpa using hn.2

theorem State.Sound.beginUnit {s : State} (h : s.Sound) (c : Nat) : (s.beginUnit c).Sound := by
  unfold State.beginUnit
  split
  · exact h
  · next hd => exact CpsSound.put h c ((h c).startUnit _ (State.unitDue_entry hd))

theorem State.Sound.workUnitStart {s : State} (h : s.Sound) : s.workUnitStart.Sound := by
  unfold State.workUnitStart
  split
  · exact h
  · dsimp only
    split
    · exact h.beginUnit _
    · exact State.Sound.foldl (fun _ c ht => ht.beginUnit c) _ (h.withWorld _)

theorem CpsSound.stalled {cps : Tbl Cp} (h : CpsSound cps) (cores : List Nat) (n : Nat) :
    CpsSound (cores.foldl (fun t c => Tbl.put t c ((cpOf t c).stalled n)) cps) := by
  induction cores generalizing cps with
  | nil => exact h
  | cons c cs ih => exact ih (h.put c ((h c).of_checked rfl))

theorem State.Sound.holdAll {s : State} (h : s.Sound) : s.holdAll.Sound := CpsSound.stalled h _ 1

/-! The special registers: a legal value keeps every reserved bit at zero. -/

/-- What a legal value of the registers with reserved bits looks like (R14, R84, R103, R137, R138, R352). -/
theorem State.srLegal_reserved {s : State} {c n : Nat} {v : Word} (hv : s.srLegal c n v = true) :
    (n = 0x002 → v.extractLsb' 5 59 = 0) ∧ (n = 0x003 → v.extractLsb' 2 62 = 0) ∧ (n = 0x004 → v.extractLsb' 1 63 = 0) ∧
      (n = 0x010 → v.extractLsb' 0 12 = 0) ∧ (n = 0x011 → v.extractLsb' 8 55 = 0) ∧
      (n = 0x012 → v.extractLsb' 0 2 = 0) ∧ (n = 0x021 → v.extractLsb' 0 13 = 0 ∧ v.extractLsb' 50 14 = 0) := by
  refine ⟨?_, ?_, ?_, ?_, ?_, ?_, ?_⟩ <;> rintro rfl
  · exact eq_of_beq hv
  · exact eq_of_beq (Bool.and_eq_true_iff.1 hv).1
  · exact eq_of_beq hv
  · exact eq_of_beq hv
  · exact eq_of_beq hv
  · exact eq_of_beq hv
  · exact (Bool.and_eq_true_iff.1 hv).imp eq_of_beq eq_of_beq

theorem State.Sound.ite {P : Prop} [Decidable P] {a b : State} (ha : P → a.Sound) (hb : ¬ P → b.Sound) :
    (if P then a else b).Sound := by
  split
  · exact ha ‹_›
  · exact hb ‹_›

theorem State.Sound.srWrite {s : State} (h : s.Sound) {c n : Nat} {v : Word} (hv : s.srLegal c n v = true) :
    (s.srWrite c n v).Sound := by
  obtain ⟨hmstat, hnbv, hcurdctl, htvb, htcause, htepc, hroot⟩ := State.srLegal_reserved hv
  have hc : (cpOf s.cps c).Sound := h c
  have put : ∀ q : Cp, q.Sound → State.Sound { s with cps := Tbl.put s.cps c q } := fun q hq => CpsSound.put h c hq
  have kept : ∀ q : Cp, q.checked = (cpOf s.cps c).checked → State.Sound { s with cps := Tbl.put s.cps c q } :=
    fun q e => put q (hc.of_checked e)
  refine .ite (fun _ => h) fun _ => .ite (fun hn => put _ { hc with mstat := hmstat hn }) fun _ =>
    .ite (fun hn => put _ { hc with nbv := hnbv hn }) fun _ => .ite (fun hn => put _ { hc with curdctl := hcurdctl hn }) fun _ =>
    .ite (fun _ => kept _ rfl) fun _ => .ite (fun _ => kept _ rfl) fun _ => .ite (fun _ => h) fun _ =>
    .ite (fun hn => put _ { hc with tvb := htvb hn }) fun _ => .ite (fun hn => put _ { hc with tcause := htcause hn }) fun _ =>
    .ite (fun hn => put _ { hc with tepc := htepc hn }) fun _ => .ite (fun _ => kept _ rfl) fun _ =>
    .ite (fun _ => kept _ rfl) fun _ => .ite (fun _ => kept _ rfl) fun _ => .ite (fun _ => kept _ rfl) fun _ =>
    .ite (fun _ => kept _ rfl) fun _ => .ite (fun _ => kept _ rfl) fun _ =>
    .ite (fun hn => put _ { hc with rootLow := (hroot hn).1, rootHigh := (hroot hn).2 }) fun _ =>
    .ite (fun _ => h) fun _ => .ite (fun _ => h) fun _ => .ite (fun _ => kept _ rfl) fun _ => .ite (fun _ => h) fun _ => h

theorem State.Sound.srwBefore {s : State} (h : s.Sound) (n : Nat) : (s.srwBefore n).Sound := by
  unfold State.srwBefore
  split
  · exact h.withCp (h.cp.advance.of_checked rfl)
  · exact h.done

theorem State.Sound.srWindow {s : State} (h : s.Sound) (c n : Nat) (v : Word) : (s.srWindow c n v).2.Sound := by
  unfold State.srWindow
  split
  · exact h
  · exact h
  · split
    · next hv =>
      have hs := h.srWrite hv
      exact CpsSound.put hs c ((hs c).of_checked rfl)
    · exact h

/-! Jumps. -/

theorem targetOf_aligned {n : Nat} {pc : Word} (h : pc.extractLsb' 0 2 = 0) (disp : BitVec n) :
    (targetOf pc disp).extractLsb' 0 2 = 0 :=
  extractLsb'_add_zero (by decide) h (extractLsb'_mul_zero (by decide) (by decide))

theorem State.Sound.jumpTo {s : State} (h : s.Sound) (link : Bool) {t : Word} (ht : t.extractLsb' 0 2 = 0) :
    (s.jumpTo link t).Sound := by
  cases link
  · exact h.withCp (h.cp.goto ht)
  · exact h.withCp ((h.cp.setReg 31 (s.cp.pc + 4)).goto ht)

theorem State.Sound.branchIf {s : State} (h : s.Sound) (c : Bool) (i : BitVec 12) : (s.branchIf c i).Sound := by
  apply h.jumpTo
  cases c
  · exact h.cp.next
  · exact targetOf_aligned h.cp.pc i

theorem State.Sound.jumpReg {s : State} (h : s.Sound) (link : Bool) (t : Word) : (s.jumpReg link t).Sound := by
  unfold State.jumpReg
  split
  · exact h.trap _
  · next ht => exact h.jumpTo link (by simpa using ht)

/-! Hosts: boot, host commands, reset. -/

/-- An image that the boot ROM accepts has an entry that is a multiple of 4 (R447). -/
theorem bootStatus_entry {h body : List Byte} (hs : bootStatus h body = 0) : hdrNum h 24 % 4 = 0 := by
  unfold bootStatus at hs
  dsimp only at hs
  split at hs
  · cases hs
  · next hh =>
    simp only [Bool.not_eq_true', Bool.not_eq_false, Bool.and_eq_true, beq_iff_eq] at hh
    exact hh.1.2

theorem State.Sound.bootWrite {s : State} (h : s.Sound) (v : Word) : (s.bootWrite v).2.Sound := by
  unfold State.bootWrite
  split
  · exact h
  split
  · exact h
  split
  · exact h
  extract_lets hd n st s1
  split
  · next hs =>
    have he : hdrNum hd 24 % 4 = 0 := bootStatus_entry hs
    exact CpsSound.put h 0 (((h 0).withPc (ofNat_extractLsb'_four he)).of_checked rfl)
  · exact h

theorem State.Sound.fence {s : State} (h : s.Sound) (c : Nat) : (s.fence c).Sound := CpsSound.put h c ((h c).of_checked rfl)

theorem State.Sound.unfence {s : State} (h : s.Sound) (c : Nat) : (s.unfence c).Sound :=
  CpsSound.put h c (Cp.resetAt_sound c _)

theorem State.Sound.restart {s : State} (h : s.Sound) (c : Nat) {entry : Word} (he : entry.extractLsb' 0 2 = 0) :
    (s.restart c entry).Sound := CpsSound.put h c (((Cp.resetAt_sound c _).withPc he).of_checked rfl)

theorem State.Sound.answer {s : State} (h : s.Sound) (st : Nat) : (s.answer st).Sound := h

theorem State.Sound.hostPress {s : State} (h : s.Sound) (c : Nat) (arg : Word) : (s.hostPress c arg).Sound := by
  unfold State.hostPress
  dsimp only
  split_ifs
  · exact h
  · exact h
  · exact h

theorem State.Sound.hostRestart {s : State} (h : s.Sound) (c : Nat) (arg : Word) : (s.hostRestart c arg).Sound := by
  unfold State.hostRestart
  dsimp only
  split
  · exact h
  · next he => exact (h.restart c (by simpa using he)).answer _

theorem State.Sound.hostCommand {s : State} (h : s.Sound) {f : State → State} (hf : ∀ t : State, t.Sound → (f t).Sound) :
    (s.hostCommand f).Sound := by
  unfold State.hostCommand
  split
  · exact h
  · exact hf _ h

theorem State.Sound.hcmd {s : State} (h : s.Sound) (v : Word) : (s.hcmd v).Sound := by
  unfold State.hcmd
  dsimp only
  split_ifs
  · exact h
  · exact h
  · exact h.hostPress _ _
  · exact h.hostRestart _ _
  · exact (h.fence _).answer _
  · exact (h.unfence _).answer _

theorem State.resetAll_sound (s : State) : s.resetAll.Sound := Cp.reset_sound

theorem State.Sound.diePath {s : State} (h : s.Sound) (die : Nat) : (s.diePath die).Sound := by
  unfold State.diePath
  split
  · exact h
  · exact State.Sound.foldl (fun _ _ ht => ht.fence _) _ h

theorem State.Sound.eccUeReport {s : State} (h : s.Sound) : s.eccUeReport.Sound := by
  unfold State.eccUeReport
  dsimp only
  split
  · split
    · exact h
    · exact h
  · exact h

/-! The register window. -/

theorem State.Sound.winWrite {s : State} (h : s.Sound) (c : Nat) (r : WinReg) (v : Word) : (s.winWrite c r v).2.Sound := by
  cases r with
  | sr n => exact h.srWindow c n v
  | hcmd => exact h.hostCommand fun t ht => ht.hcmd v
  | boot => exact h.bootWrite v
  | mcpol | plock | reach =>
    dsimp only [State.winWrite]
    split
    · exact h
    · exact h
  | vatWord | mle | jqd | stream | posted | node | copy | hmsg | hrbase | hrcfg | hrwidx | hrridx | hrsp | pwr | lstat
  | accFlags | gstat | sink => exact h

theorem State.Sound.windowWrite {s : State} (h : s.Sound) (a : Agent) (c off : Nat) (v : Word) :
    (s.windowWrite a c off v).2.Sound := by
  unfold State.windowWrite
  split
  · exact h
  · split
    · exact h.winWrite c _ v
    · exact h

theorem State.Sound.windowEvent {s : State} (h : s.Sound) (a : Agent) (c off : Nat) (v : Word) :
    (s.windowEvent a c off v).Sound := h.windowWrite a c off v

end Sys2Proof.Machine
end

section
namespace Sys2Proof.Machine

/-! Registers of a control processor that have no reserved bits. -/

theorem State.Sound.setMode {s : State} (h : s.Sound) (m : CpMode) : (s.withCp { s.cp with mode := m }).Sound :=
  h.withCp_of_checked rfl

theorem State.Sound.setLocked {s : State} (h : s.Sound) (b : Bool) : (s.withCp { s.cp with locked := b }).Sound :=
  h.withCp_of_checked rfl

theorem State.Sound.setWaitFrom {s : State} (h : s.Sound) (v : Option Nat) :
    (s.withCp { s.cp with waitFrom := v }).Sound := h.withCp_of_checked rfl

theorem State.Sound.setFetched {s : State} (h : s.Sound) (a : Word) : (s.withCp { s.cp with fetched := a }).Sound :=
  h.withCp_of_checked rfl

/-! Accesses of the control processor. -/

theorem State.Sound.memTrap {s : State} (h : s.Sound) (t : Trap) : (s.memTrap t).Sound := by
  unfold State.memTrap
  exact .ite (fun _ => (h.trap t).withWorld _) fun _ => h.trap t

theorem State.Sound.memStop {s : State} (h : s.Sound) (e : MemStop) : (s.memStop e).Sound := by
  cases e with
  | trap t => exact h.memTrap t
  | walk w => exact h.awaitWalk w

/-- A read changes no register of a control processor. -/
theorem State.plainRead_cps {s s1 : State} {a n v : Nat} (hr : s.plainRead a n = .ok (v, s1)) : s1.cps = s.cps := by
  unfold State.plainRead at hr
  split at hr
  · cases hr
  · cases hr
  · cases hr
    rfl

theorem State.physRead_cps {s s1 : State} {va : Word} {pa : PhysAddr} {n v : Nat} {b : Bool}
    (hr : s.physRead va pa n b = .ok (v, s1)) : s1.cps = s.cps := by
  unfold State.physRead at hr
  split at hr
  · split at hr <;> cases hr
    rfl
  · split at hr
    · split at hr
      · exact State.plainRead_cps hr
      · cases hr
    · split at hr
      · exact State.plainRead_cps hr
      · cases hr
    · split at hr
      · split at hr <;> cases hr
        rfl
      · cases hr
    · cases hr
    · cases hr

/-- What an access behind its translation answers. -/
theorem Except.mapError_ok {ε ε' α : Type} {f : ε → ε'} {x : Except ε α} {a : α} (h : x.mapError f = .ok a) : x = .ok a := by
  cases x with
  | error e => cases h
  | ok b => cases h; rfl

theorem State.load_cps {s s1 : State} {va : Word} {n v : Nat} (hl : s.load va n = .ok (v, s1)) : s1.cps = s.cps := by
  unfold State.load at hl
  split at hl
  · cases hl
  · have hr := State.physRead_cps (Except.mapError_ok hl)
    exact hr

theorem State.loadWords_cps {s s1 : State} {as vs : List Word} (hl : s.loadWords as = .ok (vs, s1)) : s1.cps = s.cps := by
  induction as generalizing s vs with
  | nil =>
    cases hl
    rfl
  | cons a as ih =>
    unfold State.loadWords at hl
    split at hl
    · cases hl
    · next h1 =>
      split at hl
      · cases hl
      · next h2 =>
        cases hl
        rw [ih h2, State.load_cps h1]

/-- A write changes registers of a control processor only through the register window. -/
theorem State.Sound.physWrite {s s1 : State} (h : s.Sound) {va : Word} {pa : PhysAddr} {n : Nat} {v : BitVec 512} {b : Bool}
    (hw : s.physWrite va pa n v b = .ok s1) : s1.Sound := by
  unfold State.physWrite at hw
  extract_lets put at hw
  split at hw
  · split at hw <;> cases hw
    exact h.withWorld _
  · split at hw
    · split at hw <;> cases hw
      exact h.withWorld _
    · split at hw <;> cases hw
      exact h.withWorld _
    · split at hw
      · next k off _ _ =>
        have hs := State.Sound.windowWrite (s := s.withWorld (s.w.drainAll s.cur)) h s.agent k off (v.setWidth 64)
        dsimp only at hw
        split at hw
        · cases hw
          exact hs
        · cases hw
      · cases hw
    · cases hw
    · cases hw

theorem State.Sound.store {s s1 : State} (h : s.Sound) {va : Word} {n : Nat} {v : BitVec 512} {b : Bool}
    (hs : s.store va n v b = .ok s1) : s1.Sound := by
  unfold State.store at hs
  split at hs
  · cases hs
  · exact (h.withWorld _).physWrite (Except.mapError_ok hs)

/-- Stores one behind the other. -/
theorem State.Sound.foldlM {α : Type} {f : State → α → Except Trap State}
    (hf : ∀ s x t, s.Sound → f s x = .ok t → t.Sound) {xs : List α} {s s1 : State} (h : s.Sound)
    (hs : xs.foldlM f s = .ok s1) : s1.Sound := by
  induction xs generalizing s with
  | nil =>
    cases hs
    exact h
  | cons x xs ih =>
    rw [List.foldlM_cons] at hs
    cases hx : f s x with
    | error e =>
      rw [hx] at hs
      cases hs
    | ok t =>
      rw [hx] at hs
      exact ih (hf s x t h hx) hs

theorem State.Sound.storeWords {s s1 : State} (h : s.Sound) {va : Word} {vs : List (BitVec 32)}
    (hs : s.storeWords va vs = .ok s1) : s1.Sound := by
  unfold State.storeWords at hs
  split at hs
  · cases hs
  · exact State.Sound.foldlM (fun _ _ _ ht hx => ht.physWrite hx) (h.withWorld _) (Except.mapError_ok hs)

theorem State.Sound.readWrite {s s1 : State} (h : s.Sound) {va : Word} {n v : Nat} {f : Nat → Option Nat}
    (hr : s.readWrite va n f = .ok (v, s1)) : s1.Sound := by
  unfold State.readWrite at hr
  split at hr
  · cases hr
  · split at hr
    · cases hr
    · next h1 =>
      have hs := (h.withWorld _).of_cps (State.physRead_cps h1)
      split at hr
      · cases hr
        exact hs
      · split at hr
        · cases hr
        · next h2 =>
          cases hr
          exact hs.physWrite h2

theorem State.Sound.loadTo {s : State} (h : s.Sound) (d : Reg) (va : Word) (n : Nat) (ext : Nat → Word) :
    (s.loadTo d va n ext).Sound := by
  unfold State.loadTo
  refine .ite (fun _ => h.trap _) fun _ => ?_
  split
  · exact h.memStop _
  · next hl => exact (h.of_cps (State.load_cps hl)).finish _ _

theorem State.Sound.amo {s : State} (h : s.Sound) (d b a : Reg) (w : BitVec 2) (f : Nat → Nat → Nat → Nat) :
    (s.amo d b a w f).Sound := by
  unfold State.amo
  refine .ite (fun _ => h.trap _) fun _ => ?_
  split
  · exact h.memStop _
  · next hr => exact (h.readWrite hr).finish _ _

theorem State.Sound.finishPair {s : State} (h : s.Sound) (d : Reg) (v : Nat) : (s.finishPair d v).Sound :=
  h.withCp (((h.cp.setReg _ _).setReg _ _).advance)

/-! Commands. -/

theorem State.Sound.awaited {s : State} (h : s.Sound) {f : State → State} (hf : ∀ t : State, t.Sound → (f t).Sound) :
    (s.awaited f).Sound := .ite (fun _ => hf _ (h.withWorld _)) fun _ => h

theorem State.Sound.issue {s : State} (h : s.Sound) (i : Instr) (x y : Word) : (s.issue i x y).Sound :=
  .ite (fun _ => State.Sound.done (s := s.accept _) h) fun _ => h

theorem State.Sound.issueAligned {s : State} (h : s.Sound) (i : Instr) (x y : Word) : (s.issueAligned i x y).Sound :=
  .ite (fun _ => h.trap _) fun _ => h.issue i x y

theorem State.Sound.issueHash {s : State} (h : s.Sound) (i : Instr) (x y : Word) (bad : Option Word) :
    (s.issueHash i x y bad).Sound := by
  cases bad with
  | none => exact h.issue i x y
  | some v => exact h.trap _

theorem State.Sound.tlbi {s : State} (h : s.Sound) (i : Instr) (k : TlbiKind) : (s.tlbi i k).Sound := by
  unfold State.tlbi
  exact .ite (fun _ => h.trap _) fun _ => State.Sound.done (h.withWorld _)

theorem State.Sound.tmark {s : State} (h : s.Sound) (x : Word) (m : Nat) (sent : Bool) : (s.tmark x m sent).Sound :=
  .ite (fun _ => h) fun _ =>
    .ite (fun _ => ((h.withWorld _).setLocked false).done) fun _ => .ite (fun _ => h) fun _ => h.withWorld _

theorem State.Sound.curdRead {s : State} (h : s.Sound) (c : CurdReg) (d : Reg) (k e : Nat) (all : Bool) :
    (s.curdRead c d k e all).Sound :=
  .ite (fun _ => h) fun _ => .ite (fun _ => (h.withEng _).trap _) fun _ => (h.withEng _).finish _ _

/-! Asynchronous causes and the watchdog. -/

theorem State.Sound.takeAsync {s : State} (h : s.Sound) : s.takeAsync.Sound := by
  unfold State.takeAsync
  split
  · exact h
  · next p _ =>
    have hg : (s.guardsSeen p).Sound := .ite (fun _ => h.withWorld _) fun _ => h
    extract_lets s0 g s1 s2
    have h1 : s1.Sound := .ite (fun _ => hg.withEng _) fun _ => hg.withWorld _
    exact (h1.withCp (h1.cp.enterTrap _ _ _ h1.cp.pc)).withWorld _

theorem State.Sound.wdogExpire {s : State} (h : s.Sound) : s.wdogExpire.Sound :=
  .ite (fun _ => (h.setMode .stopped).withWorld _) fun _ => h

end Sys2Proof.Machine
end

section
namespace Sys2Proof.Machine

/-! The instructions. -/

/-- Every state that an outcome leads to has sound registers. -/
def SoundOutcome (o : Host.Outcome State Fault Refusal) : Prop := ∀ t, o = .next t → t.Sound

theorem SoundOutcome.next {t : State} (h : t.Sound) : SoundOutcome (.next t) := by
  intro u hu
  cases hu
  exact h

section
variable {s : State} (h : s.Sound)
include h

/-! Privileged instructions. -/

theorem execEret_sound : SoundOutcome (execEret s) :=
  .next (.ite (fun _ => h.trap _) fun _ => (h.withCp h.cp.leaveTrap).withWorld _)

theorem execIdle_sound : SoundOutcome (execIdle s) :=
  .next (.ite (fun _ => h.trap _) fun _ => .ite (fun _ => (h.setMode .running).done) fun _ => h.setMode .idling)

theorem execTlbiAsid_sound (a : Reg) : SoundOutcome (execTlbiAsid a s) :=
  .next (.ite (fun _ => h.trap _) fun _ => h.tlbi _ _)

theorem execPressSave_sound (d a : Reg) : SoundOutcome (execPressSave d a s) := by
  refine .next (.ite (fun _ => h.trap _) fun _ => .ite (fun _ => h.trap _) fun _ => ?_)
  split
  · exact h.withWorld _
  · split
    · exact (h.withEng _).finish _ _
    · exact h

theorem execPressPart_sound (d a : Reg) : SoundOutcome (execPressPart d a s) :=
  .next (.ite (fun _ => h.trap _) fun _ => .ite (fun _ => h.trap _) fun _ =>
    .ite (fun _ => h) fun _ => .ite (fun _ => h.finish _ _) fun _ => (h.withWorld _).finish _ _)

theorem execPressRestore_sound (d a : Reg) : SoundOutcome (execPressRestore d a s) :=
  .next (.ite (fun _ => h.trap _) fun _ => .ite (fun _ => h.trap _) fun _ => (h.withWorld _).finish _ _)

theorem execSrr_sound (d : Reg) (r : BitVec 12) : SoundOutcome (execSrr d r s) := by
  unfold execSrr
  split
  · exact .next (h.trap _)
  · exact .next (h.finish _ _)
  · exact .next (h.finish _ _)

theorem execSrw_sound (a : Reg) (r : BitVec 12) : SoundOutcome (execSrw a r s) := by
  unfold execSrw
  split
  · exact .next (h.trap _)
  · exact .next (h.trap _)
  · exact .next (.ite (fun hv => .ite (fun _ => h.srwBefore _) fun _ => (h.srWrite hv).done) fun _ => h.trap _)

/-! Accesses to memory. -/

theorem execSt_sound (r a : Reg) (w o p : BitVec 2) (i : BitVec 10) : SoundOutcome (execSt r a w o p i s) := by
  refine .next (.ite (fun _ => h.trap _) fun _ => ?_)
  split
  · exact h.memStop _
  · next hs => exact (h.store hs).done

theorem execCasD_sound (d a b : Reg) (o p : BitVec 2) : SoundOutcome (execCasD d a b o p s) := by
  refine .next (.ite (fun _ => h.trap _) fun _ => ?_)
  split
  · exact h.memStop _
  · next hr => exact (h.readWrite hr).finish _ _

theorem execCasQ_sound (d a b : Reg) (o p : BitVec 2) : SoundOutcome (execCasQ d a b o p s) := by
  refine .next (.ite (fun _ => h.trap _) fun _ => ?_)
  split
  · exact h.memStop _
  · next hr => exact (h.readWrite hr).finishPair _ _

theorem execFence_sound (o p : BitVec 2) : SoundOutcome (execFence o p s) :=
  .next (.ite (fun _ => h.done) fun _ => (h.withWorld _).done)

theorem execSbar_sound (a : Reg) (p : BitVec 2) : SoundOutcome (execSbar a p s) :=
  .next (.ite (fun _ => h.trap _) fun _ => .ite (fun _ => h) fun _ => h.done)

theorem execWait_sound (d a b : Reg) (o p : BitVec 2) : SoundOutcome (execWait d a b o p s) := by
  refine .next (.ite (fun _ => h.trap _) fun _ => ?_)
  split
  · exact h.memStop _
  · next hl =>
    have h1 := h.of_cps (State.load_cps hl)
    exact .ite (fun _ => (h1.withEng _).finish _ _) fun _ => .ite (fun _ => h1.finish _ _) fun _ => h1

/-! Curd registers. -/

theorem execCdecl_sound (c : CurdReg) (a : Reg) : SoundOutcome (execCdecl c a s) := by
  refine .next (.ite (fun _ => h.trap _) fun _ => ?_)
  split
  · exact h.memStop _
  · next hl =>
    have h1 := h.of_cps (State.loadWords_cps hl)
    dsimp only
    split
    · exact h1.trap _
    · exact (h1.withEng _).done

theorem execCput_sound (c : CurdReg) (a : Reg) (x : BitVec 1) (e : BitVec 4) : SoundOutcome (execCput c a x e s) := by
  refine .next (.ite (fun _ => h.trap _) fun _ => .ite (fun _ => h.trap _) fun _ => ?_)
  split
  · exact h.trap _
  · refine .ite (fun _ => h.trap _) fun _ => ?_
    have h1 : (if x == 1 then s.withWorld (s.w.releaseAt s.cur 0) else s).Sound := .ite (fun _ => h.withWorld _) fun _ => h
    exact (h1.withEng _).done

theorem execCrd_sound (c : CurdReg) (d : Reg) (e : BitVec 4) (w : BitVec 1) : SoundOutcome (execCrd c d e w s) :=
  .next (.ite (fun _ => h.trap _) fun _ => .ite (fun _ => h.trap _) fun _ => h.curdRead _ _ _ _ _)

theorem execCrdp_sound (c : CurdReg) (d b : Reg) (w : BitVec 1) : SoundOutcome (execCrdp c d b w s) :=
  .next (.ite (fun _ => h.trap _) fun _ => h.curdRead _ _ _ _ _)

theorem execCrdm_sound (c : CurdReg) (a : Reg) (w : BitVec 1) (o p : BitVec 2) : SoundOutcome (execCrdm c a w o p s) := by
  refine .next (.ite (fun _ => h.trap _) fun _ => .ite (fun _ => h.trap _) fun _ => ?_)
  split
  · exact h.memStop _
  · refine .ite (fun _ => h) fun _ => .ite (fun _ => (h.withEng _).trap _) fun _ => ?_
    split
    · exact State.Sound.memStop (h.withEng _) _
    · next hs => exact (State.Sound.store (h.withEng _) hs).done

theorem execSettle_sound (c : CurdReg) : SoundOutcome (execSettle c s) :=
  .next (.ite (fun _ => h.trap _) fun _ => .ite (fun _ => h) fun _ =>
    .ite (fun _ => (h.withEng _).trap _) fun _ => (h.withEng _).done)

theorem execCclr_sound (c : CurdReg) : SoundOutcome (execCclr c s) :=
  .next (.ite (fun _ => h.trap _) fun _ => (h.withEng _).done)

/-! Commands, and the instructions that wait for a unit. -/

theorem execCfg_sound (a : Reg) (v : BitVec 3) : SoundOutcome (execCfg a v s) :=
  .next (.ite (fun _ => h.trap _) fun _ => h.issue _ _ _)

theorem execCfgw_sound (a : Reg) (v : BitVec 3) : SoundOutcome (execCfgw a v s) := by
  refine .next (.ite (fun _ => h.trap _) fun _ => ?_)
  split
  · exact .ite (fun _ => State.Sound.setWaitFrom (s := s.accept _) h _) fun _ => h
  · exact .ite (fun _ => (h.setWaitFrom none).done) fun _ => h

theorem execArm_sound (a : Reg) (v : BitVec 3) : SoundOutcome (execArm a v s) :=
  .next (.ite (fun _ => h.trap _) fun _ => h.issue _ _ _)

theorem execVwait_sound (v : BitVec 3) : SoundOutcome (execVwait v s) :=
  .next (h.awaited fun _ ht => .ite (fun _ => ht) fun _ => ht.done)

theorem execVstat_sound (d : Reg) (sel : BitVec 5) (v : BitVec 3) : SoundOutcome (execVstat d sel v s) :=
  .next (h.awaited fun _ ht => .ite (fun _ => ht) fun _ => ht.finish _ _)

theorem execRcsnap_sound (a b : Reg) : SoundOutcome (execRcsnap a b s) := by
  refine .next (.ite (fun _ => h.trap _) fun _ => .ite (fun _ => h.trap _) fun _ => ?_)
  split
  · exact h.memStop _
  · refine h.awaited fun t ht => .ite (fun _ => ht.setLocked true) fun _ => ?_
    dsimp only
    split
    · exact ht.memStop _
    · next hs =>
      have h1 := ht.storeWords hs
      exact (State.Sound.setLocked (.ite (fun _ => h1.withEng _) fun _ => h1) false).done

theorem execQarm_sound (a : Reg) (t : BitVec 5) (q : BitVec 3) : SoundOutcome (execQarm a t q s) := by
  refine .next (.ite (fun _ => h.trap _) fun _ => h.awaited fun t ht => .ite (fun _ => ht) fun _ => ?_)
  split
  · exact (ht.withWorld _).done
  · exact ht

theorem execQdis_sound (q : BitVec 3) : SoundOutcome (execQdis q s) :=
  .next (h.awaited fun _ ht => .ite (fun _ => ht) fun _ => (ht.withWorld _).done)

theorem execTrcv_sound (d a : Reg) (k : BitVec 5) : SoundOutcome (execTrcv d a k s) := by
  refine .next (.ite (fun _ => h.trap _) fun _ => h.awaited fun t ht =>
    .ite (fun _ => ht) fun _ => .ite (fun _ => ht.finish _ _) fun _ => ?_)
  split
  · exact .ite (fun _ => ht.finish _ _) fun _ => ht
  · split
    · exact ht.memStop _
    · next hs => exact (State.Sound.withEng (ht.store hs) _).finish _ _

theorem execTail_sound (d a : Reg) : SoundOutcome (execTail d a s) := by
  refine .next (.ite (fun _ => h.trap _) fun _ => .ite (fun _ => h.trap _) fun _ => h.awaited fun t ht => ?_)
  dsimp only
  split
  · next hl => exact State.Sound.finish (State.Sound.withWorld (ht.of_cps (State.load_cps hl)) _) _ _
  · exact ht.awaitWalk _
  · exact (ht.withWorld _).finish _ _

theorem execDone_sound : SoundOutcome (execDone s) :=
  .next (.ite (fun _ => h.trap _) fun _ => .ite (fun _ => h) fun _ => (h.withWorld _).withCp (h.cp.of_checked rfl))

theorem execHstat_sound (d a : Reg) : SoundOutcome (execHstat d a s) :=
  .next (.ite (fun _ => h.trap _) fun _ => h.awaited fun _ ht => .ite (fun _ => ht) fun _ => ht.finish _ _)

theorem execTev_sound (a b : Reg) : SoundOutcome (execTev a b s) :=
  .next (.ite (fun _ => h.trap _) fun _ => .ite (fun _ => h.trap _) fun _ => h.issue _ _ _)

theorem execTmark_sound (a : Reg) : SoundOutcome (execTmark a s) := by
  refine .next (.ite (fun _ => h.trap _) fun _ => ?_)
  split
  · exact h.awaited fun t ht =>
      .ite (fun _ => State.Sound.tmark ((ht.setLocked true).withWorld _) _ _ _) fun _ => ht.setLocked true
  · exact h.tmark _ _ _

theorem execTat_sound (a : Reg) : SoundOutcome (execTat a s) :=
  .next (.ite (fun _ => h.trap _) fun _ => h.issue _ _ _)

theorem execTime_sound (d a : Reg) : SoundOutcome (execTime d a s) :=
  .next (.ite (fun _ => h.trap _) fun _ => h.finish _ _)

/-! Events. -/

theorem execWindowWrite_sound (addr : BitVec 50) (width : BitVec 2) (val : BitVec 64) (agent : Agent) :
    SoundOutcome (execWindowWrite addr width val agent s) := by
  unfold execWindowWrite
  split
  · exact .next (.ite (fun _ => h.windowEvent _ _ _ _) fun _ => h.withWorld _)
  · exact .next (h.withWorld _)

theorem execBootWrite_sound (val : BitVec 64) : SoundOutcome (execBootWrite val s) :=
  .next ((h.bootWrite val).withWorld _)

/-- Every instruction keeps the registers sound. -/
theorem exec_sound (i : Instr) : SoundOutcome (exec i s) := by
  cases i with
  | culturePlaneLoad | planeExchange | vatRetire | vatStall | mcastStall | tokenDelivery | pass | const | delay | iadd
  | isub | imul | imulh | imac | ineg | iabs | imin | imax | isadd | issub | iclamp | stageAnd | stageOr | stageXor
  | stageNot | stageShl | stageShr | stageSar | icmp | sel | idot4 | idot2 | fadd | fsub | fmul | fma | fnma | fmin | fmax
  | fabs | fneg | fcmp | fclamp | rcp | rsq | sqrt | exp2 | log2 | exp | log | tanh | sigm | cvt | rint | ftoi | itof
  | lsum | lmax | lmin | lscan | lrec | shuf | bcast | lrot | steer | merge | switch | route | gate | count | sploop
  | isect | seqno | eosgen | prune | contrib | mrd | mwr | macc | mpush | mpop | mreord | mreordRelease | streamReadToken
  | streamWriteToken | gatherToken | scatterToken | copyFire | copyBeat | copyComplete | keystKey | bgathQuery | pageWalk
  | mxWeightToken | mxMetadataToken | mxAToken | mxTile | mxEpilogueToken | epEgressToken | epIngressToken | epCredit
  | reduceStore | schedSelect | schedInject | blockAged | jobSelect | dependenceReread | jobRetire | ingressPayloadWrite
  | ingressSidebandWrite | launchMessage | pressUnitSave | pressComplete | linkReplay | linkDown | linkUp | thermal
  | ptpFrame | ppsInput | triggerFire | sinkRecordWrite | writeFrame | ppsOutput | holdover => exact .next (h.withWorld _)
  | add | sub | mul | mulh | mulhu | div | divu | rem | remu | and | or | xor | andn | shl | shr | sar | rol | min | max
  | minu | maxu | seq | sne | slt | sltu | sle | sleu | clz | ctz | popc | sext | zext | bswap | addi | andi | ori | xori
  | shli | shri | sari | slti | sltui | lih | cstat => exact .next (h.finish _ _)
  | nop => exact .next h.done
  | trap => exact .next (h.trapAt _ h.cp.next)
  | brk => exact .next (h.trap _)
  | eret => exact execEret_sound h
  | idle => exact execIdle_sound h
  | tlbiAsid a => exact execTlbiAsid_sound h a
  | tlbiAll | tlbiVa | tlbiVaall => exact .next (h.tlbi _ _)
  | pressSave d a => exact execPressSave_sound h d a
  | pressPart d a => exact execPressPart_sound h d a
  | pressRestore d a => exact execPressRestore_sound h d a
  | srr d r => exact execSrr_sound h d r
  | srw a r => exact execSrw_sound h a r
  | ld | ldu => exact .next (h.loadTo _ _ _ _)
  | st r a w o p i => exact execSt_sound h r a w o p i
  | amoadd | amoand | amoor | amoxor | amomin | amomax | amominu | amomaxu | amoswap => exact .next (h.amo _ _ _ _ _)
  | casD d a b o p => exact execCasD_sound h d a b o p
  | casQ d a b o p => exact execCasQ_sound h d a b o p
  | fence o p => exact execFence_sound h o p
  | sbar a p => exact execSbar_sound h a p
  | wait d a b o p => exact execWait_sound h d a b o p
  | jump | call => exact .next (h.jumpTo _ (targetOf_aligned h.cp.pc _))
  | beq | bne | blt | bge | bltu | bgeu => exact .next (h.branchIf _ _)
  | jr | callr => exact .next (h.jumpReg _ _)
  | cdecl c a => exact execCdecl_sound h c a
  | cput c a x e => exact execCput_sound h c a x e
  | crd c d e w => exact execCrd_sound h c d e w
  | crdm c a w o p => exact execCrdm_sound h c a w o p
  | crdp c d b w => exact execCrdp_sound h c d b w
  | settle c => exact execSettle_sound h c
  | cclr c => exact execCclr_sound h c
  | cfg a v => exact execCfg_sound h a v
  | cfgw a v => exact execCfgw_sound h a v
  | arm a v => exact execArm_sound h a v
  | swap | drain | vkill | sgo | tctl => exact .next (h.issue _ _ _)
  | vwait v => exact execVwait_sound h v
  | vstat d sel v => exact execVstat_sound h d sel v
  | rcsnap a b => exact execRcsnap_sound h a b
  | sdef | tok | cpy => exact .next (h.issueAligned _ _ _)
  | qarm a t q => exact execQarm_sound h a t q
  | qdis q => exact execQdis_sound h q
  | trcv d a k => exact execTrcv_sound h d a k
  | tail d a => exact execTail_sound h d a
  | done => exact execDone_sound h
  | hseed | htab | hpool => exact .next (h.issueHash _ _ _ _)
  | hstat d a => exact execHstat_sound h d a
  | tev a b => exact execTev_sound h a b
  | tmark a => exact execTmark_sound h a
  | tat a => exact execTat_sound h a
  | time d a => exact execTime_sound h d a
  | streamRetry | copyRetry | jqdWrite | wdogWrite | hmsgWrite | sridxWrite | scfgWrite | sbaseWrite =>
    exact .next (h.windowEvent _ _ _ _)
  | windowWrite addr width val agent => exact execWindowWrite_sound h addr width val agent
  | workUnitStart => exact .next h.workUnitStart
  | asyncTrapEntry => exact .next h.takeAsync
  | wdogExpire => exact .next h.wdogExpire
  | hcmdPress arg => exact .next (h.hostCommand fun _ ht => ht.hostPress _ _)
  | hcmdRestart entry => exact .next (h.hostCommand fun _ ht => ht.hostRestart _ _)
  | hcmdFence => exact .next (h.hostCommand fun _ ht => (ht.fence _).answer _)
  | hcmdUnfence => exact .next (h.hostCommand fun _ ht => (ht.unfence _).answer _)
  | bootWrite val => exact execBootWrite_sound h val
  | reset => exact .next s.resetAll_sound
  | diePathFailure => exact .next (h.diePath _)
  | eccUeReport => exact .next h.eccUeReport

end
end Sys2Proof.Machine
end

section
namespace Sys2Proof.Machine

/-! The passing of time. -/

theorem State.Sound.expireAll {s : State} (h : s.Sound) : s.expireAll.Sound :=
  State.Sound.foldl (fun t q ht => State.Sound.wdogExpire (s := { t with cur := q.1 }) ht) _ h

theorem State.Sound.tick {s : State} (h : s.Sound) : s.tick.Sound :=
  State.Sound.expireAll (State.Sound.withWorld (State.Sound.holdAll (h.withWorld _)) _)

theorem State.Sound.ticks {s : State} (h : s.Sound) (n : Nat) : (s.ticks n).Sound := by
  induction n generalizing s with
  | zero => exact h
  | succ n ih => exact ih h.tick

theorem State.Sound.pass {s : State} (h : s.Sound) (dt ns16 : Nat) : (s.pass dt ns16).Sound :=
  State.Sound.withWorld (.ite (fun _ => h.withWorld _) fun _ => h.ticks dt) _

theorem State.Sound.nextTurn {s : State} (h : s.Sound) : s.nextTurn.2.Sound := by
  unfold State.nextTurn
  split
  · next turn _ _ => exact h.pass turn.dt turn.ns16
  · exact h.pass 1 0

/-! What a turn does. -/

/-- The state that a turn's work leaves, or begins its instruction in, has sound registers. -/
def Todo.Sound : Todo → Prop
  | .after s | .run _ s => s.Sound
  | .stop _ => True

theorem State.Sound.fetch {s s1 : State} (h : s.Sound) {x : BitVec 32} (hf : s.fetch = .ok (x, s1)) : s1.Sound := by
  unfold State.fetch at hf
  dsimp only at hf
  split at hf
  · cases hf
  · cases hf
  · split at hf
    · next hr =>
      cases hf
      exact State.Sound.setFetched ((h.withWorld _).of_cps (State.physRead_cps hr)) _
    · cases hf

theorem State.Sound.fetchTurn {s : State} (h : s.Sound) : s.fetchTurn.Sound := by
  unfold State.fetchTurn
  split
  · exact h.memStop _
  · next hf =>
    split
    · exact h.fetch hf
    · exact (h.fetch hf).trap _

theorem State.Sound.cpTurn {s : State} (h : s.Sound) : s.cpTurn.Sound := by
  unfold State.cpTurn
  dsimp only
  split
  · exact h
  · split
    · split
      · exact h.takeAsync
      · exact h.fetchTurn
    · exact .ite (fun _ => (h.setMode .running).done) fun _ => h
    all_goals exact h

/-- A command that is performed changes the units alone. -/
theorem State.perform_cps {s t : State} {n : Nat} (hp : s.perform n = some t) : t.cps = s.cps := by
  unfold State.perform at hp
  extract_lets g at hp
  split at hp
  · cases hp
  next before rest after _ k _ =>
    have after_cps : ∀ cs w u, after cs w = some u → u.cps = s.cps := by
      intro cs w u hu
      simp only [after] at hu
      split at hu
      · cases hu
        rfl
      · split at hu
        · cases hu
        · cases hu
          rfl
    split at hp
    · cases hp
    · split at hp
      · split at hp
        · obtain ⟨w, -, hw⟩ := Option.bind_eq_some_iff.1 hp
          exact after_cps _ _ _ hw
        · cases hp
      · dsimp only at hp
        split at hp
        · cases hp
        · obtain ⟨w, -, hw⟩ := Option.bind_eq_some_iff.1 hp
          exact after_cps _ _ _ hw

theorem State.Sound.commandTurn {s : State} (h : s.Sound) (k : Nat) : (s.commandTurn k).Sound := by
  have hr : ∀ t, (if k < s.eng.commands.length then s.perform k else s.performFirst) = some t → t.Sound := by
    intro t ht
    split at ht
    · exact h.of_cps (State.perform_cps ht)
    · obtain ⟨n, -, hn⟩ := List.exists_of_findSome?_eq_some ht
      exact h.of_cps (State.perform_cps hn)
  unfold State.commandTurn
  dsimp only
  cases hx : (if k < s.eng.commands.length then s.perform k else s.performFirst) with
  | none => exact h
  | some t => exact hr t hx

theorem State.Sound.todo {s : State} (h : s.Sound) (a : Act) : (s.todo a).Sound := by
  cases a with
  | cp => exact h.cpTurn
  | command k => exact h.commandTurn k
  | drain => exact h.withWorld _
  | event i =>
    dsimp only [State.todo]
    split
    · trivial
    · split
      · exact h
      · exact h

/-- What a step settles behind its turn changes no register. -/
theorem State.Sound.settle {s0 s : State} (h0 : s0.Sound) (h : s.Sound) : (s0.settle s).Sound :=
  .ite (fun _ => h0.withWorld _) fun _ => h.withWorld _

/-- Every step keeps the registers of every core sound. -/
theorem step_sound {s t : State} (h : s.Sound) (hs : step s = .next t) : t.Sound := by
  have h1 := h.nextTurn
  unfold step at hs
  split at hs
  next a s1 hn =>
  rw [hn] at h1
  have h2 := h1.todo a
  split at hs
  · cases hs
  · next ha =>
    cases hs
    rw [ha] at h2
    exact h1.settle h2
  · next ha =>
    rw [ha] at h2
    split at hs
    · next he =>
      cases hs
      exact h1.settle (exec_sound h2 _ _ he)
    · cases hs
    · cases hs

end Sys2Proof.Machine
end

section
open Sys2Proof.Machine

/-- Settles O59: what each operation on the state leaves of the registers, taken through the instructions to the step. -/
theorem stepKeepsRegisters : Obligations.StepKeepsRegisters := fun _ _ h hs => step_sound h hs
end

section
/-! SUPPORT. LD, LDU and ST on plain memory (R13, R143, R333, R345). -/

namespace Sys2Proof.Machine

/-! Bytes of a register. -/

theorem leNat_lt (bs : List Byte) : leNat bs < 256 ^ bs.length := by
  induction bs with
  | nil => decide
  | cons b bs ih =>
    have hb := b.isLt
    have e : leNat (b :: bs) = b.toNat + 256 * leNat bs := rfl
    rw [e, List.length_cons, Nat.pow_succ]
    omega

theorem State.seesNat_lt (s : State) (a n : Nat) : s.seesNat a n < 256 ^ n := by
  have h := leNat_lt (s.w.seenBytes s.cur a n)
  simpa [State.seesNat, World.seenBytes] using h

/-- The sign extension of a load, for every width code. -/
theorem sextBytes_eq (w : BitVec 2) (v : Nat) :
    sextBytes (2 ^ w.toNat) v = (BitVec.ofNat (8 * 2 ^ w.toNat) v).signExtend 64 := by
  have hw : w = 0 ∨ w = 1 ∨ w = 2 ∨ w = 3 := by
    revert w
    decide
  rcases hw with rfl | rfl | rfl | rfl
  · rfl
  · rfl
  · rfl
  · exact (BitVec.signExtend_eq _).symm

/-- The zero extension of a value of `n` bytes. -/
theorem ofNat_eq_setWidth {n v : Nat} (h : v < 256 ^ n) : BitVec.ofNat 64 v = (BitVec.ofNat (8 * n) v).setWidth 64 := by
  apply BitVec.eq_of_toNat_eq
  have e : (2 : Nat) ^ (8 * n) = 256 ^ n := by rw [Nat.pow_mul]
  simp [e, Nat.mod_eq_of_lt h]

/-! Loads. -/

/-- Everything that a load of plain memory does: the extended bytes are in the register, memory and the store buffer stand. -/
theorem State.loadTo_plain {s : State} {d : Reg} {va : Word} {n : Nat} {ext : Nat → Word} {pa : PhysAddr} {w1 : World}
    (ha : va.toNat % n = 0) (ht : s.translate .read va = (.ok pa, w1)) (hp : PlainAt s pa) (hc : CleanAt s pa.addr n) :
    OthersStill s (s.loadTo d va n ext) ∧ s.cp.Completed (s.loadTo d va n ext).cp d (ext (s.seesNat pa.addr n)) ∧
      (s.loadTo d va n ext).w.mem = s.w.mem ∧ (s.loadTo d va n ext).eng.storeBuf = s.eng.storeBuf := by
  have e : s.loadTo d va n ext =
      (s.withWorld (s.w.cpCorrected s.cur pa.addr n)).finish d (ext (s.seesNat pa.addr n)) := by
    unfold State.loadTo
    simp [ha, State.load_plain ht hp hc]
  obtain ⟨hmem, -, heng⟩ := s.w.cpCorrected_keeps s.cur pa.addr n
  rw [e]
  refine ⟨⟨rfl, rfl, fun k hk => State.withCp_others _ _ k hk⟩, ?_, hmem, ?_⟩
  · simpa using s.cp.completed_setReg d _
  · obtain ⟨r, q, u, hk⟩ := heng s.cur
    show ((s.w.cpCorrected s.cur pa.addr n).eng s.cur).storeBuf = (s.w.eng s.cur).storeBuf
    rw [hk]

/-! Stores. -/

/-- The low bytes of a number are those of its remainder. -/
theorem byteOf_mod {v n k : Nat} (hk : k < n) : byteOf (v % 256 ^ n) k = byteOf v k := by
  apply BitVec.eq_of_toNat_eq
  have e : 256 ^ n = 256 ^ k * 256 ^ (n - k - 1) * 256 := by
    rw [mul_assoc, ← pow_succ, ← pow_add]
    congr 1
    omega
  simp only [byteOf, BitVec.toNat_ofNat]
  rw [e, mul_assoc, Nat.mod_mul_right_div_self, Nat.mod_mul_left_mod]

/-- A core sees memory where none of its stores waits. -/
theorem seenByte_of_uncovered {buf : List PendingStore} {m : List Host.Cell} {x : Nat}
    (h : ∀ q ∈ buf, ¬ within q.addr q.len x) : seenByte buf m x = memRead m x := by
  have hn : buf.reverse.find? (fun p => p.addr ≤ x && x < p.addr + p.len) = none := by
    rw [List.find?_eq_none]
    intro q hq hx
    exact h q (List.mem_reverse.1 hq) (by simpa [within] using hx)
  unfold seenByte
  rw [hn]

/-- The oldest store is performed: the core sees what it saw, and memory changes inside that store alone. -/
theorem World.drainOne_sees {w : World} (h : Memory.wf w.mem = true) (c x : Nat) :
    seenByte ((w.drainOne c).eng c).storeBuf (w.drainOne c).mem x = seenByte (w.eng c).storeBuf w.mem x ∧
      (memRead (w.drainOne c).mem x ≠ memRead w.mem x → ∃ q ∈ (w.eng c).storeBuf, within q.addr q.len x) := by
  unfold World.drainOne
  dsimp only
  split
  · next hb => exact ⟨by rw [hb], fun hx => absurd rfl hx⟩
  · next p rest hb =>
    refine ⟨?_, fun hx => ⟨p, by simp [hb], ?_⟩⟩
    · rw [hb, World.performStore, World.store_storeBuf, World.eng_setEng_same]
      exact performStores_sees (w := w.setEng c _) h [p] rest x
    · by_contra hn
      exact hx ((World.store_read (w := w.setEng c _) h p.addr p.len p.data.toNat x).trans (if_neg hn))

/-- A core sees its newest store before everything else. -/
theorem World.buffer_sees {w : World} (h : Memory.wf w.mem = true) (c : Nat) (p : PendingStore) (x : Nat) :
    seenByte ((w.buffer c p).eng c).storeBuf (w.buffer c p).mem x =
        (if p.addr ≤ x ∧ x < p.addr + p.len then byteOf p.data.toNat (x - p.addr) else seenByte (w.eng c).storeBuf w.mem x) ∧
      (memRead (w.buffer c p).mem x ≠ memRead w.mem x → ∃ q ∈ (w.eng c).storeBuf, within q.addr q.len x) := by
  have room : ∀ v : World,
      seenByte (((v.setEng c { v.eng c with storeBuf := (v.eng c).storeBuf ++ [p] }).eng c).storeBuf) v.mem x =
        (if p.addr ≤ x ∧ x < p.addr + p.len then byteOf p.data.toNat (x - p.addr) else seenByte (v.eng c).storeBuf v.mem x) := by
    intro v
    rw [World.eng_setEng_same]
    exact seenByte_append (v.eng c).storeBuf p v.mem x
  obtain ⟨hsees, hmem⟩ := World.drainOne_sees h c x
  unfold World.buffer
  split
  · exact ⟨(room _).trans (by rw [hsees]), hmem⟩
  · exact ⟨room w, fun hx => absurd rfl hx⟩

/-- A store behind every earlier one: memory holds what the core saw, and the store. -/
theorem World.drainAll_performStore {w : World} (h : Memory.wf w.mem = true) (c : Nat) (p : PendingStore) :
    (((w.drainAll c).performStore p).eng c).storeBuf = [] ∧ ∀ x, memRead ((w.drainAll c).performStore p).mem x =
      if p.addr ≤ x ∧ x < p.addr + p.len then byteOf p.data.toNat (x - p.addr) else seenByte (w.eng c).storeBuf w.mem x := by
  refine ⟨by rw [World.performStore, World.store_storeBuf, World.drainAll_storeBuf], fun x => ?_⟩
  rw [← (World.drainAll_read h c x).2]
  exact World.store_read (World.drainAll_read h c x).1 _ _ _ _

/-- What a store of `n` bytes does to the units: it is performed at once behind every earlier one, or waits behind them. -/
def World.stored (w : World) (c : Nat) (p : PendingStore) (now : Bool) : World :=
  if now then (w.drainAll c).performStore p else w.buffer c p

/-- A store to plain memory. -/
theorem State.store_plain {s : State} {va : Word} {pa : PhysAddr} {w1 : World} {n : Nat} {v : BitVec 512} {now : Bool}
    (ht : s.translate .write va = (.ok pa, w1)) (hp : PlainAt s pa) :
    s.store va n v now = .ok (s.withWorld (s.w.stored s.cur ⟨pa.addr, n, v⟩ now)) := by
  obtain rfl := State.translate_ok ht
  have hw : s.physWrite va pa n v now = .ok (s.withWorld (s.w.stored s.cur ⟨pa.addr, n, v⟩ now)) := by
    unfold State.physWrite
    rw [hp.here]
    rcases hp.region with ⟨c, hc⟩ | ⟨c, e, o, hc, hb⟩
    · simp [hc, hp.reach, World.stored]
    · simp [hc, hp.reach, hb, World.stored]
  unfold State.store
  rw [ht]
  exact congrArg (Except.mapError MemStop.trap) hw

/-- Everything that a store does to what the core sees and to memory. -/
theorem World.stored_sees {w : World} (h : Memory.wf w.mem = true) (c : Nat) (p : PendingStore) (now : Bool) (x : Nat) :
    seenByte ((w.stored c p now).eng c).storeBuf (w.stored c p now).mem x =
        (if p.addr ≤ x ∧ x < p.addr + p.len then byteOf p.data.toNat (x - p.addr) else seenByte (w.eng c).storeBuf w.mem x) ∧
      (memRead (w.stored c p now).mem x ≠ memRead w.mem x →
        within p.addr p.len x ∨ ∃ q ∈ (w.eng c).storeBuf, within q.addr q.len x) := by
  cases now with
  | false =>
    obtain ⟨hsees, hmem⟩ := World.buffer_sees h c p x
    exact ⟨hsees, fun hx => .inr (hmem hx)⟩
  | true =>
    obtain ⟨hbuf, hread⟩ := World.drainAll_performStore h c p
    refine ⟨?_, fun hx => ?_⟩
    · show seenByte (((w.drainAll c).performStore p).eng c).storeBuf ((w.drainAll c).performStore p).mem x = _
      rw [hbuf]
      exact hread x
    · by_contra hn
      rw [not_or, not_exists] at hn
      obtain ⟨hp, hq⟩ := hn
      exact hx ((hread x).trans ((if_neg hp).trans (seenByte_of_uncovered fun q hb hw => hq q ⟨hb, hw⟩)))

end Sys2Proof.Machine
end

section
open Sys2Proof Sys2Proof.Machine

/-- Settles O6: a load of plain memory reads what the core sees, and its extension is that of the width code. -/
theorem loads : Obligations.Loads := by
  intro s d a w o p i pa w1 n va _ ha ht hp hc
  have hva : s.dispAddr a w i = va := s.dispAddr_eq a w i
  constructor
  · obtain ⟨hs, hcp, hmem⟩ := State.loadTo_plain (d := d) (ext := sextBytes n) ha ht hp hc
    rw [sextBytes_eq] at hcp
    exact ⟨_, by rw [← hva]; rfl, hs, hcp, hmem⟩
  · obtain ⟨hs, hcp, hmem⟩ := State.loadTo_plain (d := d) (ext := BitVec.ofNat 64) ha ht hp hc
    rw [ofNat_eq_setWidth (s.seesNat_lt pa.addr n)] at hcp
    exact ⟨_, by rw [← hva]; rfl, hs, hcp, hmem⟩

/-- Settles O7: the store waits behind the earlier ones or, as a release, is performed behind them; the core sees it either
way. -/
theorem stores : Obligations.Stores := by
  intro s r a w o p i pa w1 n va hwf _ ha ht hp
  have hva : s.dispAddr a w i = va := s.dispAddr_eq a w i
  let q : PendingStore := ⟨pa.addr, n, BitVec.ofNat 512 ((s.reg r).toNat % 256 ^ n)⟩
  let w' := s.w.stored s.cur q (o == 2)
  have hexec : exec (.st r a w o p i) s = .next (s.withWorld w').done := by
    show execSt r a w o p i s = _
    unfold execSt
    rw [hva]
    have hs : s.store va (bytesOf w) (BitVec.ofNat 512 ((s.reg r).toNat % 256 ^ bytesOf w)) (o == 2) = .ok (s.withWorld w') :=
      State.store_plain ht hp
    have hn : va.toNat % bytesOf w = 0 := ha
    dsimp only
    rw [if_neg (by simpa using hn), hs]
  obtain ⟨hstill, hcp⟩ := State.done_completes (s.withWorld w')
  have hdata : q.data.toNat = (s.reg r).toNat % 256 ^ n := by
    exact Nat.mod_eq_of_lt (calc
      (s.reg r).toNat % 256 ^ n ≤ (s.reg r).toNat := Nat.mod_le ..
      _ < 2 ^ 64 := (s.reg r).isLt
      _ ≤ 2 ^ 512 := Nat.pow_le_pow_right (by decide) (by decide))
  refine ⟨_, hexec, ⟨hstill.schedule, hstill.cur, hstill.others⟩, hcp, fun x => ?_, fun x => ?_, ?_⟩
  · have hsees := (World.stored_sees hwf s.cur q (o == 2) x).1
    refine ⟨fun hx => (hsees.trans (if_pos hx)).trans ?_, fun hx => hsees.trans (if_neg hx)⟩
    rw [hdata]
    exact byteOf_mod (Nat.sub_lt_left_of_lt_add hx.1 hx.2)
  · exact (World.stored_sees hwf s.cur q (o == 2) x).2
  · rintro rfl
    exact (World.drainAll_performStore hwf s.cur q).1
end

section
/-! SUPPORT. An SRW behind a window write of its cycle (R141): a state in which the instruction has waited for a walk. -/

namespace Sys2Proof.Machine

/-- A processor whose MSTAT the window has written in the present cycle, and whose instruction asked for a walk in it. -/
def windowWonAsking : State :=
  { State.reset with cps := [(0, { Cp.reset 0 with winSrs := [0x002], asked := some 0 })] }

/-- The SRW of zero to MSTAT completes before the window's write; it no longer waits for a walk. -/
theorem windowWonAsking_srw : exec (.srw 0 0x002) windowWonAsking = .next (windowWonAsking.srwBefore 0x002) ∧
    (windowWonAsking.srwBefore 0x002).cp.asked = none := ⟨rfl, rfl⟩

end Sys2Proof.Machine
end

section
open Sys2Proof Sys2Proof.Machine

/-- Refutes O16: the clause for an SRW behind a window write of its cycle says that the processor stands but for the program
counter and RETIRED, but an instruction that completes forgets the walk it had asked for (`asked`), as in a state whose
instruction has waited for its fetch's walk. -/
theorem not_specialWrites : ¬ Obligations.SpecialWrites := by
  intro h
  have hwon : ¬ (windowWonAsking.cp.winAt = windowWonAsking.w.cycle → 0x002 ∉ windowWonAsking.cp.winSrs) :=
    fun hf => hf (by decide) (by decide)
  have hprv : windowWonAsking.cp.winPrv = true := by decide
  have hlegal : (windowWonAsking.reg 0).toNat < 2 ^ 5 := by decide
  obtain ⟨hclause, -⟩ := h windowWonAsking 0 0x002
  obtain ⟨-, hbefore⟩ := hclause ⟨fun hf => absurd hf hwon, fun _ => hprv⟩ (.inl (by decide))
    ⟨by decide, fun _ => hlegal, by decide, by decide, by decide, by decide, by decide, by decide, by decide, by decide, by decide⟩
  obtain ⟨t, hexec, -, hcp⟩ := hbefore hwon
  obtain ⟨hsrw, hasked⟩ := windowWonAsking_srw
  have ht : t = windowWonAsking.srwBefore 0x002 := by
    rw [hsrw] at hexec
    cases hexec
    rfl
  rw [ht] at hcp
  have hstands : (windowWonAsking.srwBefore 0x002).cp.asked = some 0 := by
    rw [hcp]
    rfl
  rw [hasked] at hstands
  cases hstands
end

section
/-! SUPPORT. A FIFO on the last memory element of a core whose line is past the end of its bank (R222, R277). -/

namespace Sys2Proof.Machine

/-- The configuration of a memory element whose stage 1 holds MPUSH of the zero register with a capacity of 1,025 lines. -/
def longFifoCfg : ElemCfg := (ElemCfg.empty.apply 126 9 0x83FF).apply 126 13 1025

/-- A plane over the whole grid, which the scheduler does not run. -/
def wholeGrid : Plane := { rect := 0x01FC, id := 0, addr := 0x2000, units := [], framing := none, ctl := [] }

/-- A core whose grid has begun its cycle with the push as its one action; the next line of the FIFO is line 1,024. -/
def longFifoEng : Eng :=
  { Eng.reset with
    vats := [(0, { Vat.reset with state := .running, active := some wholeGrid })]
    active := [(126, longFifoCfg)]
    elems := [(126, { Elem.reset with fifoAt := 1024 })]
    firing := some [⟨.stage 126 1, []⟩] }

/-- The reset machine with that grid on core 0. -/
def longFifoState : State := { State.reset with w := { World.reset with engs := [(0, longFifoEng)] } }

/-- The world in which the push acts. -/
def longFifoActing : World :=
  let w0 := longFifoState.w.beginGrid 0
  w0.setEng 0 ((w0.eng 0).actedOn (.stage 126 1))

/-- The stage offers the push, in vat 0. -/
theorem longFifo_offer :
    (longFifoActing.stageOffer 0 126 1).map (fun y => (y.1.op, y.1.vat)) = some (.mpush, 0) := by decide +kernel

theorem longFifo_planned : plannedFor (longFifoState.w.planned 0) (.stage 126 1) = some ⟨.stage 126 1, []⟩ := by
  decide +kernel

theorem longFifo_notScheduled : NotScheduled longFifoState 0 126 1 := by
  refine ⟨fun p hp => ?_, by decide +kernel⟩
  have hwhole : some wholeGrid = some p := hp
  cases hwhole
  decide

/-- The line lies at the first line of core 1's scratchpad, whose element notes the store; at reset it has noted none. -/
theorem longFifo_marks_neighbour :
    ((longFifoState.w.fireStage .mpush 0 126 1).eng 1).elems ≠ (longFifoState.w.eng 1).elems := by decide +kernel

end Sys2Proof.Machine
end

section
open Sys2Proof Sys2Proof.Machine

/-- Refutes O26: the clause that the other cores are as before fails for an MPUSH on the last memory element whose capacity is
above the 1,024 lines of a bank: line 1,024 is stored in the next core's scratchpad, and that core's element notes it.
(Such an element is BLOCKED at its END, R222, so no configuration leads there; the statement asks it of every state.) -/
theorem not_stageFires : ¬ Obligations.StageFires := by
  intro h
  obtain ⟨⟨x, f⟩, hoffer, hat⟩ := Option.map_eq_some_iff.mp longFifo_offer
  obtain ⟨hop, hvat⟩ : x.op = .mpush ∧ x.vat = 0 := by simpa using hat
  obtain ⟨hfires, -⟩ := h (.mpush 126 1) .mpush 126 1 longFifoState (by decide) rfl
  obtain ⟨t, hexec, -, -, -, -, -, -, -, hothers, -⟩ :=
    hfires _ x f longFifo_planned hoffer hop rfl rfl (hvat ▸ longFifo_notScheduled)
  have ht : t = longFifoState.withWorld (longFifoState.w.fireStage .mpush 0 126 1) := by
    have hnext : exec (.mpush 126 1) longFifoState =
        .next (longFifoState.withWorld (longFifoState.w.fireStage .mpush 0 126 1)) := rfl
    rw [hnext] at hexec
    cases hexec
    rfl
  have hstands : (longFifoState.w.fireStage .mpush 0 126 1).eng 1 = longFifoState.w.eng 1 := by
    rw [ht] at hothers
    exact hothers 1 (by decide)
  exact longFifo_marks_neighbour (by rw [hstands])
end

section
/-! SUPPORT. The formats of R40: a word is the one that a format writes exactly when it has the format's fields. -/

namespace Sys2Proof

/-- The bits of a word from bit `lo` upward are those of `x`. -/
def HasField (w : BitVec 32) (lo : Nat) {n : Nat} (x : BitVec n) : Prop := bitsAt w lo n = x

/-- A word is its own field of 32 bits. -/
theorem hasField_zero_iff {w x : BitVec 32} : HasField w 0 x ↔ x = w := by
  rw [HasField, bitsAt, BitVec.extractLsb'_eq_self, eq_comm]

/-- Two adjoining fields are those of their concatenation. -/
theorem hasField_append {m n lo : Nat} {w : BitVec 32} {x : BitVec m} {y : BitVec n} :
    HasField w lo (no_index (x ++ y)) ↔ HasField w (lo + n) x ∧ HasField w lo y := by
  unfold HasField bitsAt
  rw [← BitVec.extractLsb'_append_extractLsb'_eq_extractLsb' rfl]
  constructor
  · intro h
    have hx := congrArg (BitVec.extractLsb' n m) h
    have hy := congrArg (BitVec.extractLsb' 0 n) h
    simp only [BitVec.extractLsb'_append_eq_left, BitVec.extractLsb'_append_eq_right] at hx hy
    exact ⟨hx, hy⟩
  · rintro ⟨rfl, rfl⟩
    rfl

/-- A field that selects a row of the tables, as the decoder reads it. -/
theorem hasField_iff_toNat {w : BitVec 32} {lo n : Nat} {x : BitVec n} :
    HasField w lo x ↔ (bitsAt w lo n).toNat = x.toNat := BitVec.toNat_inj.symm

/-! The function of a format is stated as the number that the decoder compares. -/

section
variable {w : BitVec 32} {op : BitVec 6} {d a b : Reg} {c : CurdReg}

theorem encR_eq_iff {fn : BitVec 11} :
    encR op d a b fn = w ↔ bitsAt w 26 6 = op ∧ bitsAt w 21 5 = d ∧ bitsAt w 16 5 = a ∧
      bitsAt w 11 5 = b ∧ (bitsAt w 0 11).toNat = fn.toNat := by
  rw [← hasField_zero_iff]
  simp only [encR, hasField_append, and_assoc, ← hasField_iff_toNat]
  rfl

theorem encI_eq_iff {imm : BitVec 16} :
    encI op d a imm = w ↔ bitsAt w 26 6 = op ∧ bitsAt w 21 5 = d ∧ bitsAt w 16 5 = a ∧
      bitsAt w 0 16 = imm := by
  rw [← hasField_zero_iff]
  simp only [encI, hasField_append, and_assoc]
  rfl

theorem encSys_eq_iff {sel : BitVec 4} {n : BitVec 12} :
    encSys d a sel n = w ↔ bitsAt w 26 6 = 0 ∧ bitsAt w 21 5 = d ∧ bitsAt w 16 5 = a ∧
      (bitsAt w 12 4).toNat = sel.toNat ∧ bitsAt w 0 12 = n := by
  rw [← hasField_zero_iff]
  simp only [encSys, hasField_append, and_assoc, ← hasField_iff_toNat]
  rfl

theorem encAlu_eq_iff {v : BitVec 1} {fn : BitVec 10} :
    encAlu d a b v fn = w ↔ bitsAt w 26 6 = 1 ∧ bitsAt w 21 5 = d ∧ bitsAt w 16 5 = a ∧
      bitsAt w 11 5 = b ∧ bitsAt w 10 1 = v ∧ (bitsAt w 0 10).toNat = fn.toNat := by
  rw [← hasField_zero_iff]
  simp only [encAlu, hasField_append, and_assoc, ← hasField_iff_toNat]
  rfl

theorem encSh_eq_iff {k : BitVec 2} {n : BitVec 6} :
    encSh d a k n = w ↔ bitsAt w 26 6 = 6 ∧ bitsAt w 21 5 = d ∧ bitsAt w 16 5 = a ∧
      (bitsAt w 14 2).toNat = k.toNat ∧ bitsAt w 6 8 = 0 ∧ bitsAt w 0 6 = n := by
  rw [← hasField_zero_iff]
  simp only [encSh, hasField_append, and_assoc, ← hasField_iff_toNat]
  rfl

theorem encM_eq_iff {x o p : BitVec 2} {i : BitVec 10} :
    encM op d a x o p i = w ↔ bitsAt w 26 6 = op ∧ bitsAt w 21 5 = d ∧ bitsAt w 16 5 = a ∧
      bitsAt w 14 2 = x ∧ bitsAt w 12 2 = o ∧ bitsAt w 10 2 = p ∧ bitsAt w 0 10 = i := by
  rw [← hasField_zero_iff]
  simp only [encM, hasField_append, and_assoc]
  rfl

theorem encJ_eq_iff {i : BitVec 26} :
    encJ op i = w ↔ bitsAt w 26 6 = op ∧ bitsAt w 0 26 = i := by
  rw [← hasField_zero_iff]
  simp only [encJ, hasField_append]
  rfl

theorem encBC_eq_iff {cond : BitVec 4} {i : BitVec 12} :
    encBC cond a b i = w ↔ bitsAt w 26 6 = 0x12 ∧ (bitsAt w 22 4).toNat = cond.toNat ∧
      bitsAt w 17 5 = a ∧ bitsAt w 12 5 = b ∧ bitsAt w 0 12 = i := by
  rw [← hasField_zero_iff]
  simp only [encBC, hasField_append, and_assoc, ← hasField_iff_toNat]
  rfl

theorem encC_eq_iff {fn : BitVec 5} {v : BitVec 1} {o p : BitVec 2} :
    encC c a b fn v o p = w ↔ bitsAt w 26 6 = 0x14 ∧ bitsAt w 20 6 = c ∧ bitsAt w 15 5 = a ∧
      bitsAt w 10 5 = b ∧ (bitsAt w 5 5).toNat = fn.toNat ∧ bitsAt w 4 1 = v ∧ bitsAt w 2 2 = o ∧ bitsAt w 0 2 = p := by
  rw [← hasField_zero_iff]
  simp only [encC, hasField_append, and_assoc, ← hasField_iff_toNat]
  rfl

/-- The four low bits of the format are the two fields of two bits that the decoder checks. -/
theorem encCe_eq_iff {x : BitVec 1} {e : BitVec 4} {fn : BitVec 5} {v : BitVec 1} :
    encCe c a x e fn v = w ↔ bitsAt w 26 6 = 0x14 ∧ bitsAt w 20 6 = c ∧ bitsAt w 15 5 = a ∧
      bitsAt w 14 1 = x ∧ bitsAt w 10 4 = e ∧ (bitsAt w 5 5).toNat = fn.toNat ∧ bitsAt w 4 1 = v ∧
      bitsAt w 2 2 = 0 ∧ bitsAt w 0 2 = 0 := by
  rw [← hasField_zero_iff]
  have hlow : HasField w 0 (0 : BitVec 4) ↔ HasField w 2 (0 : BitVec 2) ∧ HasField w 0 (0 : BitVec 2) :=
    hasField_append (x := (0 : BitVec 2)) (y := (0 : BitVec 2))
  simp only [encCe, hasField_append, and_assoc, ← hasField_iff_toNat, hlow]
  rfl

/-- The five low bits of a CURD word that has no operand there. -/
theorem curdLow_eq_zero_iff : bitsAt w 0 5 = 0#5 ↔ bitsAt w 4 1 = 0#1 ∧ bitsAt w 2 2 = 0#2 ∧ bitsAt w 0 2 = 0#2 := by
  have hlow : HasField w 0 (0#1 ++ 0#2 ++ 0#2) ↔ (HasField w 4 0#1 ∧ HasField w 2 0#2) ∧ HasField w 0 0#2 :=
    hasField_append.trans (and_congr_left' hasField_append)
  exact hlow.trans and_assoc

theorem encE_eq_iff {fn : BitVec 4} {x o p : BitVec 2} :
    encE op d a b fn x o p = w ↔ bitsAt w 26 6 = op ∧ bitsAt w 21 5 = d ∧ bitsAt w 16 5 = a ∧
      bitsAt w 11 5 = b ∧ (bitsAt w 7 4).toNat = fn.toNat ∧ bitsAt w 5 2 = x ∧ bitsAt w 3 2 = o ∧ bitsAt w 1 2 = p ∧
      bitsAt w 0 1 = 0 := by
  rw [← hasField_zero_iff]
  simp only [encE, hasField_append, and_assoc, ← hasField_iff_toNat]
  rfl

theorem encEv_eq_iff {fn : BitVec 4} {v : BitVec 3} :
    encEv d a b fn v = w ↔ bitsAt w 26 6 = 0x15 ∧ bitsAt w 21 5 = d ∧ bitsAt w 16 5 = a ∧
      bitsAt w 11 5 = b ∧ (bitsAt w 7 4).toNat = fn.toNat ∧ bitsAt w 3 4 = 0 ∧ bitsAt w 0 3 = v := by
  rw [← hasField_zero_iff]
  simp only [encEv, hasField_append, and_assoc, ← hasField_iff_toNat]
  rfl

theorem encEs_eq_iff {fn : BitVec 4} {s : BitVec 5} :
    encEs d a b fn s = w ↔ bitsAt w 26 6 = 0x16 ∧ bitsAt w 21 5 = d ∧ bitsAt w 16 5 = a ∧
      bitsAt w 11 5 = b ∧ (bitsAt w 7 4).toNat = fn.toNat ∧ bitsAt w 5 2 = 0 ∧ bitsAt w 0 5 = s := by
  rw [← hasField_zero_iff]
  simp only [encEs, hasField_append, and_assoc, ← hasField_iff_toNat]
  rfl

theorem encEq_eq_iff {fn : BitVec 4} {q : BitVec 3} :
    encEq d a b fn q = w ↔ bitsAt w 26 6 = 0x16 ∧ bitsAt w 21 5 = d ∧ bitsAt w 16 5 = a ∧
      bitsAt w 11 5 = b ∧ (bitsAt w 7 4).toNat = fn.toNat ∧ bitsAt w 3 4 = 0 ∧ bitsAt w 0 3 = q := by
  rw [← hasField_zero_iff]
  simp only [encEq, hasField_append, and_assoc, ← hasField_iff_toNat]
  rfl

end

end Sys2Proof
end

section
/-! SUPPORT. What the decoder answers is spelled by the word that it reads (R41 to R48): a lemma for each group
or format, whose cases are the rows of its table. -/

namespace Sys2Proof

open BitVec (eq_of_toNat_eq)

/-- Every instruction that a decoder answers has the word `w`. -/
def Spells (w : BitVec 32) (r : Except Reject Instr) : Prop := ∀ i, r = .ok i → encode i = some w

section
variable {w : BitVec 32} {i : Instr}

theorem spells_ok : Spells w (.ok i) ↔ encode i = some w := by
  simp [Spells]

theorem spells_error {e : Reject} : Spells w (.error e) := fun _ h => by cases h

theorem spells_unused {zero : Bool} : Spells w (unused zero i) ↔ (zero = true → encode i = some w) := by
  cases zero <;> simp [unused, spells_ok, spells_error]

/-- TLBI and PRESS have rows of their own below the function, selected by the low twelve bits. -/
theorem decodeSys_spells (hop : bitsAt w 26 6 = 0x00) : Spells w (decodeSys w) := by
  simp only [decodeSys]
  split <;> (try split) <;> simp only [spells_error, spells_ok, spells_unused]
  all_goals
    unfold encode
    simp +contextual [encSys_eq_iff, ← @BitVec.toNat_inj 12, *]

theorem decodeAlu_spells (hop : bitsAt w 26 6 = 0x01) : Spells w (decodeAlu w) := by
  simp only [decodeAlu]
  split <;> simp only [spells_error, spells_ok, spells_unused]
  all_goals
    unfold encode
    simp +contextual [encAlu_eq_iff, *]

theorem decodeShift_spells (hop : bitsAt w 26 6 = 0x06) : Spells w (decodeShift w) := by
  simp only [decodeShift]
  split <;> simp only [spells_error, spells_unused]
  all_goals
    unfold encode
    simp +contextual [encSh_eq_iff, *]

/-- The groups of format E: AMO, CAS and MSYNC. -/
theorem formatE_spells :
    (bitsAt w 26 6 = 0x0D → Spells w (decodeAmo w)) ∧ (bitsAt w 26 6 = 0x0E → Spells w (decodeCas w)) ∧
      (bitsAt w 26 6 = 0x0F → Spells w (decodeSync w)) := by
  refine ⟨fun hop => ?_, fun hop => ?_, fun hop => ?_⟩
  all_goals
    simp only [decodeAmo, decodeCas, decodeSync]
    split <;> simp only [spells_error, spells_unused]
    all_goals
      unfold encode
      simp +contextual [encE_eq_iff, *]

theorem decodeBranch_spells (hop : bitsAt w 26 6 = 0x12) : Spells w (decodeBranch w) := by
  simp only [decodeBranch]
  split <;> simp only [spells_error, spells_ok]
  all_goals
    unfold encode
    simp +contextual [encBC_eq_iff, *]

theorem decodeCurd_spells (hop : bitsAt w 26 6 = 0x14) : Spells w (decodeCurd w) := by
  simp only [decodeCurd]
  split <;> simp only [spells_error, spells_unused]
  all_goals
    unfold encode
    simp +contextual [encC_eq_iff, encCe_eq_iff, curdLow_eq_zero_iff, *]

theorem decodeVat_spells (hop : bitsAt w 26 6 = 0x15) : Spells w (decodeVat w) := by
  simp only [decodeVat]
  split <;> simp only [spells_error, spells_unused]
  all_goals
    unfold encode
    simp +contextual [encEv_eq_iff, *]

theorem decodeStrm_spells (hop : bitsAt w 26 6 = 0x16) : Spells w (decodeStrm w) := by
  simp only [decodeStrm]
  split <;> simp only [spells_error, spells_unused]
  all_goals
    unfold encode
    simp +contextual [encEs_eq_iff, encEq_eq_iff, *]

/-- The groups of format R: JMPR, LNCH, HASH, TRC and RCSNAP. -/
theorem formatR_spells :
    (bitsAt w 26 6 = 0x13 → Spells w (decodeJump w)) ∧ (bitsAt w 26 6 = 0x17 → Spells w (decodeLaunch w)) ∧
      (bitsAt w 26 6 = 0x18 → Spells w (decodeHash w)) ∧ (bitsAt w 26 6 = 0x19 → Spells w (decodeTrace w)) ∧
      (bitsAt w 26 6 = 0x1A → Spells w (decodeSnap w)) := by
  refine ⟨fun hop => ?_, fun hop => ?_, fun hop => ?_, fun hop => ?_, fun hop => ?_⟩
  all_goals
    simp only [decodeJump, decodeLaunch, decodeHash, decodeTrace, decodeSnap]
    split <;> simp only [spells_error, spells_unused]
    all_goals
      unfold encode
      simp +contextual [encR_eq_iff, *]

/-- The memory forms have one format and no other row (R344). -/
theorem decodeMem_spells {mk : Reg → Reg → BitVec 2 → BitVec 2 → BitVec 2 → BitVec 10 → Instr} {op : BitVec 6}
    (hop : bitsAt w 26 6 = op)
    (hmk : ∀ d a x o p n, encode (mk d a x o p n) = some (encM op d a x o p n)) : Spells w (decodeMem mk w) := by
  rw [decodeMem, spells_ok, hmk, encM_eq_iff.2 ⟨hop, rfl, rfl, rfl, rfl, rfl, rfl⟩]

/-- Every word that decodes is the word of what it decodes to. -/
theorem decodeFields_spells (w : BitVec 32) : Spells w (decodeFields w) := by
  have imm {op : BitVec 6} (hop : (bitsAt w 26 6).toNat = op.toNat) :
      encI op (bitsAt w 21 5) (bitsAt w 16 5) (bitsAt w 0 16) = w :=
    encI_eq_iff.2 ⟨eq_of_toNat_eq hop, rfl, rfl, rfl⟩
  have jump {op : BitVec 6} (hop : (bitsAt w 26 6).toNat = op.toNat) :
      encJ op (bitsAt w 0 26) = w := encJ_eq_iff.2 ⟨eq_of_toNat_eq hop, rfl⟩
  obtain ⟨amo, cas, sync⟩ := formatE_spells (w := w)
  obtain ⟨jmpr, launch, hash, trace, snap⟩ := formatR_spells (w := w)
  simp only [decodeFields]
  split
  next hop => exact decodeSys_spells (eq_of_toNat_eq hop)
  next hop => exact decodeAlu_spells (eq_of_toNat_eq hop)
  next hop => exact spells_ok.2 (congrArg some (imm hop))
  next hop => exact spells_ok.2 (congrArg some (imm hop))
  next hop => exact spells_ok.2 (congrArg some (imm hop))
  next hop => exact spells_ok.2 (congrArg some (imm hop))
  next hop => exact decodeShift_spells (eq_of_toNat_eq hop)
  next hop => exact spells_ok.2 (congrArg some (imm hop))
  next hop => exact spells_ok.2 (congrArg some (imm hop))
  next hop => exact spells_ok.2 (congrArg some (imm hop))
  next hop => exact decodeMem_spells (op := 0x0A) (eq_of_toNat_eq hop) fun _ _ _ _ _ _ => rfl
  next hop => exact decodeMem_spells (op := 0x0B) (eq_of_toNat_eq hop) fun _ _ _ _ _ _ => rfl
  next hop => exact decodeMem_spells (op := 0x0C) (eq_of_toNat_eq hop) fun _ _ _ _ _ _ => rfl
  next hop => exact amo (eq_of_toNat_eq hop)
  next hop => exact cas (eq_of_toNat_eq hop)
  next hop => exact sync (eq_of_toNat_eq hop)
  next hop => exact spells_ok.2 (congrArg some (jump hop))
  next hop => exact spells_ok.2 (congrArg some (jump hop))
  next hop => exact decodeBranch_spells (eq_of_toNat_eq hop)
  next hop => exact jmpr (eq_of_toNat_eq hop)
  next hop => exact decodeCurd_spells (eq_of_toNat_eq hop)
  next hop => exact decodeVat_spells (eq_of_toNat_eq hop)
  next hop => exact decodeStrm_spells (eq_of_toNat_eq hop)
  next hop => exact launch (eq_of_toNat_eq hop)
  next hop => exact hash (eq_of_toNat_eq hop)
  next hop => exact trace (eq_of_toNat_eq hop)
  next hop => exact snap (eq_of_toNat_eq hop)
  next => exact spells_error

end

end Sys2Proof
end

section
/-! SUPPORT. The word of an instruction decodes to it, and its bytes (R40 to R48). -/

namespace Sys2Proof

/-- The fields of an instruction's word select its row of the tables; one case for each format. -/
theorem decodeFields_of_encode {i : Instr} {w : BitVec 32} (h : encode i = some w) : decodeFields w = .ok i := by
  cases i with
  | nop | trap | eret | brk | idle | tlbiAll | tlbiAsid | tlbiVa | tlbiVaall | pressSave | pressPart | pressRestore
  | srr | srw =>
    unfold encode at h
    simp only [Option.some.injEq, encSys_eq_iff] at h
    simp [decodeFields, decodeSys, unused, h]
  | add | sub | mul | mulh | mulhu | div | divu | rem | remu | and | or | xor | andn | shl | shr | sar | rol | min
  | max | minu | maxu | seq | sne | slt | sltu | sle | sleu | clz | ctz | popc | sext | zext | bswap =>
    unfold encode at h
    simp only [Option.some.injEq, encAlu_eq_iff] at h
    simp [decodeFields, decodeAlu, unused, h]
  | addi | andi | ori | xori | slti | sltui | lih =>
    unfold encode at h
    simp only [Option.some.injEq, encI_eq_iff] at h
    simp [decodeFields, h]
  | shli | shri | sari =>
    unfold encode at h
    simp only [Option.some.injEq, encSh_eq_iff] at h
    simp [decodeFields, decodeShift, unused, h]
  | ld | ldu | st =>
    unfold encode at h
    simp only [Option.some.injEq, encM_eq_iff] at h
    simp [decodeFields, decodeMem, h]
  | amoadd | amoand | amoor | amoxor | amomin | amomax | amominu | amomaxu | amoswap | casD | casQ | fence | sbar
  | wait =>
    unfold encode at h
    simp only [Option.some.injEq, encE_eq_iff] at h
    simp [decodeFields, decodeAmo, decodeCas, decodeSync, unused, h]
  | jump | call =>
    unfold encode at h
    simp only [Option.some.injEq, encJ_eq_iff] at h
    simp [decodeFields, h]
  | beq | bne | blt | bge | bltu | bgeu =>
    unfold encode at h
    simp only [Option.some.injEq, encBC_eq_iff] at h
    simp [decodeFields, decodeBranch, h]
  | cdecl | cput | crd | crdm | crdp | settle | cclr | cstat =>
    unfold encode at h
    simp only [Option.some.injEq, encC_eq_iff, encCe_eq_iff] at h
    simp [decodeFields, decodeCurd, unused, curdLow_eq_zero_iff, h]
  | cfg | cfgw | swap | arm | drain | vwait | vstat | vkill =>
    unfold encode at h
    simp only [Option.some.injEq, encEv_eq_iff] at h
    simp [decodeFields, decodeVat, unused, h]
  | sdef | sgo | qarm | qdis | cpy | tok | trcv =>
    unfold encode at h
    simp only [Option.some.injEq, encEs_eq_iff, encEq_eq_iff] at h
    simp [decodeFields, decodeStrm, unused, h]
  | jr | callr | tail | done | hseed | htab | hpool | hstat | tev | tmark | tctl | time | tat | rcsnap =>
    unfold encode at h
    simp only [Option.some.injEq, encR_eq_iff] at h
    simp [decodeFields, decodeJump, decodeLaunch, decodeHash, decodeTrace, decodeSnap, unused, h]
  | _ => cases h

/-- What the decoder answers: the well-formed instruction of the word. -/
theorem decodeWord_eq_ok_iff {i : Instr} {w : BitVec 32} :
    decodeWord w = .ok i ↔ i.wellFormed = true ∧ encode i = some w := by
  have hfields : decodeFields w = .ok i ↔ encode i = some w := ⟨decodeFields_spells w i, decodeFields_of_encode⟩
  rw [← hfields, decodeWord]
  split
  next j hj =>
    split
    next hwf =>
      simp only [hj, Except.ok.injEq]
      exact ⟨fun h => ⟨h ▸ hwf, h⟩, And.right⟩
    next hwf =>
      simp only [hj, reduceCtorEq, Except.ok.injEq, false_iff]
      exact fun ⟨hi, h⟩ => hwf (h ▸ hi)
  next r hr => simp [hr]

/-- The four bytes of a word make it up, lowest address first (R40). -/
theorem wordOfBytes_bytes (w : BitVec 32) :
    wordOfBytes (bitsAt w 0 8) (bitsAt w 8 8) (bitsAt w 16 8) (bitsAt w 24 8) = w := by
  rw [← hasField_zero_iff]
  simp only [wordOfBytes, hasField_append]
  exact ⟨⟨⟨rfl, rfl⟩, rfl⟩, rfl⟩

theorem decodeBytes_bytesOfWord {i : Instr} {w : BitVec 32} (h : decodeWord w = .ok i) (rest : List Byte) :
    decodeBytes (bytesOfWord w ++ rest) = .ok (i, rest) := by
  simp only [bytesOfWord, List.cons_append, List.nil_append, decodeBytes, wordOfBytes_bytes, h]

end Sys2Proof
end

section
open Sys2Proof

/-- Settles O54: the encoder and the decoder are read as one list of field equations for each format of R40, which the
word's fields satisfy in both directions; well-formedness is the decoder's own last check. -/
theorem encodingRoundTrip : Obligations.EncodingRoundTrip := by
  intro i w rest
  exact ⟨fun hwf henc => decodeWord_eq_ok_iff.2 ⟨hwf, henc⟩, decodeWord_eq_ok_iff.1,
    fun h => decodeBytes_bytesOfWord h rest⟩

/-- Settles O56: each word is the one that the encoder writes for its instruction. -/
theorem decodedWords : Obligations.DecodedWords := by
  unfold Obligations.DecodedWords
  simp only [decodeWord_eq_ok_iff]
  decide
end

section
/-! SUPPORT. Returning from a trap and idling (R271, R359). -/

namespace Sys2Proof.Machine

/-- An instruction that answers a synchronous trap traps in the sense of the statements. -/
theorem traps_of_exec_trap {i : Instr} {s : State} {t : Trap} (h : exec i s = .next (s.trap t)) :
    Traps i s t.code s.cp.pc t.info := by
  obtain ⟨hstill, hmem, hcp⟩ := s.trapAt_trapped t s.cp.pc
  exact ⟨_, h, hstill, fun a => congrArg (memRead · a) hmem, hcp⟩

@[simp] theorem World.releaseQuery_mem (w : World) (c s : Nat) (whole : Bool) :
    (w.releaseQuery c s whole).mem = w.mem := by
  unfold World.releaseQuery
  dsimp only
  split
  · split <;> rfl
  · rfl

/-- The units after a privileged ERET: under DENSE the query of the stream that TINFO0 names is released. -/
def State.eretWorld (s : State) : World :=
  if s.cp.tcause.extractLsb' 0 8 = cDENSE then
    s.w.releaseQuery s.cur (s.cp.tinfo.t0.extractLsb' 0 5).toNat (s.cp.tinfo.t3.getLsbD 0)
  else s.w

theorem State.eretWorld_mem (s : State) : s.eretWorld.mem = s.w.mem := by
  unfold State.eretWorld
  split
  · exact World.releaseQuery_mem ..
  · rfl

theorem State.eretWorld_of_not_dense {s : State} (h : s.cp.tcause.extractLsb' 0 8 ≠ cDENSE) :
    s.eretWorld = s.w := if_neg h

theorem exec_eret_privileged {s : State} (h : s.cp.prv = true) :
    exec .eret s = .next ((s.withCp s.cp.leaveTrap).withWorld s.eretWorld) := by
  show execEret s = _
  simp [execEret, State.eretWorld, h]

theorem exec_eret_user {s : State} (h : s.cp.prv = false) : exec .eret s = .next (s.trap (trapPriv .eret)) := by
  show execEret s = _
  simp [execEret, h]

theorem Eng.anyPending_iff {g : Eng} : g.anyPending = true ↔ g.pend ≠ [] := by simp [Eng.anyPending]

theorem exec_idle_pending {s : State} (h : s.cp.prv = true) (hp : s.eng.pend ≠ []) :
    exec .idle s = .next (s.withCp { s.cp with mode := .running }).done := by
  show execIdle s = _
  simp [execIdle, h, Eng.anyPending_iff.2 hp]

theorem exec_idle_waiting {s : State} (h : s.cp.prv = true) (hp : s.eng.pend = []) :
    exec .idle s = .next (s.withCp { s.cp with mode := .idling }) := by
  show execIdle s = _
  simp [execIdle, h, Eng.anyPending, hp]

theorem exec_idle_user {s : State} (h : s.cp.prv = false) : exec .idle s = .next (s.trap (trapPriv .idle)) := by
  show execIdle s = _
  simp [execIdle, h]

/-- A running processor whose mode is set to running stands. -/
theorem Cp.withMode_self {c : Cp} {m : CpMode} (h : c.mode = m) : ({ c with mode := m } : Cp) = c := by
  subst h
  rfl

/-- Putting back the control processor in turn changes nothing that a statement speaks of. -/
theorem State.withCp_done_completes (s : State) :
    OthersStill s (s.withCp s.cp).done ∧ s.cp.Completed (s.withCp s.cp).done.cp 0 0 := by
  refine ⟨⟨rfl, rfl, fun k hk => ?_⟩, ?_⟩
  · exact ((s.withCp s.cp).withCp_others _ k hk).trans (s.withCp_others _ k hk)
  · rw [State.done_cp, State.withCp_cp]
    exact s.cp.completed_advance

end Sys2Proof.Machine
end

section
open Sys2Proof Sys2Proof.Machine

/-- Settles O13: each instruction answers one next state, a return from the trap, a completion, a wait in place or a PRIV
trap, and the statement lists what that state holds. -/
theorem trapReturn : Obligations.TrapReturn := by
  intro s
  refine ⟨fun hprv => ?_, fun hprv => traps_of_exec_trap (exec_eret_user hprv), ?_, fun hprv hrun hpend => ?_,
    fun hprv hpend => ?_, fun hprv => traps_of_exec_trap (exec_idle_user hprv)⟩
  · obtain ⟨h0, h1, h2, h3, h4, hrest⟩ :=
      mstatOf_bits (s.cp.mstat.getLsbD 2) (s.cp.mstat.getLsbD 3) false false s.cp.xoff
    refine ⟨_, exec_eret_privileged hprv, ⟨rfl, rfl, fun k hk => s.withCp_others _ k hk⟩, s.eretWorld_mem, ?_⟩
    rw [State.withWorld_cp, State.withCp_cp]
    exact ⟨rfl, rfl, h0, h1, h2, h3, h4, hrest, fun _ => rfl, rfl, rfl, rfl, rfl, rfl, rfl, rfl,
      State.eretWorld_of_not_dense⟩
  · obtain ⟨hstill, hcp⟩ := s.done_completes
    exact ⟨_, rfl, hstill, hcp, rfl⟩
  · obtain ⟨hstill, hcp⟩ := s.withCp_done_completes
    refine ⟨_, exec_idle_pending hprv hpend, ?_⟩
    rw [Cp.withMode_self hrun]
    exact ⟨hstill, hcp, rfl⟩
  · exact ⟨_, exec_idle_waiting hprv hpend, s.still_withCp _, State.withCp_cp _ _⟩
end

section
/-! SUPPORT. Partial values, the formats that a code names, integers of a width and their patterns (R54, R71, R96). -/

namespace Sys2Proof.Machine

/-! What a partial value is read back as. -/

/-- A pattern of `w` bits stands in every word at least as wide. -/
theorem toNat_ofNat_of_lt_pow {w n p : Nat} (hw : w ≤ n) (h : p < 2 ^ w) : (BitVec.ofNat n p).toNat = p :=
  (BitVec.toNat_ofNat ..).trans (Nat.mod_eq_of_lt (h.trans_le (Nat.pow_le_pow_right two_pos hw)))

theorem PVal.pat_ofPat {w p : Nat} (hw : w ≤ 320) (h : p < 2 ^ w) : (PVal.ofPat p).pat = p :=
  toNat_ofNat_of_lt_pow hw h

@[simp] theorem PVal.pat_ofPat_pat (v : PVal) : (PVal.ofPat v.pat).pat = v.pat := by
  simp [PVal.pat, PVal.ofPat]

/-- A register of 64 bits receives the low bits of a value. -/
theorem PVal.getLsbD_ofNat_pat (v : PVal) {i : Nat} (hi : i < 64) :
    (BitVec.ofNat 64 v.pat).getLsbD i = v.bits.getLsbD i := by
  simp [PVal.pat, hi]

/-! The formats that a code names (R54). -/

theorem fmtOfCode_width_le (k : BitVec 4) : (fmtOfCode k).width ≤ 32 := by
  revert k
  decide

theorem fmtOfCode_width_pos (k : BitVec 4) : 0 < (fmtOfCode k).width := by
  revert k
  decide

theorem Curd.width_le (c : Curd) : c.fmt.width ≤ 32 := fmtOfCode_width_le _

theorem Curd.int_width_pos {c : Curd} {n : Nat} (h : c.fmt = .int n) : 0 < n := by
  have hpos : 0 < c.fmt.width := fmtOfCode_width_pos _
  rwa [h] at hpos

/-! Integers of a width and their patterns. -/

theorem intPat_lt (w : Nat) (z : Int) : intPat w z < 2 ^ w := by
  have hpos : (0 : Int) < (2 ^ w : Nat) := by exact_mod_cast Nat.two_pow_pos w
  have hlt := Int.emod_lt_of_pos z hpos
  have hnn := Int.emod_nonneg z hpos.ne'
  unfold intPat
  omega

/-- A pattern stands for an integer that is congruent to it. -/
theorem patInt_emod (w p : Nat) : patInt w p % (2 ^ w : Nat) = (p : Int) % (2 ^ w : Nat) := by
  unfold patInt
  dsimp only
  split
  · simp
  · simp

theorem intPat_patInt_add (w p q : Nat) : intPat w (patInt w p + patInt w q) = (p + q) % 2 ^ w := by
  unfold intPat
  rw [Int.add_emod, patInt_emod, patInt_emod, ← Int.add_emod]
  exact_mod_cast Int.toNat_natCast ((p + q) % 2 ^ w)

theorem intPat_intMin {n : Nat} (hn : 0 < n) : intPat n (intMin n) = 2 ^ (n - 1) := by
  have hpos := Nat.two_pow_pos (n - 1)
  unfold intPat intMin
  rw [← Nat.two_pow_pred_mul_two hn, ← Int.add_emod_right, Int.emod_eq_of_lt (by omega) (by omega)]
  omega

theorem intPat_intMax {n : Nat} (hn : 0 < n) : intPat n (intMax n) = 2 ^ (n - 1) - 1 := by
  have hpos := Nat.two_pow_pos (n - 1)
  unfold intPat intMax
  rw [← Nat.two_pow_pred_mul_two hn, Int.emod_eq_of_lt (by omega) (by omega)]
  omega

end Sys2Proof.Machine
end

section
/-! SUPPORT. The fold of one element of a curd register, operator by operator (R71, R73, R96, R98, R99). -/

namespace Sys2Proof.Machine

/-! The fold of one element. -/

/-- The positions that hold an element, in ascending order. -/
def Curd.held (c : Curd) (e : BitVec 4) : List (Fin 8) :=
  (List.finRange 8).filter (fun j => (c.part j).present.getLsbD e.toNat)

/-- The value of an element at a position. -/
def Curd.val (c : Curd) (e : BitVec 4) (j : Fin 8) : PVal := (c.part j).vals[e.toNat]

/-- One step of the fold, with the draws of its position (R99). -/
def Curd.foldStep (c : Curd) (e : BitVec 4) (a : PVal) (j : Fin 8) : PVal :=
  (c.combine (draws c.gen.toNat e.toNat j.val).1 (draws c.gen.toNat e.toNat j.val).2 a (c.val e j)).1

/-- The value of the fold over positions that hold the element. -/
def Curd.foldHeld (c : Curd) (e : BitVec 4) : List (Fin 8) → Option PVal
  | [] => none
  | j :: rest => some (rest.foldl (c.foldStep e) (c.val e j))

section
variable {c : Curd} {e : BitVec 4}

/-- Positions that do not hold the element are passed over; the others are combined with the value so far. -/
theorem Curd.foldElem_some (js : List (Fin 8)) (a : PVal × Nat) (fs : List (FlagSet × Nat)) :
    (c.foldElem e.toNat js (some a) fs).1.map (·.1) =
      some ((js.filter (fun j => (c.part j).present.getLsbD e.toNat)).foldl (c.foldStep e) a.1) := by
  induction js generalizing a fs with
  | nil => rfl
  | cons j js ih =>
    by_cases hj : (c.part j).present.getLsbD e.toNat = true
    · rw [Curd.foldElem, if_pos hj, dif_pos e.isLt, List.filter_cons, if_pos hj]
      exact ih ..
    · rw [Curd.foldElem, if_neg hj, List.filter_cons, if_neg hj]
      exact ih ..

/-- The fold begins with the first position that holds the element. -/
theorem Curd.foldElem_none (js : List (Fin 8)) (fs : List (FlagSet × Nat)) :
    (c.foldElem e.toNat js none fs).1.map (·.1) =
      c.foldHeld e (js.filter (fun j => (c.part j).present.getLsbD e.toNat)) := by
  induction js with
  | nil => rfl
  | cons j js ih =>
    by_cases hj : (c.part j).present.getLsbD e.toNat = true
    · rw [Curd.foldElem, if_pos hj, dif_pos e.isLt, List.filter_cons, if_pos hj]
      exact Curd.foldElem_some ..
    · rw [Curd.foldElem, if_neg hj, List.filter_cons, if_neg hj]
      exact ih

theorem positionsTo_seven : positionsTo 7 = List.finRange 8 := by decide

/-- CRD folds over all eight positions (R113). -/
theorem Curd.foldElem_all : (c.foldElem e.toNat (positionsTo 7) none []).1.map (·.1) = c.foldHeld e (c.held e) := by
  rw [positionsTo_seven]
  exact Curd.foldElem_none ..

theorem Curd.foldRead_of_held_nil (h : c.held e = []) : (c.foldRead 7 e.toNat).1 = c.emptyFold := by
  have hfold := Curd.foldElem_all (c := c) (e := e)
  rw [h, Curd.foldHeld] at hfold
  unfold Curd.foldRead
  split
  next => rfl
  next heq => simp [heq] at hfold

theorem Curd.foldRead_of_held_cons {j : Fin 8} {rest : List (Fin 8)} (h : c.held e = j :: rest) :
    (c.foldRead 7 e.toNat).1 =
      (c.final (draws c.gen.toNat e.toNat 8).1 (rest.foldl (c.foldStep e) (c.val e j))).1 := by
  have hfold := Curd.foldElem_all (c := c) (e := e)
  rw [h, Curd.foldHeld] at hfold
  unfold Curd.foldRead
  split
  next heq => simp [heq] at hfold
  next heq =>
    simp only [heq, Option.map_some, Option.some.injEq] at hfold
    rw [← hfold]

/-- A read by an operator whose combination and whose final step are known. -/
theorem Curd.foldRead_eq {f : Nat → PVal → PVal → PVal} {fin : PVal → Nat} {j : Fin 8} {rest : List (Fin 8)}
    (hcombine : ∀ k a y,
      (c.combine (draws c.gen.toNat e.toNat k).1 (draws c.gen.toNat e.toNat k).2 a y).1 = f k a y)
    (hfinal : ∀ a, (c.final (draws c.gen.toNat e.toNat 8).1 a).1 = fin a) (h : c.held e = j :: rest) :
    (c.foldRead 7 e.toNat).1 = fin (rest.foldl (fun a k => f k.val a (c.val e k)) (c.val e j)) := by
  rw [Curd.foldRead_of_held_cons h, hfinal]
  congr 2
  funext a k
  exact hcombine ..

/-- A read by an operator that takes no draws depends on the values alone. -/
theorem Curd.foldRead_eq_of_vals {f : PVal → PVal → PVal} {fin : PVal → Nat} (hne : c.held e ≠ [])
    (hcombine : ∀ d0 d1 a y, (c.combine d0 d1 a y).1 = f a y) (hfinal : ∀ d0 a, (c.final d0 a).1 = fin a) :
    ∃ v vs, (c.held e).map (c.val e) = v :: vs ∧ (c.foldRead 7 e.toNat).1 = fin (vs.foldl f v) := by
  obtain ⟨j, rest, h⟩ := List.exists_cons_of_ne_nil hne
  refine ⟨c.val e j, rest.map (c.val e), by rw [h]; rfl, ?_⟩
  rw [Curd.foldRead_eq (f := fun _ => f) (fun _ _ _ => hcombine ..) (hfinal _) h, List.foldl_map]

end

/-! Combine and Final of each operator (R96). -/

section
variable {c : Curd} {d0 d1 : Nat} {a y : PVal}

theorem Curd.combine_addo (h : c.op = 0) : (c.combine d0 d1 a y).1 =
    .ofPat (round (.float c.accFmt) c.rnd d0
      (exactSum [decodeFloat c.accFmt a.pat, decodeFloat c.accFmt y.pat] c.rnd).1).1 := by
  simp [Curd.combine, h, opADDO]

theorem Curd.isXP_of_op (h : c.op = 1 ∨ c.op = 3) : c.isXP = true := by
  simpa [Curd.isXP, opADDX, opSADD] using h

theorem Curd.op_ne_zero_of_xp (h : c.op = 1 ∨ c.op = 3) : c.op ≠ opADDO := by
  unfold opADDO
  omega

theorem Curd.combine_xp (h : c.op = 1 ∨ c.op = 3) : (c.combine d0 d1 a y).1 = .ofXP (xpAdd a.xp y.xp).1 := by
  simp [Curd.combine, Curd.op_ne_zero_of_xp h, Curd.isXP_of_op h]

theorem Curd.combine_iadd (h : c.op = 2) : (c.combine d0 d1 a y).1 =
    .ofPat (intPat c.fmt.width (patInt c.fmt.width a.pat + patInt c.fmt.width y.pat)) := by
  simp [Curd.combine, Curd.isXP, h, opADDO, opADDX, opSADD, opIADD, wrapInt]

theorem Curd.combine_max (h : c.op = 4) : (c.combine d0 d1 a y).1 = .ofPat (maxPatN c.fmt a.pat y.pat) := by
  simp [Curd.combine, Curd.isXP, h, opADDO, opADDX, opSADD, opIADD, opMAX]

theorem Curd.combine_max_float {f : FloatFmt} (h : c.op = 4) (hf : c.fmt = .float f) :
    (c.combine d0 d1 a y).1 = .ofPat (maxPatF f a.pat y.pat) := by
  rw [Curd.combine_max h, hf, maxPatN]

theorem Curd.combine_min (h : c.op = 5) : (c.combine d0 d1 a y).1 = .ofPat (minPatN c.fmt a.pat y.pat) := by
  simp [Curd.combine, Curd.isXP, h, opADDO, opADDX, opSADD, opIADD, opMAX, opMIN]

theorem Curd.combine_min_float {f : FloatFmt} (h : c.op = 5) (hf : c.fmt = .float f) :
    (c.combine d0 d1 a y).1 = .ofPat (minPatF f a.pat y.pat) := by
  rw [Curd.combine_min h, hf, minPatN]

theorem Curd.combine_and (h : c.op = 6) : (c.combine d0 d1 a y).1 = ⟨0, a.bits &&& y.bits⟩ := by
  simp [Curd.combine, Curd.isXP, h, opADDO, opADDX, opSADD, opIADD, opMAX, opMIN, opAND]

theorem Curd.combine_or (h : c.op = 7) : (c.combine d0 d1 a y).1 = ⟨0, a.bits ||| y.bits⟩ := by
  simp [Curd.combine, Curd.isXP, h, opADDO, opADDX, opSADD, opIADD, opMAX, opMIN, opAND, opOR]

theorem Curd.combine_xor (h : c.op = 8) : (c.combine d0 d1 a y).1 = ⟨0, a.bits ^^^ y.bits⟩ := by
  simp [Curd.combine, Curd.isXP, h, opADDO, opADDX, opSADD, opIADD, opMAX, opMIN, opAND, opOR, opXOR]

theorem Curd.combine_first (h : c.op = 9) : (c.combine d0 d1 a y).1 = a := by
  simp [Curd.combine, Curd.isXP, h, opADDO, opADDX, opSADD, opIADD, opMAX, opMIN, opAND, opOR, opXOR, opAFF]

/-- The later pair comes first in the composition. -/
theorem Curd.combine_aff (h : c.op = 10) : (c.combine d0 d1 a y).1 = .ofPair
    (round (.float f32Fmt) c.rnd d0 ((decodeFloat f32Fmt y.fst).mul (decodeFloat f32Fmt a.fst)).1).1
    (round (.float f32Fmt) c.rnd d1 (exactSum [((decodeFloat f32Fmt y.fst).mul (decodeFloat f32Fmt a.snd)).1,
      decodeFloat f32Fmt y.snd] c.rnd).1).1 := by
  simp [Curd.combine, Curd.isXP, h, opADDO, opADDX, opSADD, opIADD, opMAX, opMIN, opAND, opOR, opXOR, opAFF]

theorem Curd.final_addo (h : c.op = 0) :
    (c.final d0 a).1 = (round c.fmt c.rnd d0 (decodeFloat c.accFmt a.pat)).1 := by
  simp [Curd.final, h, opADDO]

theorem Curd.final_xp (h : c.op = 1 ∨ c.op = 3) :
    (c.final d0 a).1 = (round c.fmt c.rnd d0 (xpVal a.xp)).1 := by
  simp [Curd.final, Curd.op_ne_zero_of_xp h, Curd.isXP_of_op h, xpRead]

theorem Curd.final_aff (h : c.op = 10) : (c.final d0 a).1 = a.fst + a.snd * 2 ^ 32 := by
  simp [Curd.final, Curd.isXP, Curd.isAff, h, opADDO, opADDX, opSADD, opAFF]

/-- The operators on patterns give the value folded as it is. -/
theorem Curd.final_pat (h : c.op = 2 ∨ 4 ≤ c.op ∧ c.op ≤ 9) : (c.final d0 a).1 = a.pat := by
  have h0 : c.op ≠ 0 := by omega
  have h1 : c.op ≠ 1 := by omega
  have h3 : c.op ≠ 3 := by omega
  have h10 : c.op ≠ 10 := by omega
  simp [Curd.final, Curd.isXP, Curd.isAff, h0, h1, h3, h10, opADDO, opADDX, opSADD, opAFF]

/-! The empty fold of each operator (R96). -/

theorem Curd.emptyFold_zero (h : c.op ≤ 3 ∨ 7 ≤ c.op ∧ c.op ≤ 9) : c.emptyFold = 0 := by
  have h4 : c.op ≠ 4 := by omega
  have h5 : c.op ≠ 5 := by omega
  have h6 : c.op ≠ 6 := by omega
  have h10 : c.op ≠ 10 := by omega
  simp [Curd.emptyFold, h4, h5, h6, h10, opMAX, opMIN, opAND, opAFF]

theorem Curd.emptyFold_and (h : c.op = 6) : c.emptyFold = 2 ^ c.fmt.width - 1 := by
  simp [Curd.emptyFold, h, opMAX, opMIN, opAND]

theorem Curd.emptyFold_aff (h : c.op = 10) : c.emptyFold = 0x3F800000 := by
  simp [Curd.emptyFold, h, opMAX, opMIN, opAND, opAFF]

theorem Curd.emptyFold_max_int {n : Nat} (h : c.op = 4) (hf : c.fmt = .int n) : c.emptyFold = 2 ^ (n - 1) := by
  simp [Curd.emptyFold, h, hf, opMAX, intPat_intMin (Curd.int_width_pos hf)]

theorem Curd.emptyFold_max_float {f : FloatFmt} (h : c.op = 4) (hf : c.fmt = .float f) :
    c.emptyFold = f.signPat true + f.infPat := by
  simp [Curd.emptyFold, h, hf, opMAX]

theorem Curd.emptyFold_min_int {n : Nat} (h : c.op = 5) (hf : c.fmt = .int n) : c.emptyFold = 2 ^ (n - 1) - 1 := by
  simp [Curd.emptyFold, h, hf, opMAX, opMIN, intPat_intMax (Curd.int_width_pos hf)]

theorem Curd.emptyFold_min_float {f : FloatFmt} (h : c.op = 5) (hf : c.fmt = .float f) : c.emptyFold = f.infPat := by
  simp [Curd.emptyFold, h, hf, opMAX, opMIN]

end

/-! Folds of values by the operators that take no draws. -/

/-- Wrapping sums are a sum modulo the width. -/
theorem foldl_iadd_mod {w : Nat} (hw : w ≤ 320) (v : PVal) (vs : List PVal) :
    (vs.foldl (fun a y => PVal.ofPat (intPat w (patInt w a.pat + patInt w y.pat))) v).pat % 2 ^ w =
      ((v :: vs).map (·.pat)).sum % 2 ^ w := by
  induction vs generalizing v with
  | nil => simp
  | cons y vs ih =>
    have hstep : (PVal.ofPat (intPat w (patInt w v.pat + patInt w y.pat))).pat = (v.pat + y.pat) % 2 ^ w := by
      rw [PVal.pat_ofPat hw (intPat_lt ..), intPat_patInt_add]
    rw [List.foldl_cons, ih, List.map_cons, List.sum_cons, hstep, Nat.mod_add_mod, Nat.add_assoc]
    rfl

/-- An operation that keeps the one of two values with the greater key keeps one with the greatest key of all. -/
theorem foldl_greatest {f : PVal → PVal → PVal} (key : Nat → Int)
    (hf : ∀ a y, (f a y).pat = if key y.pat ≤ key a.pat then a.pat else y.pat) (v : PVal) (vs : List PVal) :
    ∃ g ∈ v :: vs, (vs.foldl f v).pat = g.pat ∧ ∀ y ∈ v :: vs, key y.pat ≤ key g.pat := by
  induction vs generalizing v with
  | nil => exact ⟨v, List.mem_singleton_self v, rfl, fun y hy => by rw [List.mem_singleton.1 hy]⟩
  | cons y vs ih =>
    have hstep : ∃ k ∈ [v, y], (f v y).pat = k.pat ∧ key v.pat ≤ key k.pat ∧ key y.pat ≤ key k.pat := by
      rw [hf]
      split
      · exact ⟨v, by simp, rfl, le_rfl, ‹_›⟩
      · exact ⟨y, by simp, rfl, by omega, le_rfl⟩
    obtain ⟨k, hk, hpat, hv, hy⟩ := hstep
    obtain ⟨g, hg, hfold, hmax⟩ := ih (f v y)
    have hkg : key k.pat ≤ key g.pat := hpat ▸ hmax _ List.mem_cons_self
    have hall : ∀ z ∈ v :: y :: vs, key z.pat ≤ key g.pat := by
      simp only [List.forall_mem_cons]
      exact ⟨hv.trans hkg, hy.trans hkg, fun z hz => hmax z (List.mem_cons_of_mem _ hz)⟩
    rcases List.mem_cons.1 hg with rfl | hg
    · exact ⟨k, List.mem_append_left vs hk, hfold.trans hpat, hpat ▸ hall⟩
    · exact ⟨g, by simp [hg], hfold, hall⟩

section
variable (i : Nat)

theorem foldl_and_bits (v : PVal) (vs : List PVal) :
    (vs.foldl (fun a y => ⟨0, a.bits &&& y.bits⟩) v).bits.getLsbD i = true ↔
      ∀ y ∈ v :: vs, y.bits.getLsbD i = true := by
  induction vs generalizing v with
  | nil => simp
  | cons y vs ih =>
    rw [List.foldl_cons, ih]
    simp [and_assoc]

theorem foldl_or_bits (v : PVal) (vs : List PVal) :
    (vs.foldl (fun a y => ⟨0, a.bits ||| y.bits⟩) v).bits.getLsbD i = true ↔
      ∃ y ∈ v :: vs, y.bits.getLsbD i = true := by
  induction vs generalizing v with
  | nil => simp
  | cons y vs ih =>
    rw [List.foldl_cons, ih]
    simp [or_assoc]

theorem foldl_xor_bits (v : PVal) (vs : List PVal) :
    (vs.foldl (fun a y => ⟨0, a.bits ^^^ y.bits⟩) v).bits.getLsbD i = true ↔
      ((v :: vs).filter (fun y => y.bits.getLsbD i)).length % 2 = 1 := by
  induction vs generalizing v with
  | nil => cases hv : v.bits.getLsbD i <;> simp [hv]
  | cons y vs ih =>
    rw [List.foldl_cons, ih]
    cases hv : v.bits.getLsbD i <;> cases hy : y.bits.getLsbD i <;> simp [hv, hy]
    omega

end

/-! What a read gives, operator by operator. -/

section
variable {c : Curd} {e : BitVec 4}

theorem Curd.foldRead_iadd (h : c.op = 2) (hne : c.held e ≠ []) :
    (BitVec.ofNat 64 (c.foldRead 7 e.toNat).1).toNat % 2 ^ c.fmt.width =
      (((c.held e).map (c.val e)).map (·.pat)).sum % 2 ^ c.fmt.width := by
  have hw := c.width_le
  obtain ⟨v, vs, hvals, hread⟩ := Curd.foldRead_eq_of_vals hne
    (fun _ _ _ _ => Curd.combine_iadd h) (fun _ _ => Curd.final_pat (.inl h))
  rw [hvals, hread, BitVec.toNat_ofNat, Nat.mod_mod_of_dvd _ (Nat.pow_dvd_pow 2 (hw.trans (by decide)))]
  exact foldl_iadd_mod (hw.trans (by decide)) v vs

theorem Curd.foldRead_max_int {n : Nat} (h : c.op = 4) (hf : c.fmt = .int n) (hne : c.held e ≠ []) :
    ∃ g ∈ (c.held e).map (c.val e), (c.foldRead 7 e.toNat).1 = g.pat ∧
      ∀ y ∈ (c.held e).map (c.val e), patInt n y.pat ≤ patInt n g.pat := by
  obtain ⟨v, vs, hvals, hread⟩ := Curd.foldRead_eq_of_vals hne
    (fun _ _ _ _ => Curd.combine_max h) (fun _ _ => Curd.final_pat (.inr (by omega)))
  rw [hvals, hread]
  refine foldl_greatest (patInt n) (fun a y => ?_) v vs
  simp only [hf, maxPatN]
  split <;> simp

theorem Curd.foldRead_min_int {n : Nat} (h : c.op = 5) (hf : c.fmt = .int n) (hne : c.held e ≠ []) :
    ∃ g ∈ (c.held e).map (c.val e), (c.foldRead 7 e.toNat).1 = g.pat ∧
      ∀ y ∈ (c.held e).map (c.val e), patInt n g.pat ≤ patInt n y.pat := by
  obtain ⟨v, vs, hvals, hread⟩ := Curd.foldRead_eq_of_vals hne
    (fun _ _ _ _ => Curd.combine_min h) (fun _ _ => Curd.final_pat (.inr (by omega)))
  rw [hvals, hread]
  have hstep : ∀ a y : PVal, (PVal.ofPat (minPatN c.fmt a.pat y.pat)).pat =
      if -patInt n y.pat ≤ -patInt n a.pat then a.pat else y.pat := by
    intro a y
    simp only [hf, minPatN, neg_le_neg_iff]
    split <;> simp
  obtain ⟨g, hg, hfold, hmin⟩ := foldl_greatest (fun p => -patInt n p) hstep v vs
  exact ⟨g, hg, hfold, fun y hy => neg_le_neg_iff.1 (hmin y hy)⟩

theorem Curd.foldRead_and (h : c.op = 6) (hne : c.held e ≠ []) {i : Nat} (hi : i < 64) :
    (BitVec.ofNat 64 (c.foldRead 7 e.toNat).1).getLsbD i = true ↔
      ∀ y ∈ (c.held e).map (c.val e), y.bits.getLsbD i = true := by
  obtain ⟨v, vs, hvals, hread⟩ := Curd.foldRead_eq_of_vals hne
    (fun _ _ _ _ => Curd.combine_and h) (fun _ _ => Curd.final_pat (.inr (by omega)))
  rw [hvals, hread, PVal.getLsbD_ofNat_pat _ hi, foldl_and_bits]

theorem Curd.foldRead_or (h : c.op = 7) (hne : c.held e ≠ []) {i : Nat} (hi : i < 64) :
    (BitVec.ofNat 64 (c.foldRead 7 e.toNat).1).getLsbD i = true ↔
      ∃ y ∈ (c.held e).map (c.val e), y.bits.getLsbD i = true := by
  obtain ⟨v, vs, hvals, hread⟩ := Curd.foldRead_eq_of_vals hne
    (fun _ _ _ _ => Curd.combine_or h) (fun _ _ => Curd.final_pat (.inr (by omega)))
  rw [hvals, hread, PVal.getLsbD_ofNat_pat _ hi, foldl_or_bits]

theorem Curd.foldRead_xor (h : c.op = 8) (hne : c.held e ≠ []) {i : Nat} (hi : i < 64) :
    (BitVec.ofNat 64 (c.foldRead 7 e.toNat).1).getLsbD i = true ↔
      (((c.held e).map (c.val e)).filter (fun y => y.bits.getLsbD i)).length % 2 = 1 := by
  obtain ⟨v, vs, hvals, hread⟩ := Curd.foldRead_eq_of_vals hne
    (fun _ _ _ _ => Curd.combine_xor h) (fun _ _ => Curd.final_pat (.inr (by omega)))
  rw [hvals, hread, PVal.getLsbD_ofNat_pat _ hi, foldl_xor_bits]

end

end Sys2Proof.Machine
end

section
/-! SUPPORT. CRD of a declared register whose positions are closed (R104, R113). -/

namespace Sys2Proof.Machine

/-- The bits of one element among those that a read folds. -/
theorem Curd.readAll_bits (c : Curd) (k : Nat) {e : Nat} (he : e < c.numElems) :
    (c.readAll k).1.getD e 0 = (c.foldRead k e).1 := by
  simp [Curd.readAll, List.getD_eq_getElem?_getD, he]

theorem Curd.allClosed_seven {c : Curd}
    (h : ∀ j : Fin 8, c.mask.getLsbD j.val = true → (c.part j).closed = true) : c.allClosed 7 = true := by
  simp only [Curd.allClosed, List.all_eq_true, Bool.or_eq_true, Bool.not_eq_true']
  intro j _
  cases hj : c.mask.getLsbD j.val
  · exact .inl rfl
  · exact .inr (h j hj)

/-- An element of a pair register is one of eight. -/
theorem Curd.lt_numElems {c : Curd} {e : BitVec 4} (h : c.isAff = true → e.toNat < 8) : e.toNat < c.numElems := by
  unfold Curd.numElems
  split
  · exact h ‹_›
  · exact e.isLt

/-- A read by `.all` of closed positions finishes with the fold, unless PTRAP is set. -/
theorem State.curdRead_closed {s : State} {c : CurdReg} {d : Reg} {e : Nat} (he : e < (s.curd c).numElems)
    (hclosed : (s.curd c).allClosed 7 = true) (hptrap : s.cp.ptrap = false) :
    s.curdRead c d 7 e true =
      (s.withCurd c ((s.curd c).readAll 7).2.1).finish d (BitVec.ofNat 64 ((s.curd c).foldRead 7 e).1) := by
  rw [← Curd.readAll_bits _ 7 he]
  simp [State.curdRead, hclosed, hptrap]

theorem State.withCurd_finish_completes (s : State) (c : CurdReg) (x : Curd) (d : Reg) (v : Word) :
    OthersStill s ((s.withCurd c x).finish d v) ∧ s.cp.Completed ((s.withCurd c x).finish d v).cp d v := by
  obtain ⟨hstill, hcp⟩ := (s.withCurd c x).finish_wrote d v
  exact ⟨⟨hstill.schedule, hstill.cur, hstill.others⟩, hcp⟩

theorem crd_completes_of_closed {s : State} {c : CurdReg} {d : Reg} {e : BitVec 4} (hgen : (s.curd c).gen ≠ 0)
    (hptrap : s.cp.curdctl.getLsbD 0 = false) (he : (s.curd c).isAff = true → e.toNat < 8)
    (hclosed : ∀ j : Fin 8, (s.curd c).mask.getLsbD j.val = true → ((s.curd c).part j).closed = true) :
    Completes (.crd c d e 0) s d (BitVec.ofNat 64 ((s.curd c).foldRead 7 e.toNat).1) (fun t => t.w.mem = s.w.mem) := by
  obtain ⟨hstill, hcp⟩ := s.withCurd_finish_completes c ((s.curd c).readAll 7).2.1 d
    (BitVec.ofNat 64 ((s.curd c).foldRead 7 e.toNat).1)
  refine ⟨_, ?_, hstill, hcp, rfl⟩
  rw [← State.curdRead_closed (Curd.lt_numElems he) (Curd.allClosed_seven hclosed) hptrap]
  have hpair : ¬ ((s.curd c).isAff && decide (7 < e.toNat)) = true := by
    simpa [Nat.lt_succ_iff] using he
  have hdeclared : (s.curd c).declared = true := bne_iff_ne.2 hgen
  show execCrd c d e 0 s = _
  simp [execCrd, hpair, hdeclared]

end Sys2Proof.Machine
end

section
open Sys2Proof Sys2Proof.Machine

/-- Settles O20: CRD completes with the fold over the positions that hold its element, and each operator's combination and
final step say what that fold is. -/
theorem curdFolds : Obligations.CurdFolds := by
  intro s c d e r op fmt held vals draw draw2 reads folds f32 hgen hptrap _ haff hclosed
  have hread : ∀ {n}, (r.foldRead 7 e.toNat).1 = n → reads (BitVec.ofNat 64 n) := by
    rintro n rfl
    exact crd_completes_of_closed hgen hptrap (fun h => haff (eq_of_beq h)) hclosed
  have hfolds : ∀ {f fin},
      (∀ k a y, (r.combine (draws r.gen.toNat e.toNat k).1 (draws r.gen.toNat e.toNat k).2 a y).1 = f k a y) →
      (∀ a, (r.final (draws r.gen.toNat e.toNat 8).1 a).1 = fin a) → folds f fin :=
    fun hcombine hfinal j rest h => hread (Curd.foldRead_eq hcombine hfinal h)
  refine ⟨fun hnone => ?_, fun hsome => ?_,
    fun hop => hfolds (fun _ _ _ => Curd.combine_addo hop) (fun _ => Curd.final_addo hop),
    fun hop => hfolds (fun _ _ _ => Curd.combine_xp hop) (fun _ => Curd.final_xp hop),
    fun n (hn : r.fmt = .float n) => ⟨fun (hop : r.op = 4) => ?_, fun (hop : r.op = 5) => ?_⟩,
    fun hop => hfolds (fun _ _ _ => Curd.combine_aff hop) (fun _ => Curd.final_aff hop)⟩
  · have hempty : ∀ {n}, r.emptyFold = n → reads (BitVec.ofNat 64 n) :=
      fun h => hread ((Curd.foldRead_of_held_nil hnone).trans h)
    refine ⟨fun (hop : r.op = 0 ∨ r.op = 1 ∨ r.op = 2 ∨ r.op = 3 ∨ r.op = 7 ∨ r.op = 8 ∨ r.op = 9) =>
        hempty (Curd.emptyFold_zero (by omega)),
      fun hop => hempty (Curd.emptyFold_and hop), fun hop => hempty (Curd.emptyFold_aff hop), fun hop => ?_, fun hop => ?_⟩
    · have hmax : ∀ {f : FloatFmt} {n}, f.signPat true + f.infPat = n → r.fmt = .float f → reads (BitVec.ofNat 64 n) :=
        fun hn hf => hempty ((Curd.emptyFold_max_float hop hf).trans hn)
      exact ⟨fun n hn => hempty (Curd.emptyFold_max_int hop hn), hmax (by decide), hmax (by decide), hmax (by decide)⟩
    · have hmin : ∀ {f : FloatFmt} {n}, f.infPat = n → r.fmt = .float f → reads (BitVec.ofNat 64 n) :=
        fun hn hf => hempty ((Curd.emptyFold_min_float hop hf).trans hn)
      exact ⟨fun n hn => hempty (Curd.emptyFold_min_int hop hn), hmin (by decide), hmin (by decide), hmin (by decide)⟩
  · refine ⟨fun hop => ⟨_, hread rfl, Curd.foldRead_iadd hop hsome⟩, fun n hn => ⟨fun hop => ?_, fun hop => ?_⟩,
      fun hop => ⟨_, hread rfl, fun i hi => Curd.foldRead_and hop hsome hi⟩,
      fun hop => ⟨_, hread rfl, fun i hi => Curd.foldRead_or hop hsome hi⟩,
      fun hop => ⟨_, hread rfl, fun i hi => Curd.foldRead_xor hop hsome hi⟩,
      fun (hop : r.op = 9) => hfolds (fun _ _ _ => Curd.combine_first hop) (fun _ => Curd.final_pat (by omega))⟩
    · obtain ⟨g, hg, hfold, hmax⟩ := Curd.foldRead_max_int hop hn hsome
      exact ⟨g, hg, hread hfold, hmax⟩
    · obtain ⟨g, hg, hfold, hmin⟩ := Curd.foldRead_min_int hop hn hsome
      exact ⟨g, hg, hread hfold, hmin⟩
  · exact hfolds (f := fun _ a y => .ofPat (maxPatF n a.pat y.pat)) (fin := PVal.pat)
      (fun _ _ _ => Curd.combine_max_float hop hn) (fun _ => Curd.final_pat (by omega))
  · exact hfolds (f := fun _ a y => .ofPat (minPatF n a.pat y.pat)) (fin := PVal.pat)
      (fun _ _ _ => Curd.combine_min_float hop hn) (fun _ => Curd.final_pat (by omega))
end

section
/-! SUPPORT. What the arithmetic of a fold raises: every sticky flag but POISON (R65, R101). -/

namespace Sys2Proof.Machine

/-- POISON is not among the flags. -/
def NoPoison (f : FlagSet) : Prop := f.getLsbD 5 = false

theorem noPoison_zero : NoPoison 0 := rfl
theorem noPoison_inv : NoPoison flagInv := rfl
theorem noPoison_ovf : NoPoison flagOvf := rfl
theorem noPoison_unf : NoPoison flagUnf := rfl
theorem noPoison_inx : NoPoison flagInx := rfl
theorem noPoison_sat : NoPoison flagSat := rfl

theorem NoPoison.or {f g : FlagSet} (hf : NoPoison f) (hg : NoPoison g) : NoPoison (f ||| g) := by
  unfold NoPoison at *
  rw [BitVec.getLsbD_or, hf, hg]
  rfl

theorem NoPoison.ite {P : Prop} [Decidable P] {f g : FlagSet} (hf : NoPoison f) (hg : NoPoison g) :
    NoPoison (if P then f else g) := by
  split
  · exact hf
  · exact hg

theorem NoPoison.flagIf {f : FlagSet} (hf : NoPoison f) (b : Bool) : NoPoison (flagIf b f) := hf.ite noPoison_zero

theorem signallingFlag_noPoison (fmt : NumFmt) (ps : List Nat) : NoPoison (signallingFlag fmt ps) := noPoison_inv.flagIf _

theorem Val.mul_noPoison (a b : Val) : NoPoison (a.mul b).2 := by
  unfold Val.mul
  split
  · exact noPoison_zero
  · exact noPoison_zero
  · exact noPoison_zero
  · split
    · exact noPoison_inv
    · exact noPoison_zero
  · split
    · exact noPoison_inv
    · exact noPoison_zero
  · exact noPoison_zero

theorem exactSum_noPoison (xs : List Val) (mode : RMode) : NoPoison (exactSum xs mode).2 := by
  unfold exactSum
  dsimp only
  split_ifs
  · exact noPoison_zero
  · exact noPoison_inv
  all_goals exact noPoison_zero

theorem overflowPat_noPoison (f : FloatFmt) (mode : RMode) (neg : Bool) : NoPoison (overflowPat f mode neg).2 := by
  unfold overflowPat
  split
  · exact noPoison_ovf.or noPoison_inx
  · exact noPoison_sat.or noPoison_inx

theorem roundFloat_noPoison (f : FloatFmt) (mode : RMode) (draw : Nat) (neg : Bool) (m : Nat) (e : Int) :
    NoPoison (roundFloat f mode draw neg m e).2 := by
  unfold roundFloat
  dsimp only
  split_ifs
  · exact noPoison_zero
  · exact overflowPat_noPoison ..
  · exact noPoison_zero
  · exact noPoison_inx.or (noPoison_unf.flagIf _)

theorem satInt_noPoison (w : Nat) (z : Int) : NoPoison (satInt w z).2 := by
  unfold satInt
  split_ifs
  · exact noPoison_sat
  · exact noPoison_sat
  · exact noPoison_zero

theorem round_noPoison (fmt : NumFmt) (mode : RMode) (draw : Nat) (x : Val) : NoPoison (round fmt mode draw x).2 := by
  unfold round
  split
  · exact noPoison_inv
  · exact noPoison_sat
  · exact (satInt_noPoison ..).or (noPoison_inx.flagIf _)
  · split
    · exact noPoison_zero
    · exact noPoison_inv
  · split
    · exact noPoison_zero
    · exact noPoison_sat
  · exact roundFloat_noPoison ..

theorem xpOfInt_noPoison (z : Int) : NoPoison (xpOfInt z).2 := by
  unfold xpOfInt
  split_ifs
  · exact noPoison_ovf
  · exact noPoison_ovf
  · exact noPoison_zero

theorem xpAdd_noPoison (a b : XP) : NoPoison (xpAdd a b).2 := by
  unfold xpAdd
  split_ifs
  · exact noPoison_zero
  · exact noPoison_inv
  · exact noPoison_zero
  · exact noPoison_zero
  · exact xpOfInt_noPoison _

/-- Combining two values raises no POISON, whatever the operator (R96). -/
theorem Curd.combine_noPoison (c : Curd) (d0 d1 : Nat) (a x : PVal) : NoPoison (c.combine d0 d1 a x).2 := by
  unfold Curd.combine
  dsimp only
  split_ifs
  · exact ((exactSum_noPoison ..).or (round_noPoison ..)).or (noPoison_inv.flagIf _)
  · exact xpAdd_noPoison ..
  · exact noPoison_ovf.flagIf _
  · exact signallingFlag_noPoison ..
  · exact signallingFlag_noPoison ..
  · exact noPoison_zero
  · exact noPoison_zero
  · exact noPoison_zero
  · exact (((((Val.mul_noPoison ..).or (round_noPoison ..)).or (Val.mul_noPoison ..)).or (exactSum_noPoison ..)).or
      (round_noPoison ..)).or (signallingFlag_noPoison ..)
  · exact noPoison_zero

theorem Curd.final_noPoison (c : Curd) (d0 : Nat) (a : PVal) : NoPoison (c.final d0 a).2 := by
  unfold Curd.final
  split_ifs
  · exact (round_noPoison ..).or (noPoison_inv.flagIf _)
  · exact round_noPoison ..
  · exact noPoison_zero
  · exact noPoison_zero

/-- None of the flags that a fold raises at positions is POISON. -/
def NoneIsPoison (fs : List (FlagSet × Nat)) : Prop := ∀ q ∈ fs, NoPoison q.1

theorem NoneIsPoison.append {fs : List (FlagSet × Nat)} (h : NoneIsPoison fs) {f : FlagSet} (hf : NoPoison f) (j : Nat) :
    NoneIsPoison (fs ++ [(f, j)]) := by
  intro q hq
  rcases List.mem_append.1 hq with hq | hq
  · exact h q hq
  · rw [List.mem_singleton.1 hq]
    exact hf

theorem Curd.foldElem_noneIsPoison {c : Curd} {e : Nat} (js : List (Fin 8)) {acc : Option (PVal × Nat)}
    {fs : List (FlagSet × Nat)} (h : NoneIsPoison fs) : NoneIsPoison (c.foldElem e js acc fs).2 := by
  induction js generalizing acc fs with
  | nil => exact h
  | cons j js ih =>
    unfold Curd.foldElem
    dsimp only
    split
    · split
      · split
        · exact ih h
        · exact ih (h.append (Curd.combine_noPoison ..) _)
      · exact ih h
    · exact ih h

theorem noneIsPoison_nil : NoneIsPoison [] := fun _ h => nomatch h

theorem Curd.foldRead_noneIsPoison (c : Curd) (k e : Nat) : NoneIsPoison (c.foldRead k e).2 := by
  have h := Curd.foldElem_noneIsPoison (c := c) (e := e) (positionsTo k) (acc := none) noneIsPoison_nil
  unfold Curd.foldRead
  split
  next heq => rwa [heq] at h
  next heq =>
    rw [heq] at h
    exact h.append (Curd.final_noPoison ..) _

end Sys2Proof.Machine
end

section
/-! SUPPORT. The combine record: where POISON was recorded first, and what recording leaves (R101). -/

namespace Sys2Proof.Machine

/-- Everything of a curd register but its combine record is as it was. -/
structure Curd.SameButRecord (c d : Curd) : Prop where
  decl : d.decl = c.decl
  binds : d.binds = c.binds
  gen : d.gen = c.gen
  parts : d.parts = c.parts
  src : d.src = c.src
  cputs : d.cputs = c.cputs

theorem Curd.recordAll_keeps (c : Curd) (fs : List (FlagSet × Nat)) : c.SameButRecord (c.recordAll fs) := by
  induction fs generalizing c with
  | nil => exact ⟨rfl, rfl, rfl, rfl, rfl, rfl⟩
  | cons q fs ih =>
    obtain ⟨hd, hb, hg, hp, hs, hc⟩ := ih (c.record q.1 q.2)
    exact ⟨hd, hb, hg, hp, hs, hc⟩

/-- POISON stands in the combine record at a position up to `n`. -/
def Curd.PoisonBy (c : Curd) (n : Nat) : Prop := c.arose.getLsbD 5 = true ∧ (c.first.get 5).toNat ≤ n

/-- Recording keeps the lower position. -/
theorem Curd.poisonBy_record {c : Curd} {f : FlagSet} {j : Nat} (hj : f.getLsbD 5 = true → j < 8) (n : Nat) :
    (c.record f j).PoisonBy n ↔ c.PoisonBy n ∨ f.getLsbD 5 = true ∧ j ≤ n := by
  have hfirst : (c.record f j).first.get 5 =
      if f.getLsbD 5 then (if c.arose.getLsbD 5 && (c.first.get 5).toNat ≤ j then c.first.get 5 else BitVec.ofNat 3 j)
      else c.first.get 5 := by
    simp [Curd.record]
  have harose : (c.record f j).arose.getLsbD 5 = (c.arose.getLsbD 5 || f.getLsbD 5) := BitVec.getLsbD_or ..
  unfold Curd.PoisonBy
  rw [hfirst, harose]
  cases hf : f.getLsbD 5
  · simp
  · have hlt : j % 8 = j := Nat.mod_eq_of_lt (hj hf)
    cases ha : c.arose.getLsbD 5
    · simp [hlt]
    · by_cases hle : (c.first.get 5).toNat ≤ j
      · simp [hle]
        omega
      · simp [hle, hlt]
        omega

theorem Curd.poisonBy_recordAll {fs : List (FlagSet × Nat)} (hfs : ∀ q ∈ fs, q.1.getLsbD 5 = true → q.2 < 8) (c : Curd)
    (n : Nat) : (c.recordAll fs).PoisonBy n ↔ c.PoisonBy n ∨ ∃ q ∈ fs, q.1.getLsbD 5 = true ∧ q.2 ≤ n := by
  induction fs generalizing c with
  | nil => simp [Curd.recordAll]
  | cons q fs ih =>
    rw [List.forall_mem_cons] at hfs
    obtain ⟨hq, hfs⟩ := hfs
    rw [Curd.recordAll, ih hfs, Curd.poisonBy_record hq, or_assoc]
    simp

/-! POISON among the partials that a read folds. -/

theorem flagPoison_bit : flagPoison.getLsbD 5 = true := rfl

/-- A position up to `k` is poisoned. -/
def Curd.PoisonTo (c : Curd) (k : Nat) : Prop := ∃ j : Fin 8, j.val ≤ k ∧ (c.part j).flags &&& flagPoison ≠ 0

theorem mem_positionsTo {k : Nat} {j : Fin 8} : j ∈ positionsTo k ↔ j.val ≤ k := by
  simp [positionsTo]

theorem Curd.mem_poisonFlags {c : Curd} {k : Nat} {q : FlagSet × Nat} :
    q ∈ c.poisonFlags k ↔ ∃ j : Fin 8, j.val ≤ k ∧ (c.part j).flags &&& flagPoison ≠ 0 ∧ (flagPoison, j.val) = q := by
  simp only [Curd.poisonFlags, List.mem_filterMap, mem_positionsTo, bne_iff_ne, Option.ite_none_right_eq_some,
    Option.some.injEq]

/-- The flags that a read records: those of the folds, and POISON of the poisoned positions. -/
theorem Curd.readAll_record (c : Curd) (k : Nat) : ∃ fs, NoneIsPoison fs ∧
    (c.readAll k).2.1 = c.recordAll (fs ++ c.poisonFlags k) := by
  refine ⟨_, fun q hq => ?_, rfl⟩
  simp only [List.mem_flatten, List.mem_map] at hq
  obtain ⟨_, ⟨_, ⟨e, _, rfl⟩, rfl⟩, hq⟩ := hq
  exact c.foldRead_noneIsPoison k e q hq

theorem Curd.readAll_keeps (c : Curd) (k : Nat) : c.SameButRecord (c.readAll k).2.1 := Curd.recordAll_keeps ..

/-- A read says that its fold recorded POISON exactly when a position is poisoned. -/
theorem Curd.readAll_poison_iff (c : Curd) (k : Nat) : (c.readAll k).2.2 = true ↔ c.PoisonTo k := by
  have h : (c.readAll k).2.2 = !(c.poisonFlags k).isEmpty := rfl
  rw [h, Bool.not_eq_true', List.isEmpty_eq_false_iff_exists_mem]
  simp only [Curd.mem_poisonFlags]
  exact ⟨fun ⟨_, j, hj, hp, _⟩ => ⟨j, hj, hp⟩, fun ⟨j, hj, hp⟩ => ⟨_, j, hj, hp, rfl⟩⟩

theorem Curd.poisonBy_readAll (c : Curd) (k n : Nat) : (c.readAll k).2.1.PoisonBy n ↔
    c.PoisonBy n ∨ ∃ j : Fin 8, j.val ≤ k ∧ (c.part j).flags &&& flagPoison ≠ 0 ∧ j.val ≤ n := by
  obtain ⟨fs, hfs, hread⟩ := c.readAll_record k
  have hno : ∀ q ∈ fs, ¬ q.1.getLsbD 5 = true := fun q hq h => by
    rw [hfs q hq] at h
    cases h
  rw [hread, Curd.poisonBy_recordAll]
  · refine or_congr_right ⟨fun ⟨q, hq, h5, hn⟩ => ?_, fun ⟨j, hj, hp, hn⟩ => ?_⟩
    · rcases List.mem_append.1 hq with hq | hq
      · exact absurd h5 (hno q hq)
      · obtain ⟨j, hj, hp, rfl⟩ := Curd.mem_poisonFlags.1 hq
        exact ⟨j, hj, hp, hn⟩
    · exact ⟨(flagPoison, j.val), List.mem_append_right _ (Curd.mem_poisonFlags.2 ⟨j, hj, hp, rfl⟩), flagPoison_bit, hn⟩
  · intro q hq h5
    rcases List.mem_append.1 hq with hq | hq
    · exact absurd h5 (hno q hq)
    · obtain ⟨j, -, -, rfl⟩ := Curd.mem_poisonFlags.1 hq
      exact j.isLt

/-- The first position of POISON of the generation: the one recorded before, or the first poisoned one that the read folds,
whichever is lower. -/
theorem Curd.readAll_first {c : Curd} {k : Nat} {j : Fin 8} (hj : j.val ≤ k) (hp : (c.part j).flags &&& flagPoison ≠ 0)
    (hleast : ∀ l : Fin 8, l < j → (c.part l).flags &&& flagPoison = 0) :
    ((c.readAll k).2.1.first.get 5).toNat =
      if c.arose.getLsbD 5 = true then min (c.first.get 5).toNat j.val else j.val := by
  have hby : ∀ n, (c.readAll k).2.1.PoisonBy n ↔ c.PoisonBy n ∨ j.val ≤ n := fun n => by
    rw [Curd.poisonBy_readAll]
    refine or_congr_right ⟨fun ⟨l, _, hl, hn⟩ => ?_, fun hn => ⟨j, hj, hp, hn⟩⟩
    have hjl : j ≤ l := not_lt.1 fun h => hl (hleast l h)
    exact (Fin.le_def.1 hjl).trans hn
  obtain ⟨ha, -⟩ := (hby j.val).2 (.inr le_rfl)
  have hle : ∀ n, ((c.readAll k).2.1.first.get 5).toNat ≤ n ↔
      (if c.arose.getLsbD 5 = true then min (c.first.get 5).toNat j.val else j.val) ≤ n := fun n => by
    have h : ((c.readAll k).2.1.first.get 5).toNat ≤ n ↔ (c.readAll k).2.1.PoisonBy n := (and_iff_right ha).symm
    rw [h, hby, Curd.PoisonBy]
    split
    · next h5 => rw [min_le_iff, and_iff_right h5]
    · next h5 => exact or_iff_right fun h => h5 h.1
  exact le_antisymm ((hle _).2 le_rfl) ((hle _).1 le_rfl)

end Sys2Proof.Machine
end

section
/-! SUPPORT. Instructions that answer behind a change of the units: the rules of a curd register that is put back. -/

namespace Sys2Proof.Machine

/-! Answers behind a change of the units. -/

section
variable {i : Instr} {s : State} {w : World}

theorem completes_of_exec_finish {d : Reg} {v : Word} {p : State → Prop}
    (h : exec i s = .next ((s.withWorld w).finish d v)) (hp : p ((s.withWorld w).finish d v)) : Completes i s d v p := by
  obtain ⟨hstill, hcp⟩ := (s.withWorld w).finish_wrote d v
  exact ⟨_, h, ⟨hstill.schedule, hstill.cur, hstill.others⟩, hcp, hp⟩

theorem completes_of_exec_done {p : State → Prop} (h : exec i s = .next (s.withWorld w).done)
    (hp : p (s.withWorld w).done) : Completes i s 0 0 p := by
  obtain ⟨hstill, hcp⟩ := (s.withWorld w).done_completes
  exact ⟨_, h, ⟨hstill.schedule, hstill.cur, hstill.others⟩, hcp, hp⟩

theorem traps_of_exec_trap_behind {t : Trap} (h : exec i s = .next ((s.withWorld w).trap t)) (hm : w.mem = s.w.mem) :
    Traps i s t.code s.cp.pc t.info := by
  obtain ⟨hstill, hmem, hcp⟩ := (s.withWorld w).trapAt_trapped t s.cp.pc
  exact ⟨_, h, ⟨hstill.schedule, hstill.cur, hstill.others⟩, fun a => congrArg (memRead · a) (hmem.trans hm), hcp⟩

end

/-! A curd register that is put back. -/

@[simp] theorem Eng.curd_setCurd_same (g : Eng) (n : Nat) (x : Curd) : (g.setCurd n x).curd n = x := Tbl.get_put_same ..

theorem Eng.curd_congr {g h : Eng} (e : g.curds = h.curds) (n : Nat) : g.curd n = h.curd n := by
  unfold Eng.curd
  rw [e]

theorem Eng.curd_setCurd_ne (g : Eng) {n k : Nat} (x : Curd) (h : k ≠ n) : (g.setCurd n x).curd k = g.curd k :=
  Tbl.get_put_ne _ _ _ h

@[simp] theorem State.withCurd_eng (s : State) (c : CurdReg) (x : Curd) :
    (s.withCurd c x).eng = s.eng.setCurd c.toNat x := State.withEng_eng ..

theorem State.curd_withCurd_same (s : State) (c : CurdReg) (x : Curd) : (s.withCurd c x).eng.curd c.toNat = x := by
  simp

theorem State.curd_withCurd_ne (s : State) (c : CurdReg) (x : Curd) {n : Nat} (h : n ≠ c.toNat) :
    (s.withCurd c x).eng.curd n = s.eng.curd n := by
  rw [State.withCurd_eng, Eng.curd_setCurd_ne _ _ h]

/-- The units of every core but for curd registers stand. -/
theorem State.withCurd_engs (s : State) (c : CurdReg) (x : Curd) (k : Nat) :
    ∃ q, (s.withCurd c x).w.eng k = { s.w.eng k with curds := q } := by
  by_cases hk : k = s.cur
  · subst hk
    exact ⟨_, s.withCurd_eng c x⟩
  · exact ⟨(s.w.eng k).curds, World.eng_setEng_ne _ _ hk⟩

theorem State.withCurd_sees (s : State) (c : CurdReg) (x : Curd) (a : Nat) : (s.withCurd c x).sees a = s.sees a := by
  unfold State.sees
  rw [State.withCurd_eng]
  rfl

theorem State.withCurd_mayReach (s : State) (c : CurdReg) (x : Curd) (k : Nat) (pa : PhysAddr) :
    (s.withCurd c x).w.mayReach k pa = s.w.mayReach k pa := by
  have hpart : ∀ k, ((s.withCurd c x).w.eng k).partid = (s.w.eng k).partid := fun k => by
    obtain ⟨q, hq⟩ := s.withCurd_engs c x k
    rw [hq]
  unfold World.mayReach
  simp only [hpart]
  rfl

theorem PlainAt.withCurd {s : State} {pa : PhysAddr} (h : PlainAt s pa) (c : CurdReg) (x : Curd) :
    PlainAt (s.withCurd c x) pa where
  here := h.here
  reach := (s.withCurd_mayReach c x _ pa).trans h.reach
  region := h.region.imp_right fun ⟨k, e, o, hr, hm⟩ => ⟨k, e, o, hr, by
    obtain ⟨q, hq⟩ := s.withCurd_engs c x k
    rw [hq]
    exact hm⟩

/-- What a translation answers depends on the TLB, the walks and the node number of the core alone. -/
theorem World.translate_fst_congr {w w' : World} {c : Nat} (htlb : (w'.eng c).tlb = (w.eng c).tlb)
    (hwalks : (w'.eng c).walks = (w.eng c).walks) (hnode : (w'.eng c).node = (w.eng c).node) (who : Walker)
    (mine : Walk → Bool) (asid : BitVec 16) (root : Word) (p : Bool) (k : Access) (va : Word) :
    (w'.translate c who mine asid root p k va).1 = (w.translate c who mine asid root p k va).1 := by
  unfold World.translate Eng.lookup Eng.refusal
  dsimp only
  rw [htlb, hwalks, hnode]
  split
  · rfl
  · split
    · split <;> rfl
    · split <;> rfl

/-- Translation does not look at curd registers. -/
theorem State.translate_withCurd (s : State) (c : CurdReg) (x : Curd) (k : Access) (va : Word) :
    ((s.withCurd c x).translate k va).1 = (s.translate k va).1 := by
  obtain ⟨q, hq⟩ := s.withCurd_engs c x (s.withCurd c x).cur
  by_cases hphys : (s.cp.prv && s.cp.xoff) = true
  · have hphys' : ((s.withCurd c x).cp.prv && (s.withCurd c x).cp.xoff) = true := hphys
    rw [State.translate, State.translate, if_pos hphys, if_pos hphys']
  · have hphys' : ¬ ((s.withCurd c x).cp.prv && (s.withCurd c x).cp.xoff) = true := hphys
    rw [State.translate, State.translate, if_neg hphys, if_neg hphys']
    exact World.translate_fst_congr (by rw [hq]) (by rw [hq]) (by rw [hq]) ..

theorem State.translate_withCurd_ok {s : State} {k : Access} {va : Word} {pa : PhysAddr} {w1 : World}
    (h : s.translate k va = (.ok pa, w1)) (c : CurdReg) (x : Curd) :
    (s.withCurd c x).translate k va = (.ok pa, (s.withCurd c x).w) := by
  have hfst : ((s.withCurd c x).translate k va).1 = .ok pa := by rw [State.translate_withCurd, h]
  have heq : (s.withCurd c x).translate k va = (.ok pa, ((s.withCurd c x).translate k va).2) := Prod.ext hfst rfl
  rw [heq, ← State.translate_ok heq]

/-- An instruction that completes when it has put a curd register back, behind a change of the units. -/
theorem completes_of_exec_withCurd {i : Instr} {s : State} {w : World} {c : CurdReg} {x : Curd} {p : State → Prop}
    (h : exec i s = .next ((s.withWorld w).withCurd c x).done)
    (hp : ∀ t : State, t.w.mem = w.mem → t.eng.curd c.toNat = x →
      (∀ n, n ≠ c.toNat → t.eng.curd n = (s.withWorld w).eng.curd n) → (∀ a, t.sees a = (s.withWorld w).sees a) → p t) :
    Completes i s 0 0 p :=
  completes_of_exec_done h (hp _ rfl ((s.withWorld w).curd_withCurd_same c x)
    (fun _ hn => (s.withWorld w).curd_withCurd_ne c x hn) ((s.withWorld w).withCurd_sees c x))

/-! Stores change no curd register. -/

@[simp] theorem World.markLines_curds (w : World) (a n c : Nat) :
    ((w.markLines a n).eng c).curds = (w.eng c).curds := by
  unfold World.markLines
  split
  · next k e o _ =>
    by_cases h : c = k
    · subst h
      simp
    · simp [World.eng_setEng, h]
  · rfl

theorem World.performStore_curds (w : World) (p : PendingStore) (c : Nat) :
    ((w.performStore p).eng c).curds = (w.eng c).curds := World.markLines_curds ..

theorem performStores_curds (w : World) (buf : List PendingStore) (c : Nat) :
    ((buf.foldl (fun w p => w.performStore p) w).eng c).curds = (w.eng c).curds := by
  induction buf generalizing w with
  | nil => rfl
  | cons p t ih => exact (ih (w.performStore p)).trans (World.performStore_curds ..)

/-- Units of one core that are put back with its curd registers. -/
theorem World.setEng_curds (w : World) {c : Nat} {g : Eng} (h : g.curds = (w.eng c).curds) (k : Nat) :
    ((w.setEng c g).eng k).curds = (w.eng k).curds := by
  by_cases hk : k = c
  · rw [hk, World.eng_setEng_same, h]
  · rw [World.eng_setEng_ne _ _ hk]

theorem World.drainAll_curds (w : World) (c k : Nat) : ((w.drainAll c).eng k).curds = (w.eng k).curds :=
  (performStores_curds ..).trans (World.setEng_curds w (by rfl) k)

theorem World.releaseAt_curds (w : World) (c : Nat) (scope : BitVec 2) (k : Nat) :
    ((w.releaseAt c scope).eng k).curds = (w.eng k).curds :=
  (performStores_curds ..).trans (World.setEng_curds w (by rfl) k)

theorem World.drainOne_curds (w : World) (c k : Nat) : ((w.drainOne c).eng k).curds = (w.eng k).curds := by
  unfold World.drainOne
  dsimp only
  split
  · rfl
  · exact (World.performStore_curds ..).trans (World.setEng_curds w (by rfl) k)

theorem World.buffer_curds (w : World) (c : Nat) (p : PendingStore) (k : Nat) :
    ((w.buffer c p).eng k).curds = (w.eng k).curds := by
  unfold World.buffer
  refine (World.setEng_curds _ (by rfl) k).trans ?_
  split
  · exact World.drainOne_curds ..
  · rfl

theorem World.stored_curds (w : World) (c : Nat) (p : PendingStore) (now : Bool) (k : Nat) :
    ((w.stored c p now).eng k).curds = (w.eng k).curds := by
  cases now with
  | false => exact World.buffer_curds ..
  | true => exact (World.performStore_curds ..).trans (World.drainAll_curds ..)

end Sys2Proof.Machine
end

section
/-! SUPPORT. CRD, CRDP and CRDM: they wait, trap on POISON, or complete with the fold (R104, R110, R113, R114). -/

namespace Sys2Proof.Machine

/-- Every position of the mask up to `k` is closed. -/
def Curd.ClosedTo (c : Curd) (k : Nat) : Prop :=
  ∀ j : Fin 8, j.val ≤ k → c.mask.getLsbD j.val = true → (c.part j).closed = true

theorem Curd.allClosed_iff {c : Curd} {k : Nat} : c.allClosed k = true ↔ c.ClosedTo k := by
  simp only [Curd.allClosed, List.all_eq_true, mem_positionsTo, Bool.or_eq_true, Bool.not_eq_true', Curd.ClosedTo,
    ← Bool.not_eq_true, ← imp_iff_not_or]

/-- A read by `.all` waits while it must (R104): the condition that the instructions test. -/
theorem Curd.waits_iff {c : Curd} {k : Nat} {w : BitVec 1} :
    (w == 0 && !c.allClosed k) = true ↔ w = 0 ∧ ¬ c.ClosedTo k := by
  rw [← Curd.allClosed_iff]
  simp

/-- A read that POISON stops: the condition that the instructions test. -/
theorem Curd.stops_iff {c : Curd} {k : Nat} {p : Bool} :
    ((c.readAll k).2.2 && p) = true ↔ p = true ∧ c.PoisonTo k := by
  rw [Bool.and_eq_true, Curd.readAll_poison_iff, and_comm]

/-- What a read leaves of its register and of the others. -/
theorem State.withCurd_readAll_kept (s : State) (c : CurdReg) (k : Nat) :
    let r := s.curd c
    let t := s.withCurd c (r.readAll k).2.1
    t.w.mem = s.w.mem ∧ (t.eng.curd c.toNat).parts = r.parts ∧ (t.eng.curd c.toNat).decl = r.decl ∧
      (t.eng.curd c.toNat).gen = r.gen ∧ ∀ n, n ≠ c.toNat → t.eng.curd n = s.eng.curd n := by
  intro r t
  obtain ⟨hdecl, -, hgen, hparts, -, -⟩ := r.readAll_keeps k
  rw [State.curd_withCurd_same]
  exact ⟨rfl, hparts, hdecl, hgen, fun n hn => s.curd_withCurd_ne c _ hn⟩

/-- A read that POISON stops takes CURD_POISON with the register and the first position of POISON. -/
theorem traps_of_poison {i : Instr} {s : State} {c : CurdReg} {k : Nat}
    (h : exec i s = .next ((s.withCurd c ((s.curd c).readAll k).2.1).trap (trapPoison c ((s.curd c).readAll k).2.1)))
    {j : Fin 8} (hj : j.val ≤ k) (hp : ((s.curd c).part j).flags &&& flagPoison ≠ 0)
    (hleast : ∀ l : Fin 8, l < j → ((s.curd c).part l).flags &&& flagPoison = 0) :
    Traps i s 0x06 s.cp.pc ⟨c.setWidth 64, BitVec.ofNat 64 (if (s.curd c).arose.getLsbD 5 = true then
      min ((s.curd c).first.get 5).toNat j.val else j.val), 0, 0⟩ := by
  have hfirst : (((s.curd c).readAll k).2.1.first.get 5).setWidth 64 = BitVec.ofNat 64
      (if (s.curd c).arose.getLsbD 5 = true then min ((s.curd c).first.get 5).toNat j.val else j.val) := by
    rw [← Curd.readAll_first hj hp hleast, BitVec.ofNat_toNat]
  rw [← hfirst]
  exact traps_of_exec_trap_behind h rfl

/-! CRD and CRDP. -/

section
variable {s : State} {c : CurdReg} {d : Reg} {k e : Nat} {w : BitVec 1}

theorem State.curdRead_waits (hw : w = 0) (h : ¬ (s.curd c).ClosedTo k) : s.curdRead c d k e (w == 0) = s := by
  unfold State.curdRead
  exact if_pos (Curd.waits_iff.2 ⟨hw, h⟩)

/-- A read that need not wait: POISON stops it, or it finishes with the fold. -/
theorem State.curdRead_ready (he : e < (s.curd c).numElems) (h : w = 0 → (s.curd c).ClosedTo k) :
    s.curdRead c d k e (w == 0) =
      (let r1 := ((s.curd c).readAll k).2.1
       if ((s.curd c).readAll k).2.2 && s.cp.ptrap then (s.withCurd c r1).trap (trapPoison c r1)
       else (s.withCurd c r1).finish d (BitVec.ofNat 64 ((s.curd c).foldRead k e).1)) := by
  have hready : ¬ (w == 0 && !(s.curd c).allClosed k) = true := fun hn => by
    obtain ⟨hw, hopen⟩ := Curd.waits_iff.1 hn
    exact hopen (h hw)
  unfold State.curdRead
  rw [if_neg hready, ← Curd.readAll_bits _ k he]

theorem State.curdRead_finishes (he : e < (s.curd c).numElems) (h : w = 0 → (s.curd c).ClosedTo k)
    (hno : ¬ (s.cp.ptrap = true ∧ (s.curd c).PoisonTo k)) : s.curdRead c d k e (w == 0) =
      (s.withCurd c ((s.curd c).readAll k).2.1).finish d (BitVec.ofNat 64 ((s.curd c).foldRead k e).1) :=
  (State.curdRead_ready he h).trans (if_neg (mt Curd.stops_iff.1 hno))

theorem State.curdRead_traps (he : e < (s.curd c).numElems) (h : w = 0 → (s.curd c).ClosedTo k)
    (hpoison : s.cp.ptrap = true ∧ (s.curd c).PoisonTo k) : s.curdRead c d k e (w == 0) =
      (s.withCurd c ((s.curd c).readAll k).2.1).trap (trapPoison c ((s.curd c).readAll k).2.1) :=
  (State.curdRead_ready he h).trans (if_pos (Curd.stops_iff.2 hpoison))

end

theorem Curd.not_declared {c : Curd} (h : c.gen = 0) : c.declared = false := bne_eq_false_iff_eq.2 h

theorem Curd.is_declared {c : Curd} (h : c.gen ≠ 0) : c.declared = true := bne_iff_ne.2 h

/-- The condition of an element that the register does not have, as the instructions test it. -/
theorem Curd.hasElem {c : Curd} {e : BitVec 4} (h : c.isAff = true → e.toNat ≤ 7) :
    ¬ (c.isAff && decide (7 < e.toNat)) = true := by
  simpa using h

theorem exec_crd_undeclared {s : State} {c : CurdReg} {d : Reg} {e : BitVec 4} {w : BitVec 1} (hgen : (s.curd c).gen = 0)
    (he : (s.curd c).isAff = true → e.toNat ≤ 7) : exec (.crd c d e w) s = .next (s.trap (trapUnbound 0)) := by
  show execCrd c d e w s = _
  simp [execCrd, Curd.hasElem he, Curd.not_declared hgen]

theorem exec_crd_noElem {s : State} {c : CurdReg} {d : Reg} {e : BitVec 4} {w : BitVec 1}
    (haff : (s.curd c).isAff = true) (he : 7 < e.toNat) :
    exec (.crd c d e w) s = .next (s.trap (trapIllegal (.crd c d e w))) := by
  show execCrd c d e w s = _
  simp [execCrd, haff, he]

theorem exec_crd_declared {s : State} {c : CurdReg} {d : Reg} {e : BitVec 4} {w : BitVec 1} (hgen : (s.curd c).gen ≠ 0)
    (he : (s.curd c).isAff = true → e.toNat ≤ 7) : exec (.crd c d e w) s = .next (s.curdRead c d 7 e.toNat (w == 0)) := by
  show execCrd c d e w s = _
  simp [execCrd, Curd.hasElem he, Curd.is_declared hgen]

theorem exec_crdp_undeclared {s : State} {c : CurdReg} {d b : Reg} {w : BitVec 1} (hgen : (s.curd c).gen = 0) :
    exec (.crdp c d b w) s = .next (s.trap (trapUnbound 0)) := by
  show execCrdp c d b w s = _
  simp [execCrdp, Curd.not_declared hgen]

/-- CRDP takes the last position and the element out of a register (R113). -/
theorem exec_crdp_declared {s : State} {c : CurdReg} {d b : Reg} {w : BitVec 1} (hgen : (s.curd c).gen ≠ 0) :
    exec (.crdp c d b w) s = .next (s.curdRead c d ((s.reg b).toNat / 16 % 8)
      (if (s.curd c).isAff then (s.reg b).toNat % 8 else (s.reg b).toNat % 16) (w == 0)) := by
  show execCrdp c d b w s = _
  simp [execCrdp, Curd.is_declared hgen, bitsNat]

theorem Curd.crdpElem_lt (c : Curd) (y : Nat) : (if c.isAff then y % 8 else y % 16) < c.numElems := by
  unfold Curd.numElems
  split
  · exact Nat.mod_lt _ (by decide)
  · exact Nat.mod_lt _ (by decide)

/-! The image of CRDM. -/

theorem Curd.elemSize_le (c : Curd) : c.elemSize ≤ 4 := by
  unfold Curd.elemSize
  split
  · exact le_rfl
  · exact Nat.div_le_of_le_mul c.width_le

theorem byteOf_leNat {bs : List Byte} {k : Nat} (h : k < bs.length) : byteOf (leNat bs) k = bs.getD k 0 := by
  induction bs generalizing k with
  | nil => cases h
  | cons b bs ih =>
    have e : leNat (b :: bs) = b.toNat + 256 * leNat bs := rfl
    have hb := b.isLt
    cases k with
    | zero =>
      apply BitVec.eq_of_toNat_eq
      simp only [byteOf, e, BitVec.toNat_ofNat, pow_zero, Nat.div_one, List.getD_cons_zero]
      omega
    | succ k =>
      have hdiv : leNat (b :: bs) / 256 ^ (k + 1) = leNat bs / 256 ^ k := by
        rw [e, Nat.pow_succ', ← Nat.div_div_eq_div_mul]
        congr 1
        omega
      rw [byteOf, hdiv]
      exact ih (Nat.lt_of_succ_lt_succ h)

/-- Numbers of one length behind one another: a byte of the whole is a byte of one of them. -/
theorem getD_flatten_leBytes (m : Nat) {vs : List Nat} {i j : Nat} (hi : i < vs.length) (hj : j < m) :
    (vs.map (leBytes m)).flatten.getD (i * m + j) 0 = byteOf (vs.getD i 0) j := by
  induction vs generalizing i with
  | nil => cases hi
  | cons v vs ih =>
    rw [List.map_cons, List.flatten_cons]
    cases i with
    | zero =>
      rw [List.getD_append _ _ _ _ (by simpa using hj), Nat.zero_mul, Nat.zero_add]
      exact leBytes_getD m v j hj
    | succ i =>
      rw [List.getD_append_right _ _ _ _ (by simp [Nat.succ_mul]; omega)]
      have hidx : (i + 1) * m + j - (leBytes m v).length = i * m + j := by
        rw [leBytes_length, Nat.succ_mul]
        omega
      rw [hidx]
      exact ih (Nat.lt_of_succ_lt_succ hi)

theorem length_flatten_leBytes (m : Nat) (vs : List Nat) : (vs.map (leBytes m)).flatten.length = m * vs.length := by
  induction vs with
  | nil => rfl
  | cons v vs ih => simp [ih, Nat.mul_succ, Nat.add_comm]

theorem Curd.imageIndex_lt {c : Curd} {i j : Nat} (hi : i < 16) (hj : j < c.elemSize) :
    i * c.elemSize + j < 16 * c.elemSize :=
  calc i * c.elemSize + j < i * c.elemSize + c.elemSize := Nat.add_lt_add_left hj _
    _ = (i + 1) * c.elemSize := (Nat.succ_mul ..).symm
    _ ≤ 16 * c.elemSize := Nat.mul_le_mul_right _ hi

/-- A byte of the image that CRDM stores, as a number of 64 bytes. -/
theorem Curd.byteOf_image {c : Curd} (h : c.isAff = false) (k : Nat) {i j : Nat} (hi : i < 16) (hj : j < c.elemSize) :
    byteOf (BitVec.ofNat 512 (leNat (c.image (c.readAll k).1))).toNat (i * c.elemSize + j) =
      byteOf (c.foldRead k i).1 j := by
  have hlen : (c.readAll k).1.length = 16 := by simp [Curd.readAll, Curd.numElems, h]
  have himage : c.image (c.readAll k).1 = ((c.readAll k).1.map (leBytes c.elemSize)).flatten := by
    simp [Curd.image, h]
  have hsize : (c.image (c.readAll k).1).length = 16 * c.elemSize := by
    rw [himage, length_flatten_leBytes, hlen, Nat.mul_comm]
  have hle := c.elemSize_le
  have hlt : leNat (c.image (c.readAll k).1) < 2 ^ (8 * (16 * c.elemSize)) := by
    rw [Nat.pow_mul, ← hsize]
    exact leNat_lt _
  rw [toNat_ofNat_of_lt_pow (by omega) hlt, byteOf_leNat (hsize ▸ Curd.imageIndex_lt hi hj), himage,
    getD_flatten_leBytes _ (by omega) hj, Curd.readAll_bits _ _ (by simpa [Curd.numElems, h] using hi)]

/-! CRDM. -/

theorem exec_crdm_undeclared {s : State} {c : CurdReg} {a : Reg} {w : BitVec 1} {o p : BitVec 2}
    (hgen : (s.curd c).gen = 0) : exec (.crdm c a w o p) s = .next (s.trap (trapUnbound 0)) := by
  show execCrdm c a w o p s = _
  simp [execCrdm, Curd.not_declared hgen]

section
variable {s : State} {c : CurdReg} {a : Reg} {w : BitVec 1} {o p : BitVec 2} {pa : PhysAddr} {w1 : World}

/-- The image as a store. -/
def Curd.imageStore (r : Curd) (a : Nat) : PendingStore :=
  ⟨a, r.imageLen, BitVec.ofNat 512 (leNat (r.image (r.readAll 7).1))⟩

/-- CRDM at an address of plain memory: it waits, POISON stops it, or the image is stored. -/
theorem exec_crdm_plain (hgen : (s.curd c).gen ≠ 0) (ha : (s.reg a).toNat % (s.curd c).imageLen = 0)
    (ht : s.translate .write (s.reg a) = (.ok pa, w1)) (hp : PlainAt s pa) :
    exec (.crdm c a w o p) s = .next (
      if w == 0 && !(s.curd c).allClosed 7 then s
      else
        let r1 := ((s.curd c).readAll 7).2.1
        let s1 := s.withCurd c r1
        if ((s.curd c).readAll 7).2.2 && s.cp.ptrap then s1.trap (trapPoison c r1)
        else (s1.withWorld (s1.w.stored s1.cur ((s.curd c).imageStore pa.addr) (o == 2))).done) := by
  show execCrdm c a w o p s = _
  unfold execCrdm
  dsimp only
  rw [if_neg (by simp [Curd.is_declared hgen]), if_neg (by simpa using ha), State.store_plain ht hp]
  dsimp only
  rw [State.store_plain (State.translate_withCurd_ok ht c _) (hp.withCurd c _)]
  rfl

variable (hgen : (s.curd c).gen ≠ 0) (ha : (s.reg a).toNat % (s.curd c).imageLen = 0)
  (ht : s.translate .write (s.reg a) = (.ok pa, w1)) (hp : PlainAt s pa)
include hgen ha ht hp

theorem exec_crdm_waits (hw : w = 0) (h : ¬ (s.curd c).ClosedTo 7) : exec (.crdm c a w o p) s = .next s := by
  rw [exec_crdm_plain hgen ha ht hp, if_pos (Curd.waits_iff.2 ⟨hw, h⟩)]

theorem exec_crdm_traps (h : w = 0 → (s.curd c).ClosedTo 7) (hpoison : s.cp.ptrap = true ∧ (s.curd c).PoisonTo 7) :
    exec (.crdm c a w o p) s = .next ((s.withCurd c ((s.curd c).readAll 7).2.1).trap
      (trapPoison c ((s.curd c).readAll 7).2.1)) := by
  rw [exec_crdm_plain hgen ha ht hp, if_neg fun hn => (Curd.waits_iff.1 hn).2 (h (Curd.waits_iff.1 hn).1)]
  dsimp only
  rw [if_pos (Curd.stops_iff.2 hpoison)]

theorem exec_crdm_stores (h : w = 0 → (s.curd c).ClosedTo 7) (hno : ¬ (s.cp.ptrap = true ∧ (s.curd c).PoisonTo 7)) :
    let s1 := s.withCurd c ((s.curd c).readAll 7).2.1
    exec (.crdm c a w o p) s =
      .next (s1.withWorld (s1.w.stored s1.cur ((s.curd c).imageStore pa.addr) (o == 2))).done := by
  rw [exec_crdm_plain hgen ha ht hp, if_neg fun hn => (Curd.waits_iff.1 hn).2 (h (Curd.waits_iff.1 hn).1)]
  dsimp only
  rw [if_neg (mt Curd.stops_iff.1 hno)]

end

/-- What is there behind the store of an image: the partials stand, the core sees the folds at their places and every other
byte as it was. -/
theorem State.imageStored {s : State} (hwf : Memory.wf s.w.mem = true) (c : CurdReg) (a : Nat) (now : Bool) :
    let r := s.curd c
    let s1 := s.withCurd c (r.readAll 7).2.1
    let t := (s1.withWorld (s1.w.stored s1.cur (r.imageStore a) now)).done
    (t.eng.curd c.toNat).parts = r.parts ∧ (∀ x, ¬ within a r.imageLen x → t.sees x = s.sees x) ∧
      (r.isAff = false → ∀ i j, i < 16 → j < r.elemSize →
        t.sees (a + i * r.elemSize + j) = byteOf (r.foldRead 7 i).1 j) := by
  intro r s1 t
  obtain ⟨-, hparts, -⟩ := s.withCurd_readAll_kept c 7
  have hsees : ∀ x, t.sees x =
      if a ≤ x ∧ x < a + r.imageLen then byteOf (r.imageStore a).data.toNat (x - a) else s1.sees x :=
    fun x => (World.stored_sees (w := s1.w) hwf s1.cur (r.imageStore a) now x).1
  refine ⟨?_, fun x hx => ?_, fun haff i j hi hj => ?_⟩
  · have hcurd : t.eng.curd c.toNat = s1.eng.curd c.toNat :=
      Eng.curd_congr (World.stored_curds s1.w s1.cur (r.imageStore a) now s1.cur) _
    rw [hcurd]
    exact hparts
  · exact (hsees x).trans ((if_neg hx).trans (s.withCurd_sees c _ x))
  · have hlen : r.imageLen = 16 * r.elemSize := by simp [Curd.imageLen, haff]
    have hsub : a + i * r.elemSize + j - a = i * r.elemSize + j := by omega
    have hin : within a r.imageLen (a + i * r.elemSize + j) := by
      have hlt := Curd.imageIndex_lt hi hj
      unfold within
      omega
    refine (hsees _).trans ((if_pos hin).trans ?_)
    rw [hsub]
    exact Curd.byteOf_image haff 7 hi hj

end Sys2Proof.Machine
end

section
open Sys2Proof Sys2Proof.Machine

/-- Settles O19: a read waits, is stopped by POISON or completes with the fold, and CRDM stores the fold of every element;
no flag of a fold is POISON, so the position that the trap names is the first poisoned partial's. -/
theorem curdReads : Obligations.CurdReads := by
  intro s c d a b e w o p r y k f closed poisoned trapped kept
  have htrapped : ∀ {i k}, (s.cp.ptrap = true ∧ r.PoisonTo k →
      exec i s = .next ((s.withCurd c (r.readAll k).2.1).trap (trapPoison c (r.readAll k).2.1))) → trapped i k :=
    fun hexec hptrap j hj hp hleast => traps_of_poison (hexec ⟨hptrap, j, hj, hp⟩) hj hp hleast
  have hread : ∀ {i k e}, exec i s = .next (s.curdRead c d k e (w == 0)) → e < r.numElems →
      (w = 0 → ¬ closed k → exec i s = .next s) ∧
      ((w = 0 → closed k) → ¬ poisoned k → Completes i s d (BitVec.ofNat 64 (r.foldRead k e).1) kept) ∧
      ((w = 0 → closed k) → trapped i k) := by
    intro i k e hexec he
    refine ⟨fun hw hopen => ?_, fun hready hno => ?_, fun hready => htrapped fun hpoison => ?_⟩
    · rw [hexec, State.curdRead_waits hw hopen]
    · rw [State.curdRead_finishes he hready hno] at hexec
      exact completes_of_exec_finish hexec (s.withCurd_readAll_kept c k)
    · exact hexec.trans (congrArg _ (State.curdRead_traps he hready hpoison))
  refine ⟨fun hgen he i hi => ?_, fun hgen => ⟨fun haff he => ?_, fun he => ?_, ?_⟩⟩
  · simp only [List.mem_cons, List.not_mem_nil, or_false] at hi
    rcases hi with rfl | rfl | rfl
    · exact traps_of_exec_trap (exec_crd_undeclared hgen he)
    · exact traps_of_exec_trap (exec_crdp_undeclared hgen)
    · exact traps_of_exec_trap (exec_crdm_undeclared hgen)
  · exact traps_of_exec_trap (exec_crd_noElem haff he)
  · exact hread (exec_crd_declared hgen he) (Curd.lt_numElems fun haff => Nat.lt_succ_of_le (he haff))
  · obtain ⟨hwaits, hcompletes, htraps⟩ := hread (exec_crdp_declared hgen) (r.crdpElem_lt y.toNat)
    refine ⟨hwaits, hcompletes, htraps, fun pa w1 hwf ha ht hp => ⟨exec_crdm_waits hgen ha ht hp,
      fun hready => htrapped (exec_crdm_traps hgen ha ht hp hready), fun hready hno => ?_⟩⟩
    exact completes_of_exec_done (exec_crdm_stores hgen ha ht hp hready hno) (State.imageStored hwf c pa.addr (o == 2))
end

section
/-! SUPPORT. CDECL: what the loads of a record leave, and the register declared (R90, R93, R110). -/

namespace Sys2Proof.Machine

/-! A load leaves everything but the units and memory. -/

theorem State.plainRead_world {s s1 : State} {a n v : Nat} (h : s.plainRead a n = .ok (v, s1)) :
    ∃ w, s1 = s.withWorld w := by
  unfold State.plainRead at h
  split at h
  · cases h
  · cases h
  · cases h
    exact ⟨_, rfl⟩

theorem State.physRead_world {s s1 : State} {va : Word} {pa : PhysAddr} {n v : Nat} {b : Bool}
    (h : s.physRead va pa n b = .ok (v, s1)) : ∃ w, s1 = s.withWorld w := by
  unfold State.physRead at h
  split at h
  · split at h
    · cases h
      exact ⟨_, rfl⟩
    · cases h
  · split at h
    · split at h
      · exact State.plainRead_world h
      · cases h
    · split at h
      · exact State.plainRead_world h
      · cases h
    · split at h
      · split at h
        · cases h
          exact ⟨_, rfl⟩
        · cases h
      · cases h
    · cases h
    · cases h

theorem State.load_world {s s1 : State} {va : Word} {n v : Nat} (h : s.load va n = .ok (v, s1)) :
    ∃ w, s1 = s.withWorld w := by
  unfold State.load at h
  split at h
  · cases h
  · obtain ⟨w, hw⟩ := State.physRead_world (Except.mapError_ok h)
    exact ⟨w, hw⟩

theorem State.loadWords_world {s s1 : State} {as vs : List Word} (h : s.loadWords as = .ok (vs, s1)) :
    ∃ w, s1 = s.withWorld w := by
  induction as generalizing s vs with
  | nil =>
    cases h
    exact ⟨_, rfl⟩
  | cons a as ih =>
    unfold State.loadWords at h
    split at h
    · cases h
    · next hload =>
      split at h
      · cases h
      · next hrest =>
        cases h
        obtain ⟨w, rfl⟩ := State.load_world hload
        obtain ⟨w', hw'⟩ := ih hrest
        exact ⟨w', hw'⟩

/-! CDECL. -/

section
variable {s s1 : State} {c : CurdReg} {a : Reg} {w0 w1 w2 w3 : Word}

theorem exec_cdecl_misaligned (ha : (s.reg a).toNat % 8 ≠ 0) :
    exec (.cdecl c a) s = .next (s.trap (trapMisalign (s.reg a))) := by
  show execCdecl c a s = _
  simp [execCdecl, ha]

variable (ha : (s.reg a).toNat % 8 = 0)
  (hl : s.loadWords [s.reg a, s.reg a + 8, s.reg a + 16, s.reg a + 24] = .ok ([w0, w1, w2, w3], s1))
include ha hl

theorem exec_cdecl_legal (h : recordError w0 (bindsOf w1 w2).toList w3 = none) :
    exec (.cdecl c a) s = .next (s1.withCurd c (Curd.declare w0 (bindsOf w1 w2))).done := by
  show execCdecl c a s = _
  unfold execCdecl
  dsimp only
  rw [if_neg (by simpa using ha), hl]
  simp [h]

theorem exec_cdecl_wrong {f : Nat} (h : recordError w0 (bindsOf w1 w2).toList w3 = some f) :
    exec (.cdecl c a) s = .next (s1.trap (trapIllegalInfo (.cdecl c a) (s.reg a) (BitVec.ofNat 64 f))) := by
  show execCdecl c a s = _
  unfold execCdecl
  dsimp only
  rw [if_neg (by simpa using ha), hl]
  simp [h]

end

/-- A trap changes no curd register. -/
theorem State.trap_curds (s : State) (t : Trap) : (s.trap t).eng.curds = s.eng.curds := by
  obtain ⟨-, -, heng⟩ := s.w.emit_keeps s.cur uCP tTRAP (t.code.setWidth 32)
  obtain ⟨r, q, hk⟩ := heng s.cur
  show ((s.w.emit s.cur uCP tTRAP (t.code.setWidth 32)).eng s.cur).curds = (s.w.eng s.cur).curds
  rw [hk]

theorem Curd.part_empty {c : Curd} (h : c.parts = Vector.replicate 8 Partial.empty) (j : Fin 8) :
    c.part j = Partial.empty := by
  simp [Curd.part, h, Vector.get_eq_getElem]

theorem Curd.declare_part (w0 : Word) (bs : Vector (BitVec 16) 8) (j : Fin 8) :
    (Curd.declare w0 bs).part j = Partial.empty :=
  Curd.part_empty rfl j

theorem bindsOf_get (w1 w2 : Word) (j : Fin 8) : (bindsOf w1 w2).get j = (w2 ++ w1).extractLsb' (16 * j.val) 16 :=
  Vector.get_ofFn ..

end Sys2Proof.Machine
end

section
/-! SUPPORT. CPUT: the position bound to the control processor, and one element entered there (R96, R97, R112). -/

namespace Sys2Proof.Machine

/-! Positions. -/

theorem Curd.position_bindCp_none {c : Curd} (h : ∀ j : Fin 8, c.binds.get j ≠ 0x5000) : c.position bindCp = none := by
  unfold Curd.position
  rw [List.find?_eq_none]
  intro j _ hj
  exact h j (by simpa [bindCp] using (Bool.and_eq_true_iff.1 hj).2)

theorem Curd.position_bindCp_some {c : Curd} {j : Fin 8} (hj : c.binds.get j = 0x5000)
    (honly : ∀ i : Fin 8, c.binds.get i = 0x5000 → i = j) : c.position bindCp = some j := by
  have hbound : (bindKind (c.binds.get j) != 0 && c.binds.get j == bindCp) = true := by
    rw [hj]
    decide
  cases hp : c.position bindCp with
  | none => exact absurd hbound (List.find?_eq_none.1 hp j (List.mem_finRange j))
  | some i =>
    have hi := List.find?_some hp
    rw [honly i (by simpa [bindCp] using (Bool.and_eq_true_iff.1 hi).2)]

@[simp] theorem Curd.part_setPart_same (c : Curd) (j : Fin 8) (p : Partial) : (c.setPart j p).part j = p := by
  simp [Curd.part, Curd.setPart, Vector.get_eq_getElem]

theorem Curd.part_setPart_ne (c : Curd) {i j : Fin 8} (p : Partial) (h : i ≠ j) : (c.setPart j p).part i = c.part i := by
  have hv : j.val ≠ i.val := fun e => h (Fin.ext e.symm)
  simp [Curd.part, Curd.setPart, Vector.get_eq_getElem, Vector.getElem_set_ne, hv]

/-! One element of an entry. -/

section
variable {c : Curd} {k : Contribution} {u e : Nat} {p : Partial}

theorem Curd.enterElem_absent (h : c.takesPart k e = false) : c.enterElem k u e p = p := by
  simp [Curd.enterElem, h]

/-- An element that takes part is present afterwards; the other elements stand, and so do the closed bit and the count. -/
theorem Curd.enterElem_takes (he : e < 16) (h : c.takesPart k e = true) :
    (∀ i, i < 16 → ((c.enterElem k u e p).present.getLsbD i = true ↔ p.present.getLsbD i = true ∨ i = e)) ∧
      (∀ i (hi : i < 16), i ≠ e → (c.enterElem k u e p).vals[i] = p.vals[i]) ∧
      (c.enterElem k u e p).closed = p.closed ∧ (c.enterElem k u e p).entries = p.entries := by
  unfold Curd.enterElem
  rw [dif_pos he, if_pos h]
  dsimp only
  split
  · next hp =>
    refine ⟨fun i _ => ⟨.inl, ?_⟩, fun i hi hne => Vector.getElem_set_ne he hi (Ne.symm hne), rfl, rfl⟩
    rintro (hi | rfl)
    · exact hi
    · exact hp
  · refine ⟨fun i hi => ?_, fun i hi hne => Vector.getElem_set_ne he hi (Ne.symm hne), rfl, rfl⟩
    rw [BitVec.getLsbD_or, Bool.or_eq_true]
    refine or_congr_right ?_
    show (BitVec.ofNat 16 (1 <<< e)).getLsbD i = true ↔ i = e
    rw [BitVec.getLsbD_ofNat, Nat.one_shiftLeft, Nat.testBit_two_pow]
    simp [hi, eq_comm]

/-- An element that is present combines with its entry. -/
theorem Curd.enterElem_val (he : e < 16) (h : c.takesPart k e = true) (hp : p.present.getLsbD e = true) :
    (c.enterElem k u e p).vals[e] = (c.combine (draws c.gen.toNat e u).1 (draws c.gen.toNat e u).2 p.vals[e]
      (c.entryValue k e (draws c.gen.toNat e u).1 (draws c.gen.toNat e u).2).1).1 := by
  simp [Curd.enterElem, he, h, hp]

end

/-- An entry that one element takes part in enters that element. -/
theorem Curd.foldl_enterElem_single {c : Curd} {k : Contribution} {e : Nat} (he : e < 16)
    (hother : ∀ i, i < 16 → i ≠ e → c.takesPart k i = false) (u : Nat) (p : Partial) :
    (List.range 16).foldl (fun p i => c.enterElem k u i p) p = c.enterElem k u e p := by
  have hfold : ∀ n, n ≤ 16 → (List.range n).foldl (fun p i => c.enterElem k u i p) p =
      if e < n then c.enterElem k u e p else p := by
    intro n hn
    induction n with
    | zero => rfl
    | succ n ih =>
      rw [List.range_succ, List.foldl_append, ih (Nat.le_of_succ_le hn), List.foldl_cons, List.foldl_nil]
      by_cases hen : n = e
      · subst hen
        simp
      · rw [Curd.enterElem_absent (hother n hn hen)]
        have hlt : e < n ↔ e < n + 1 := by omega
        simp [hlt]
  rw [hfold 16 le_rfl, if_pos he]

/-- The two valid lanes of a pair make up that pair and no other. -/
theorem pairLanes_valid : ∀ e : Fin 8, ∀ i : Fin 16,
    (decide (i.val < 8) && (BitVec.ofNat 16 (3 * 2 ^ (2 * e.val))).getLsbD (2 * i.val) &&
      (BitVec.ofNat 16 (3 * 2 ^ (2 * e.val))).getLsbD (2 * i.val + 1)) = decide (i.val = e.val) := by decide

/-- The contribution of CPUT is one element. -/
theorem Curd.putOf_takesPart {c : Curd} {e i : Nat} (he : e < c.numElems) (hi : i < 16) (v : Word) (close : Bool) :
    c.takesPart (c.putOf e v close) i = decide (i = e) := by
  unfold Curd.numElems at he
  unfold Curd.takesPart Curd.putOf
  cases haff : c.isAff
  · show (BitVec.ofNat 16 (2 ^ e)).getLsbD i = _
    rw [BitVec.getLsbD_ofNat, Nat.testBit_two_pow]
    simp [hi, eq_comm]
  · rw [haff] at he
    exact pairLanes_valid ⟨e, he⟩ ⟨i, hi⟩

theorem Curd.numElems_le (c : Curd) : c.numElems ≤ 16 := by
  unfold Curd.numElems
  split <;> decide

section
variable {c : Curd} {j : Fin 8} {e : Nat} (he : e < c.numElems) (v : Word) (close : Bool)
include he

/-- CPUT enters one element, counts the entry, and closes the partial if told to. -/
theorem Curd.part_put : ∃ u fl, (c.put j e v close).part j =
    { c.enterElem (c.putOf e v close) u e (c.part j) with
      flags := fl, entries := (c.enterElem (c.putOf e v close) u e (c.part j)).entries + 1,
      closed := (c.enterElem (c.putOf e v close) u e (c.part j)).closed || close } := by
  have hpart : (c.put j e v close).part j =
      c.enterOpen (c.putOf e v close) (0x10 + 8 * c.cputs.toNat + 7) (c.part j) := c.part_setPart_same j _
  refine ⟨0x10 + 8 * c.cputs.toNat + 7, ((c.put j e v close).part j).flags, ?_⟩
  rw [hpart]
  unfold Curd.enterOpen
  rw [Curd.foldl_enterElem_single (he.trans_le c.numElems_le)
    fun i hi hne => by rw [Curd.putOf_takesPart he hi, decide_eq_false hne]]
  rfl

/-- What CPUT makes of its position. -/
theorem Curd.put_entered :
    let q := (c.put j e v close).part j
    (∀ i, i < 16 → (q.present.getLsbD i = true ↔ (c.part j).present.getLsbD i = true ∨ i = e)) ∧
      (∀ i (hi : i < 16), i ≠ e → q.vals[i] = (c.part j).vals[i]) ∧
      q.entries = (c.part j).entries + 1 ∧ q.closed = ((c.part j).closed || close) := by
  obtain ⟨u, fl, hpart⟩ := c.part_put (j := j) he v close
  have h16 := he.trans_le c.numElems_le
  have htakes : c.takesPart (c.putOf e v close) e = true := by rw [Curd.putOf_takesPart he h16, decide_eq_true rfl]
  obtain ⟨hpresent, hvals, hclosed, hentries⟩ := Curd.enterElem_takes (u := u) (p := c.part j) h16 htakes
  dsimp only
  rw [hpart]
  exact ⟨hpresent, hvals, congrArg (· + 1) hentries, congrArg (· || close) hclosed⟩

end

theorem lane_shiftLeft (v : Word) {e : Nat} (he : e < 16) : lane (v.setWidth 512 <<< (32 * e)) e = v.setWidth 32 := by
  apply BitVec.eq_of_getLsbD_eq
  intro i hi
  have hlt : 32 * e + i < 512 := by omega
  simp [lane, hi, hlt]

/-- A sum of 32 bits takes CPUT's low word in, modulo the width. -/
theorem Curd.put_iadd {c : Curd} {j : Fin 8} {e : Nat} (he : e < 16) (hop : c.op = 2) (hfmt : c.fmtCode = 0)
    (hp : (c.part j).present.getLsbD e = true) (v : Word) (close : Bool) :
    (((c.put j e v close).part j).vals[e]).pat = ((c.part j).vals[e].pat + v.toNat) % 2 ^ 32 := by
  have haff : c.isAff = false := by simp [Curd.isAff, hop, opAFF]
  have hnum : e < c.numElems := by simpa [Curd.numElems, haff] using he
  have hwidth : c.fmt.width = 32 := by
    rw [Curd.fmt, hfmt]
    rfl
  have htakes : c.takesPart (c.putOf e v close) e = true := by rw [Curd.putOf_takesPart hnum he, decide_eq_true rfl]
  have hentry : ∀ d0 d1, (c.entryValue (c.putOf e v close) e d0 d1).1 = .ofPat (v.toNat % 2 ^ 32) := fun d0 d1 => by
    simp [Curd.entryValue, haff, Curd.isBits, hop, opAND, opOR, opXOR, opFIRST, Curd.putOf, lane_shiftLeft v he,
      hwidth, Curd.widen, opADDO, Curd.isXP, opADDX, opSADD]
  obtain ⟨u, fl, hpart⟩ := c.part_put (j := j) hnum v close
  have hval : ((c.put j e v close).part j).vals[e] = (c.enterElem (c.putOf e v close) u e (c.part j)).vals[e] := by
    rw [hpart]
  rw [hval, Curd.enterElem_val he htakes hp, Curd.combine_iadd hop, hentry, hwidth,
    PVal.pat_ofPat (by decide) (intPat_lt ..), intPat_patInt_add,
    PVal.pat_ofPat (w := 32) (by decide) (Nat.mod_lt _ (by decide)),
    Nat.add_mod_mod]

end Sys2Proof.Machine
end

section
/-! SUPPORT. The instruction CPUT: its traps, and its release at core scope (R110, R112). -/

namespace Sys2Proof.Machine

/-- The units behind a CPUT: a closing one is a release at core scope. -/
def State.releasedBy (s : State) (close : Bool) : World := if close then s.w.releaseAt s.cur 0 else s.w

theorem State.releasedBy_curds (s : State) (close : Bool) : ((s.releasedBy close).eng s.cur).curds = s.eng.curds := by
  cases close
  · rfl
  · exact World.releaseAt_curds ..

theorem State.releasedBy_sees {s : State} (hwf : Memory.wf s.w.mem = true) (close : Bool) (x : Nat) :
    (s.withWorld (s.releasedBy close)).sees x = s.sees x := by
  cases close
  · rfl
  · exact (World.releaseAt_sees hwf s.cur 0).2.1 x

section
variable {s : State} {c : CurdReg} {a : Reg} {e : BitVec 4} {x : BitVec 1}
  (he : (s.curd c).isAff = true → e.toNat ≤ 7)
include he

theorem exec_cput_undeclared (hgen : (s.curd c).gen = 0) : exec (.cput c a x e) s = .next (s.trap (trapUnbound 0)) := by
  show execCput c a x e s = _
  simp [execCput, Curd.hasElem he, Curd.not_declared hgen]

variable (hgen : (s.curd c).gen ≠ 0)
include hgen

theorem exec_cput_unbound (h : (s.curd c).position bindCp = none) :
    exec (.cput c a x e) s = .next (s.trap (trapUnbound 1)) := by
  show execCput c a x e s = _
  simp [execCput, Curd.hasElem he, Curd.is_declared hgen, h]

variable {j : Fin 8} (h : (s.curd c).position bindCp = some j)
include h

theorem exec_cput_closed (hclosed : ((s.curd c).part j).closed = true) :
    exec (.cput c a x e) s = .next (s.trap (trapUnbound 2)) := by
  show execCput c a x e s = _
  simp [execCput, Curd.hasElem he, Curd.is_declared hgen, h, hclosed]

theorem exec_cput_open (hopen : ((s.curd c).part j).closed = false) :
    exec (.cput c a x e) s = .next
      ((s.withWorld (s.releasedBy (x == 1))).withCurd c ((s.curd c).put j e.toNat (s.reg a) (x == 1))).done := by
  have hworld : (if x == 1 then s.withWorld (s.w.releaseAt s.cur 0) else s) = s.withWorld (s.releasedBy (x == 1)) := by
    unfold State.releasedBy
    split <;> rfl
  show execCput c a x e s = _
  unfold execCput
  dsimp only
  rw [if_neg (Curd.hasElem he), if_neg (by simp [Curd.is_declared hgen]), h]
  dsimp only
  rw [if_neg (by simp [hopen]), hworld]

end

/-- Entering a position leaves the others. -/
theorem Curd.part_put_ne (r : Curd) {i j : Fin 8} (e : Nat) (v : Word) (close : Bool) (h : i ≠ j) :
    (r.put j e v close).part i = r.part i := r.part_setPart_ne _ h

end Sys2Proof.Machine
end

section
/-! SUPPORT. SETTLE and CCLR: the partials that they leave (R88, R115, R116). -/

namespace Sys2Proof.Machine

theorem foldl_or_getLsbD {α : Type} {n : Nat} (f : α → BitVec n) (xs : List α) (m : BitVec n) (i : Nat) :
    (xs.foldl (fun m x => m ||| f x) m).getLsbD i = true ↔ m.getLsbD i = true ∨ ∃ x ∈ xs, (f x).getLsbD i = true := by
  induction xs generalizing m with
  | nil => simp
  | cons x xs ih =>
    rw [List.foldl_cons, ih, BitVec.getLsbD_or, Bool.or_eq_true, or_assoc]
    simp

/-- The elements that some position holds. -/
def Curd.presentAll (c : Curd) : BitVec 16 := (List.finRange 8).foldl (fun m j => m ||| (c.part j).present) 0

theorem Curd.presentAll_iff {c : Curd} {i : Nat} :
    c.presentAll.getLsbD i = true ↔ ∃ j : Fin 8, (c.part j).present.getLsbD i = true := by
  unfold Curd.presentAll
  rw [foldl_or_getLsbD]
  simp

/-- SETTLE leaves every element at position 0, and the closed bits. -/
theorem Curd.settle_part (c : Curd) (j : Fin 8) : ∃ vals, c.settle.1.part j =
    { c.part j with vals := vals, present := if j = 0 then c.presentAll else 0 } := by
  by_cases hj : j = 0
  · subst hj
    exact ⟨_, Vector.get_ofFn ..⟩
  · refine ⟨Vector.replicate 16 PVal.zero, ?_⟩
    rw [if_neg hj]
    simp [Curd.settle, Curd.part, hj]

theorem Curd.settle_keeps (c : Curd) :
    (∀ j : Fin 8, j ≠ 0 → (c.settle.1.part j).present = 0) ∧
      (∀ i, (c.settle.1.part 0).present.getLsbD i = true ↔ ∃ j : Fin 8, (c.part j).present.getLsbD i = true) ∧
      ∀ j : Fin 8, (c.settle.1.part j).closed = (c.part j).closed := by
  refine ⟨fun j hj => ?_, fun i => ?_, fun j => ?_⟩
  · obtain ⟨vals, hpart⟩ := c.settle_part j
    rw [hpart, if_neg hj]
  · obtain ⟨vals, hpart⟩ := c.settle_part 0
    rw [hpart, if_pos rfl]
    exact Curd.presentAll_iff
  · obtain ⟨vals, hpart⟩ := c.settle_part j
    rw [hpart]

theorem exec_settle_undeclared {s : State} {c : CurdReg} (hgen : (s.curd c).gen = 0) :
    exec (.settle c) s = .next (s.trap (trapUnbound 0)) := by
  show execSettle c s = _
  simp [execSettle, Curd.not_declared hgen]

theorem exec_settle_closed {s : State} {c : CurdReg} (hgen : (s.curd c).gen ≠ 0) (hptrap : s.cp.ptrap = false)
    (hclosed : (s.curd c).allClosed 7 = true) :
    exec (.settle c) s = .next (s.withCurd c (s.curd c).settle.1).done := by
  show execSettle c s = _
  simp [execSettle, Curd.is_declared hgen, hptrap, hclosed]

/-! CCLR. -/

theorem exec_cclr_undeclared {s : State} {c : CurdReg} (hgen : (s.curd c).gen = 0) :
    exec (.cclr c) s = .next (s.trap (trapUnbound 0)) := by
  show execCclr c s = _
  simp [execCclr, Curd.not_declared hgen]

theorem exec_cclr_declared {s : State} {c : CurdReg} (hgen : (s.curd c).gen ≠ 0) :
    exec (.cclr c) s = .next (s.withCurd c (s.curd c).clear).done := by
  show execCclr c s = _
  simp [execCclr, Curd.is_declared hgen]

theorem Curd.enter_gen (c : Curd) (j : Fin 8) (k : Contribution) : (c.enter j k).gen = c.gen := by
  unfold Curd.enter
  dsimp only
  split <;> rfl

theorem Curd.part_enter_ne (c : Curd) {i j : Fin 8} (k : Contribution) (h : i ≠ j) : (c.enter j k).part i = c.part i := by
  unfold Curd.enter
  dsimp only
  split
  · exact c.part_setPart_ne _ h
  · exact c.part_setPart_ne _ h

/-- The contribution that is pending at a position of `r` enters `c`. -/
def Curd.enterPending (r c : Curd) (j : Fin 8) : Curd :=
  match (r.part j).pending with
  | none => c
  | some k => c.enter j k

/-- Pending contributions enter a register: its generation stands, and so does a position that none was pending at. -/
theorem Curd.enterPending_keeps (r : Curd) (js : List (Fin 8)) (c : Curd) :
    let d := js.foldl r.enterPending c
    d.gen = c.gen ∧ ∀ i, (r.part i).pending = none → d.part i = c.part i := by
  induction js generalizing c with
  | nil => exact ⟨rfl, fun _ _ => rfl⟩
  | cons j js ih =>
    rw [List.foldl_cons, Curd.enterPending]
    cases hj : (r.part j).pending with
    | none => exact ih c
    | some k =>
      obtain ⟨hgen, hparts⟩ := ih (c.enter j k)
      refine ⟨hgen.trans (c.enter_gen j k), fun i hi => (hparts i hi).trans (c.part_enter_ne k ?_)⟩
      rintro rfl
      rw [hi] at hj
      cases hj

theorem Curd.clear_gen (c : Curd) : c.clear.gen = nextGen c.gen := (c.enterPending_keeps _ _).1

/-- A position that no contribution was pending at is empty in the next generation. -/
theorem Curd.clear_part {c : Curd} {j : Fin 8} (h : (c.part j).pending = none) : c.clear.part j = Partial.empty :=
  ((c.enterPending_keeps _ _).2 j h).trans (Curd.part_empty rfl j)

end Sys2Proof.Machine
end

section
/-! SUPPORT. CSTAT: the fields of its words (R117, R118). -/

namespace Sys2Proof.Machine

/-- A number written in digits of a base: each digit is where it was put. -/
theorem sum_digits {b n : Nat} (d : Fin n → Nat) (hd : ∀ j, d j < b) (i : Fin n) :
    ((List.finRange n).map (fun j => d j * b ^ j.val)).sum / b ^ i.val % b = d i := by
  induction n with
  | zero => exact i.elim0
  | succ n ih =>
    have hstep : ((List.finRange (n + 1)).map (fun j => d j * b ^ j.val)).sum =
        d 0 + b * ((List.finRange n).map (fun j => d j.succ * b ^ j.val)).sum := by
      rw [List.finRange_succ, List.map_cons, List.sum_cons, List.map_map, ← List.sum_map_mul_left]
      refine congrArg₂ (· + ·) (by simp) (congrArg List.sum (List.map_congr_left fun j _ => ?_))
      simp only [Function.comp_apply, Fin.val_succ, pow_succ]
      ring
    have hpos : 0 < b := (Nat.zero_le _).trans_lt (hd 0)
    rw [hstep]
    induction i using Fin.cases with
    | zero => simpa using Nat.mod_eq_of_lt (hd 0)
    | succ i =>
      rw [Fin.val_succ, pow_succ', ← Nat.div_div_eq_div_mul, Nat.add_mul_div_left _ _ hpos,
        Nat.div_eq_of_lt (hd 0), Nat.zero_add]
      exact ih (fun j => d j.succ) (fun j => hd j.succ) i

theorem Curd.byPosition_getLsbD (c : Curd) (f : Partial → Bool) (j : Fin 8) :
    (c.byPosition f).getLsbD j.val = f (c.part j) := by
  have hsum := sum_digits (b := 2) (fun j : Fin 8 => (f (c.part j)).toNat) (fun j => Bool.toNat_lt _) j
  have hterm : (fun j : Fin 8 => if f (c.part j) then 2 ^ j.val else 0) = fun j => (f (c.part j)).toNat * 2 ^ j.val := by
    funext j
    cases f (c.part j) <;> simp
  rw [Curd.byPosition, BitVec.getLsbD_ofNat, hterm, Nat.testBit_eq_decide_div_mod_eq, hsum]
  simp

section
variable {m n i : Nat} {x : BitVec m} {y : BitVec n}

theorem getLsbD_append_low (h : i < n) : BitVec.getLsbD (no_index (x ++ y)) i = y.getLsbD i := by
  rw [BitVec.getLsbD_append, if_pos h]

theorem getLsbD_append_high (h : n ≤ i) : BitVec.getLsbD (no_index (x ++ y)) i = x.getLsbD (i - n) := by
  rw [BitVec.getLsbD_append, if_neg (Nat.not_lt.2 h)]

end

theorem Curd.statWord0_bits (c : Curd) (j : Fin 8) :
    c.statWord0.getLsbD j.val = (c.part j).closed ∧
      (c.statWord0.getLsbD (8 + j.val) = true ↔ (c.part j).present ≠ 0) ∧
      c.statWord0.getLsbD (56 + j.val) = c.src.getLsbD j.val := by
  have hj := j.isLt
  have hclosed : c.statWord0.getLsbD j.val = (c.byPosition (fun p => p.closed)).getLsbD j.val := getLsbD_append_low hj
  have hpresent : c.statWord0.getLsbD (8 + j.val) = (c.byPosition (fun p => p.present != 0)).getLsbD j.val := by
    simp (disch := omega) only [Curd.statWord0, getLsbD_append_high, getLsbD_append_low]
    rw [Nat.add_sub_cancel_left]
  have hsrc : c.statWord0.getLsbD (56 + j.val) = c.src.getLsbD j.val := by
    simp (disch := omega) only [Curd.statWord0, getLsbD_append_high]
    congr 1
    omega
  rw [hclosed, hpresent, Curd.byPosition_getLsbD, Curd.byPosition_getLsbD]
  exact ⟨rfl, bne_iff_ne, hsrc⟩

theorem Curd.statWord1_flags (c : Curd) (j : Fin 8) : c.statWord1.extractLsb' (8 * j.val) 6 = (c.part j).flags := by
  have hsum := sum_digits (b := 2 ^ 8) (fun j : Fin 8 => (c.part j).flags.toNat)
    (fun j => (c.part j).flags.isLt.trans (by decide)) j
  have hj := j.isLt
  apply BitVec.eq_of_getLsbD_eq
  intro t ht
  have hbit : (c.part j).flags.getLsbD t = Nat.testBit _ t := (congrArg (Nat.testBit · t) hsum).symm
  have h8 : t < 8 := by omega
  have h64 : t + 8 * j.val < 64 := by omega
  simp only [← pow_mul] at hbit
  rw [BitVec.getLsbD_extractLsb', Curd.statWord1, BitVec.getLsbD_ofNat, hbit, Nat.testBit_mod_two_pow,
    Nat.testBit_div_two_pow]
  simp only [ht, h8, h64, decide_true, Bool.true_and, Nat.add_comm]

theorem Curd.statWord2_fields (c : Curd) : c.statWord2.extractLsb' 0 24 = c.decl ∧ c.statWord2.extractLsb' 32 32 = c.gen ∧
    ∀ j : Fin 8, c.statWord2.getLsbD (24 + j.val) = (c.part j).pending.isSome := by
  refine ⟨BitVec.extractLsb'_append_eq_right .., BitVec.eq_of_getLsbD_eq fun t ht => ?_, fun j => ?_⟩
  · rw [BitVec.getLsbD_extractLsb', decide_eq_true ht, Bool.true_and]
    simp (disch := omega) only [Curd.statWord2, getLsbD_append_high]
    congr 1
    omega
  · have hj := j.isLt
    rw [← c.byPosition_getLsbD (fun p => p.pending.isSome) j]
    simp (disch := omega) only [Curd.statWord2, getLsbD_append_high, getLsbD_append_low]
    rw [Nat.add_sub_cancel_left]

theorem cstat_writes (s : State) (c : CurdReg) (d : Reg) (sel : BitVec 5) : Writes (.cstat c d sel) s d
    (if sel == 0 then (s.curd c).statWord0 else if sel == 1 then (s.curd c).statWord1 else (s.curd c).statWord2) :=
  ⟨_, rfl, s.finish_wrote d _⟩

end Sys2Proof.Machine
end

section
open Sys2Proof Sys2Proof.Machine

/-- Settles O21: each instruction answers one next state under each of its conditions, in which its register alone is
put back. -/
theorem curdUpdates : Obligations.CurdUpdates := by
  intro s c d a e x r v only sees
  refine ⟨fun ha => traps_of_exec_trap (exec_cdecl_misaligned ha), ?_, fun he =>
    ⟨fun hgen => traps_of_exec_trap (exec_cput_undeclared he hgen),
      fun hgen hnone => traps_of_exec_trap (exec_cput_unbound he hgen (Curd.position_bindCp_none hnone)), ?_⟩,
    fun hgen => ⟨traps_of_exec_trap (exec_settle_undeclared hgen), traps_of_exec_trap (exec_cclr_undeclared hgen)⟩,
    fun hgen => ⟨?_, fun hptrap hclosed => ?_⟩, ⟨_, cstat_writes s c d 0, r.statWord0_bits⟩,
    ⟨_, cstat_writes s c d 1, r.statWord1_flags⟩, ⟨_, cstat_writes s c d 2, r.statWord2_fields⟩⟩
  case refine_1 =>
    intro w0 w1 w2 w3 s1 ha hl
    obtain ⟨w, rfl⟩ := State.loadWords_world hl
    refine ⟨fun hlegal => completes_of_exec_withCurd (exec_cdecl_legal ha hl hlegal) fun t hmem hcurd _ _ => ?_,
      fun f hwrong => ⟨_, exec_cdecl_wrong ha hl hwrong, State.trap_curds .., ?_⟩⟩
    · rw [hcurd]
      have hdecl : w0.setWidth 24 = w0.extractLsb' 0 24 := BitVec.setWidth_eq_extractLsb' (by decide)
      refine ⟨hmem, hdecl, rfl, fun j => ?_⟩
      rw [Curd.declare_part]
      exact ⟨rfl, rfl, bindsOf_get w1 w2 j⟩
    · obtain ⟨-, -, htrapped⟩ := (s.withWorld w).trapAt_trapped
        (trapIllegalInfo (.cdecl c a) v (BitVec.ofNat 64 f)) s.cp.pc
      exact htrapped
  case refine_2 =>
    intro j hgen hj honly
    have hpos : r.position bindCp = some j := Curd.position_bindCp_some hj honly
    have helem : e.toNat < r.numElems := Curd.lt_numElems fun haff => Nat.lt_succ_of_le (he haff)
    refine ⟨fun hclosed => traps_of_exec_trap (exec_cput_closed he hgen hpos hclosed), fun hwf hopen =>
      completes_of_exec_withCurd (exec_cput_open he hgen hpos hopen) fun t _ hcurd hothers hsees => ?_⟩
    obtain ⟨hpresent, hvals, hentries, hclosed⟩ := Curd.put_entered (j := j) helem v (x == 1)
    rw [hcurd]
    refine ⟨fun n hn => (hothers n hn).trans (Eng.curd_congr (s.releasedBy_curds _) n),
      fun y => (hsees y).trans (State.releasedBy_sees hwf _ y), fun i hi => r.part_put_ne _ _ _ hi, hpresent, hvals,
      hentries, hclosed.trans (by rw [hopen, Bool.false_or]), fun hop hfmt hp => ?_⟩
    exact Curd.put_iadd e.isLt (congrArg BitVec.toNat hop) hfmt hp v _
  case refine_3 =>
    refine completes_of_exec_withCurd (w := s.w) (x := r.clear) (exec_cclr_declared hgen) fun t hmem hcurd hothers _ => ?_
    rw [hcurd]
    refine ⟨hothers, hmem, ?_, fun j hj => ?_⟩
    · rw [Curd.clear_gen, nextGen]
      simp only [beq_iff_eq]
    · rw [Curd.clear_part hj]
      exact ⟨rfl, rfl, rfl⟩
  case refine_4 =>
    refine completes_of_exec_withCurd (w := s.w) (exec_settle_closed hgen hptrap (Curd.allClosed_seven hclosed))
      fun t hmem hcurd hothers _ => ?_
    rw [hcurd]
    obtain ⟨hpresent, hfirst, hclosed⟩ := r.settle_keeps
    exact ⟨hothers, hmem, hpresent, fun i _ => hfirst i, hclosed⟩
end

section
/-! SUPPORT. The vat controllers: their slots, and what their accesses to the completion words go by (R252, R259, R301). -/

namespace Sys2Proof.Machine

/-- What a translation for a unit goes by: the TLB, the node number, the unit's own walks. -/
def Eng.access (g : Eng) (u : Nat) : List TlbEntry × BitVec 14 × List Walk :=
  (g.tlb, g.node, g.walks.filter (fun k => k.who == Walker.unit u))

/-- The same of a core's unit, with the walk that the action in turn still needs. -/
def World.access (w : World) (c u : Nat) : (List TlbEntry × BitVec 14 × List Walk) × Option (Nat × Walk) :=
  ((w.eng c).access u, w.miss)

/-- What a change of a core's units leaves of its slots, and of the accesses of one of its units. -/
structure Eng.CtlKept (u : Nat) (g g' : Eng) : Prop where
  vats : g'.vats = g.vats
  access : g'.access u = g.access u

structure World.CtlKept (c u : Nat) (w w' : World) : Prop where
  eng : (w.eng c).CtlKept u (w'.eng c)
  miss : w'.miss = w.miss

theorem Eng.CtlKept.refl (u : Nat) (g : Eng) : g.CtlKept u g := ⟨rfl, rfl⟩

theorem Eng.CtlKept.trans {u : Nat} {f g h : Eng} (a : f.CtlKept u g) (b : g.CtlKept u h) : f.CtlKept u h :=
  ⟨b.vats.trans a.vats, b.access.trans a.access⟩

theorem Eng.CtlKept.foldl {α : Type} {u : Nat} {f : Eng → α → Eng} (hf : ∀ (g : Eng) x, g.CtlKept u (f g x)) (xs : List α)
    (g : Eng) : g.CtlKept u (xs.foldl f g) := by
  induction xs generalizing g with
  | nil => exact .refl u g
  | cons x xs ih => exact (hf g x).trans (ih (f g x))

theorem Eng.CtlKept.vat {u : Nat} {g g' : Eng} (h : g.CtlKept u g') (v : Nat) : g'.vat v = g.vat v := by
  unfold Eng.vat
  rw [h.vats]

namespace World.CtlKept

variable {c u : Nat} {w w' w'' : World}

theorem refl (c u : Nat) (w : World) : w.CtlKept c u w := ⟨.refl .., rfl⟩

theorem trans (h : w.CtlKept c u w') (h' : w'.CtlKept c u w'') : w.CtlKept c u w'' :=
  ⟨h.eng.trans h'.eng, h'.miss.trans h.miss⟩

theorem vat (h : w.CtlKept c u w') (v : Nat) : (w'.eng c).vat v = (w.eng c).vat v := h.eng.vat v

theorem access (h : w.CtlKept c u w') : w'.access c u = w.access c u := Prod.ext h.eng.access h.miss

/-- The units of some core are put back with what its controllers go by. -/
theorem setEng {k : Nat} {g : Eng} (h : (w.eng k).CtlKept u g) : w.CtlKept c u (w.setEng k g) where
  eng := by
    by_cases hc : c = k
    · subst hc
      rw [World.eng_setEng_same]
      exact h
    · rw [World.eng_setEng_ne _ _ hc]
      exact .refl ..
  miss := rfl

theorem foldl {α : Type} {f : World → α → World} (hf : ∀ (w : World) x, w.CtlKept c u (f w x)) (xs : List α) (w : World) :
    w.CtlKept c u (xs.foldl f w) := by
  induction xs generalizing w with
  | nil => exact .refl ..
  | cons x xs ih => exact (hf w x).trans (ih (f w x))

end World.CtlKept

/-- Changing a slot changes no access. -/
theorem World.access_setVat (w : World) (c u v : Nat) (x : Vat) :
    (w.setEng c ((w.eng c).setVat v x)).access c u = w.access c u := by
  unfold World.access
  rw [World.eng_setEng_same]
  rfl

@[simp] theorem Eng.vat_setVat_same (g : Eng) (v : Nat) (x : Vat) : (g.setVat v x).vat v = x := Tbl.get_put_same ..

theorem Eng.vat_setVat_ne (g : Eng) {u v : Nat} (x : Vat) (h : u ≠ v) : (g.setVat v x).vat u = g.vat u :=
  Tbl.get_put_ne _ _ _ h

/-! Walks of other units. -/

theorem filter_unitWalks {u : Nat} {p : Walk → Bool} (h : ∀ k : Walk, k.who = .unit u → p k = true) (ks : List Walk) :
    (ks.filter p).filter (fun k => k.who == Walker.unit u) = ks.filter (fun k => k.who == Walker.unit u) := by
  rw [List.filter_filter]
  refine List.filter_congr fun k _ => ?_
  cases hk : k.who == Walker.unit u
  · rfl
  · rw [h k (beq_iff_eq.1 hk), Bool.and_true]

/-- Dropping walks of others keeps what a unit's accesses go by. -/
theorem Eng.CtlKept.of_walks {u : Nat} {g g' : Eng} {p : Walk → Bool} (hvats : g'.vats = g.vats) (htlb : g'.tlb = g.tlb)
    (hnode : g'.node = g.node) (hwalks : g'.walks = g.walks.filter p) (hp : ∀ k : Walk, k.who = .unit u → p k = true) :
    g.CtlKept u g' where
  vats := hvats
  access := by
    unfold Eng.access
    rw [htlb, hnode, hwalks, filter_unitWalks hp]

/-! Events and reports. -/

@[simp] theorem World.traceTo_miss (w : World) (k : Nat) (b : Bool) (r : BitVec 128) : (w.traceTo k b r).miss = w.miss := by
  unfold World.traceTo
  dsimp only
  split <;> rfl

@[simp] theorem World.emit_miss (w : World) (c u : Nat) (t : BitVec 8) (p : BitVec 32) : (w.emit c u t p).miss = w.miss := by
  unfold World.emit World.raiseEvent
  split
  · rfl
  · split
    · rfl
    · split
      · rfl
      · dsimp only
        split <;> simp

theorem World.emit_ctlKept (w : World) (c k u u' : Nat) (t : BitVec 8) (p : BitVec 32) :
    w.CtlKept c u (w.emit k u' t p) where
  eng := by
    obtain ⟨-, -, heng⟩ := w.emit_keeps k u' t p
    obtain ⟨r, q, h⟩ := heng c
    rw [h]
    exact ⟨rfl, rfl⟩
  miss := World.emit_miss ..

/-! The completion word (R252): where its store leads, and what the store leaves. -/

/-- Where the completion word of a slot is, as its controller finds it. -/
def World.completionAt (w : World) (c v : Nat) (x : Vat) : Except XlatStop PhysAddr :=
  (w.commandSeek c (addrVat v) x.asid x.ptroot x.priv x.xoff .write x.cw).1

/-- A refusal that a unit's walk has come to stands among its own walks. -/
theorem Eng.refusal_congr {g g' : Eng} {u : Nat} (h : g'.access u = g.access u) (asid : BitVec 16) (root : Word) (p : Bool)
    (k : Access) (va : Word) :
    g'.refusal (fun k => k.who == Walker.unit u) asid root p k va =
      g.refusal (fun k => k.who == Walker.unit u) asid root p k va := by
  have own : ∀ g : Eng, g.refusal (fun k => k.who == Walker.unit u) asid root p k va =
      ((g.access u).2.2.find? (fun x => !x.live && x.ofPage asid va && x.ptroot == root && x.priv == p &&
        x.access == k)).bind (·.refused) := fun g => by
    unfold Eng.refusal Eng.access
    dsimp only
    rw [List.find?_filter]
    simp only [Bool.decide_and, Bool.decide_eq_true, Bool.and_assoc]
  rw [own, own, h]

theorem World.translate_unit_congr {w w' : World} {c u : Nat} (h : (w'.eng c).access u = (w.eng c).access u)
    (asid : BitVec 16) (root : Word) (p : Bool) (k : Access) (va : Word) :
    (w'.translate c (.unit u) (fun k => k.who == Walker.unit u) asid root p k va).1 =
      (w.translate c (.unit u) (fun k => k.who == Walker.unit u) asid root p k va).1 := by
  have htlb : (w'.eng c).tlb = (w.eng c).tlb := congrArg Prod.fst h
  have hnode : (w'.eng c).node = (w.eng c).node := congrArg (·.2.1) h
  unfold World.translate Eng.lookup
  dsimp only
  rw [htlb, hnode, Eng.refusal_congr h]
  split
  · rfl
  · split
    · split <;> rfl
    · split <;> rfl

section
variable (w : World) (c u : Nat) (asid : BitVec 16) (root : Word) (p o : Bool) (k : Access) (va : Word)

/-- An access that needs no walk changes nothing; one that needs it leaves the request alone. -/
theorem World.commandSeek_world : (w.commandSeek c u asid root p o k va).2 = w ∨
    ((w.commandSeek c u asid root p o k va).1 = .error .walk ∧
      ∃ m, (w.commandSeek c u asid root p o k va).2 = { w with miss := m }) := by
  unfold World.commandSeek
  split
  · exact .inl rfl
  · rcases w.translate_world c (.unit u) (fun k => k.who == Walker.unit u) asid root p k va with h | ⟨h, -⟩
    · split
      · exact .inr ⟨rfl, _, rfl⟩
      · exact .inl h
    · split
      · exact .inr ⟨rfl, _, rfl⟩
      · next hne => exact (hne _ (Prod.ext h rfl)).elim

/-- An answer leaves everything as it was. -/
theorem World.commandSeek_answer {x : Except XlatStop PhysAddr} (h : (w.commandSeek c u asid root p o k va).1 = x)
    (hx : x ≠ .error .walk) : w.commandSeek c u asid root p o k va = (x, w) := by
  rcases w.commandSeek_world c u asid root p o k va with hw | ⟨hwalk, -⟩
  · exact Prod.ext h hw
  · exact absurd (h.symm.trans hwalk) hx

theorem World.commandXlat_fst : (w.commandXlat c u asid root p o k va).1 = (w.commandSeek c u asid root p o k va).1 := by
  unfold World.commandXlat
  split
  · next h => rw [h]
  · rfl

end

theorem World.commandSeek_congr {w w' : World} {c u : Nat} (h : (w'.eng c).access u = (w.eng c).access u) (asid : BitVec 16)
    (root : Word) (p o : Bool) (k : Access) (va : Word) :
    (w'.commandSeek c u asid root p o k va).1 = (w.commandSeek c u asid root p o k va).1 := by
  have both := World.translate_unit_congr h asid root p k va
  unfold World.commandSeek
  split
  · rfl
  · split
    · next h1 =>
      rw [h1] at both
      split
      · rfl
      · exact both
    · split
      · next h2 =>
        rw [h2] at both
        exact both
      · exact both

theorem World.completionAt_congr {w w' : World} {c v : Nat} {x y : Vat} (h : w'.access c (addrVat v) = w.access c (addrVat v))
    (hy : (y.asid, y.ptroot, y.priv, y.xoff, y.cw) = (x.asid, x.ptroot, x.priv, x.xoff, x.cw)) :
    w'.completionAt c v y = w.completionAt c v x := by
  unfold World.completionAt
  simp only [Prod.mk.injEq] at hy
  obtain ⟨hasid, hroot, hpriv, hxoff, hcw⟩ := hy
  rw [hasid, hroot, hpriv, hxoff, hcw]
  exact World.commandSeek_congr (congrArg Prod.fst h) ..

end Sys2Proof.Machine
end

section
/-! SUPPORT. The store to a completion word and the retirement of a vat (R252). -/

namespace Sys2Proof.Machine

theorem World.markLines_engs (w : World) (a n c : Nat) :
    ∃ es, (w.markLines a n).eng c = { w.eng c with elems := es } := by
  unfold World.markLines
  split
  · next k e o _ =>
    by_cases h : c = k
    · subst h
      exact ⟨_, World.eng_setEng_same ..⟩
    · exact ⟨_, World.eng_setEng_ne _ _ h⟩
  · exact ⟨_, rfl⟩

@[simp] theorem World.markLines_miss (w : World) (a n : Nat) : (w.markLines a n).miss = w.miss := by
  unfold World.markLines
  split <;> rfl

theorem World.store_ctlKept (w : World) (c u a : Nat) (bs : List Byte) : w.CtlKept c u (w.store a bs) where
  eng := by
    obtain ⟨es, h⟩ := w.markLines_engs a bs.length c
    rw [show (w.store a bs).eng c = _ from h]
    exact ⟨rfl, rfl⟩
  miss := World.markLines_miss ..

/-- Everything that a unit's write of other than a whole line can do: the bytes leave for another package, or are stored. -/
theorem World.unitWriteAs_ok {w w' : World} {paced : Bool} {c : Nat} {pa : PhysAddr} {bs : List Byte} (hlen : bs.length ≠ 64)
    (h : w.unitWriteAs paced c pa bs = .ok () w') :
    w' = w.sendFrame pa.node.toNat pa.addr (w.eng c).partid bs ∨ w' = w.store pa.addr bs := by
  unfold World.unitWriteAs at h
  split at h
  · cases h
  · split at h
    · cases h
      exact .inl rfl
    · split at h
      case h_1 =>
        cases h
        exact .inr rfl
      case h_2 =>
        dsimp only at h
        split at h
        case h_1 =>
          split at h
          · cases h
          · cases h
            exact .inr rfl
        case h_2 =>
          rw [if_neg fun hline => hlen hline.1] at h
          cases h
        all_goals cases h
      all_goals cases h

theorem World.releaseStore_ctlKept (w : World) (c u : Nat) (pa : PhysAddr) {bs : List Byte} (hlen : bs.length ≠ 64) :
    w.CtlKept c u (w.releaseStore c pa bs) := by
  unfold World.releaseStore
  split
  · next h =>
    rcases World.unitWriteAs_ok hlen h with rfl | rfl
    · exact ⟨⟨rfl, rfl⟩, rfl⟩
    · exact w.store_ctlKept ..
  · exact .refl ..

/-- A release store to plain memory is performed. -/
theorem World.releaseStore_plain {s : State} {pa : PhysAddr} (h : PlainAt s pa) (bs : List Byte) :
    s.w.releaseStore s.cur pa bs = s.w.store pa.addr bs := by
  unfold World.releaseStore World.unitWriteAs
  rw [h.here, h.reach]
  rcases h.region with ⟨c, hr⟩ | ⟨c, e, o, hr, hram⟩
  · simp [hr]
  · simp [hr, hram]

section
variable {w : World} {c v : Nat} (val : Word)

/-- The completion word of a slot whose ARM named none stands in the slot's window. -/
theorem World.storeCompletion_window (h : ((w.eng c).vat v).cw = 0) :
    w.storeCompletion c v val = w.setEng c ((w.eng c).setVat v { (w.eng c).vat v with window := val }) := by
  simp [World.storeCompletion, h]

variable (h : ((w.eng c).vat v).cw ≠ 0)
include h

theorem World.storeCompletion_ok {pa : PhysAddr} (hat : w.completionAt c v ((w.eng c).vat v) = .ok pa) :
    w.storeCompletion c v val = w.releaseStore c pa (leBytes 8 val.toNat) := by
  unfold World.storeCompletion
  dsimp only
  rw [if_neg (by simpa using h), World.commandSeek_answer (h := hat) (hx := by simp)]

theorem World.storeCompletion_refused {r : Refused} (hat : w.completionAt c v ((w.eng c).vat v) = .error (.refused r)) :
    w.storeCompletion c v val = w := by
  unfold World.storeCompletion
  dsimp only
  rw [if_neg (by simpa using h), World.commandSeek_answer (h := hat) (hx := by simp)]

end

/-- The completion word of a slot can be reached without a walk. -/
def World.CompletionKnown (w : World) (c v : Nat) (x : Vat) : Prop := x.cw = 0 ∨ w.completionAt c v x ≠ .error .walk

theorem World.CompletionKnown.of_answer {w : World} {c v : Nat} {x : Vat} {y : Except XlatStop PhysAddr}
    (h : w.completionAt c v x = y) (hy : y ≠ .error .walk) : w.CompletionKnown c v x := .inr (h.trans_ne hy)

/-- The store of a completion changes nothing of its slot but the window, and nothing that its controller's accesses go by. -/
theorem World.storeCompletion_keeps {w : World} {c v : Nat} (val : Word) (h : w.CompletionKnown c v ((w.eng c).vat v)) :
    (∃ y, ((w.storeCompletion c v val).eng c).vat v = { (w.eng c).vat v with window := y }) ∧
      (w.storeCompletion c v val).access c (addrVat v) = w.access c (addrVat v) := by
  by_cases hcw : ((w.eng c).vat v).cw = 0
  · rw [World.storeCompletion_window val hcw]
    exact ⟨⟨val, by simp⟩, w.access_setVat ..⟩
  · have kept : w.CtlKept c (addrVat v) (w.storeCompletion c v val) := by
      match hat : w.completionAt c v ((w.eng c).vat v) with
      | .ok pa =>
        rw [World.storeCompletion_ok val hcw hat]
        exact w.releaseStore_ctlKept c (addrVat v) pa (by simp)
      | .error (.refused r) =>
        rw [World.storeCompletion_refused val hcw hat]
        exact .refl ..
      | .error .walk => exact absurd hat (h.resolve_left hcw)
    exact ⟨⟨_, kept.vat v⟩, kept.access⟩

end Sys2Proof.Machine
end

section
/-! SUPPORT. The retirement of a vat (R252). -/

namespace Sys2Proof.Machine

@[simp] theorem World.emit_vat (w : World) (c k u v : Nat) (t : BitVec 8) (p : BitVec 32) :
    ((w.emit k u t p).eng c).vat v = (w.eng c).vat v := (w.emit_ctlKept c k u u t p).vat v

/-- An event changes the units of its own core alone. -/
theorem World.emit_others (w : World) {c k : Nat} (u : Nat) (t : BitVec 8) (p : BitVec 32) (h : k ≠ c) :
    (w.emit c u t p).eng k = w.eng k := by
  have traced : ∀ x b r, (w.traceTo x b r).eng k = w.eng k := fun x b r => by
    unfold World.eng
    rw [World.traceTo_engs]
  unfold World.emit World.raiseEvent
  split
  · rfl
  · split
    · rfl
    · split
      · exact World.eng_setEng_ne _ _ h
      · dsimp only
        split
        · exact traced ..
        · exact (World.eng_setEng_ne _ _ h).trans (traced ..)

section
variable (w : World) (c v : Nat)

@[simp] theorem World.collectVat_mem : (w.collectVat c v).mem = w.mem := rfl

@[simp] theorem World.collectVat_miss : (w.collectVat c v).miss = w.miss := rfl

@[simp] theorem World.collectVat_vat (u : Nat) : ((w.collectVat c v).eng c).vat u = (w.eng c).vat u := by
  unfold World.collectVat World.collect
  dsimp only
  rw [World.eng_setEng_same]
  rfl

theorem World.collectVat_others {k : Nat} (h : k ≠ c) : (w.collectVat c v).eng k = w.eng k := World.eng_setEng_ne _ _ h

/-- A slot as its retirement leaves it, but for the completion word. -/
def Vat.retired (x : Vat) : Vat := { x with state := .retired, vseq := x.vseq + 1 }

/-- The controller has counted the retirement, and has its completion still to store. -/
def World.markRetired : World := w.setEng c ((w.eng c).setVat v ((w.eng c).vat v).retired)

theorem World.retiring_eq : w.retiring c v =
    ((w.markRetired c v).storeCompletion c v (((w.eng c).vat v).vseq + 1)).emit c (addrVat v) tVATRETIRE
      (BitVec.ofNat 3 v ++ (((w.eng c).vat v).vseq + 1).extractLsb' 0 29) := rfl

@[simp] theorem World.markRetired_vat : ((w.markRetired c v).eng c).vat v = ((w.eng c).vat v).retired := by
  unfold World.markRetired
  simp

theorem World.markRetired_access (u : Nat) : (w.markRetired c v).access c u = w.access c u := w.access_setVat ..

theorem World.markRetired_completionAt :
    (w.markRetired c v).completionAt c v (((w.markRetired c v).eng c).vat v) = w.completionAt c v ((w.eng c).vat v) :=
  World.completionAt_congr (w.markRetired_access ..) (by rw [w.markRetired_vat]; rfl)

theorem World.retire_mem :
    (w.retire c v).mem = ((w.markRetired c v).storeCompletion c v (((w.eng c).vat v).vseq + 1)).mem := by
  rw [World.retire, World.collectVat_mem, World.retiring_eq, World.emit_mem]

end

section
variable {w : World} {c v : Nat}

/-- Retirement counts, and keeps what the controller's accesses go by. -/
theorem World.retiring_keeps (h : w.CompletionKnown c v ((w.eng c).vat v)) :
    (∃ y, ((w.retiring c v).eng c).vat v = { ((w.eng c).vat v).retired with window := y }) ∧
      (w.retiring c v).access c (addrVat v) = w.access c (addrVat v) := by
  have known : (w.markRetired c v).CompletionKnown c v (((w.markRetired c v).eng c).vat v) := by
    refine h.imp (fun hcw => ?_) fun hat => ?_
    · rw [World.markRetired_vat]
      exact hcw
    · rwa [World.markRetired_completionAt]
  obtain ⟨⟨y, hvat⟩, haccess⟩ := World.storeCompletion_keeps (((w.eng c).vat v).vseq + 1) known
  rw [World.retiring_eq]
  refine ⟨⟨y, ?_⟩, ?_⟩
  · rw [World.emit_vat, hvat, World.markRetired_vat]
  · rw [(World.emit_ctlKept ..).access, haccess, World.markRetired_access]

theorem World.retire_counts (h : w.CompletionKnown c v ((w.eng c).vat v)) :
    (((w.retire c v).eng c).vat v).state = .retired ∧
      (((w.retire c v).eng c).vat v).vseq = ((w.eng c).vat v).vseq + 1 := by
  obtain ⟨⟨y, hvat⟩, -⟩ := World.retiring_keeps h
  rw [World.retire, World.collectVat_vat, hvat]
  exact ⟨rfl, rfl⟩

/-- A completion in the slot's own window changes the slot alone. -/
theorem World.retire_window (h : ((w.eng c).vat v).cw = 0) :
    (w.retire c v).mem = w.mem ∧
      ((w.retire c v).eng c).vat v = { ((w.eng c).vat v).retired with window := ((w.eng c).vat v).vseq + 1 } ∧
      (∀ u, u ≠ v → ((w.retire c v).eng c).vat u = (w.eng c).vat u) ∧
      ∀ k, k ≠ c → (w.retire c v).eng k = w.eng k := by
  have hcw : (((w.markRetired c v).eng c).vat v).cw = 0 := by
    rw [World.markRetired_vat]
    exact h
  have hstore := World.storeCompletion_window (((w.eng c).vat v).vseq + 1) hcw
  refine ⟨?_, ?_, fun u hu => ?_, fun k hk => ?_⟩
  · rw [World.retire_mem, hstore]
    rfl
  · rw [World.retire, World.collectVat_vat, World.retiring_eq, World.emit_vat, hstore, World.eng_setEng_same,
      Eng.vat_setVat_same, World.markRetired_vat]
  · rw [World.retire, World.collectVat_vat, World.retiring_eq, World.emit_vat, hstore, World.eng_setEng_same,
      Eng.vat_setVat_ne _ _ hu, World.markRetired, World.eng_setEng_same, Eng.vat_setVat_ne _ _ hu]
  · rw [World.retire, World.collectVat_others _ _ _ hk, World.retiring_eq, World.emit_others _ _ _ _ hk, hstore,
      World.eng_setEng_ne _ _ hk, World.markRetired, World.eng_setEng_ne _ _ hk]

/-- A completion word whose store is refused leaves memory. -/
theorem World.retire_refused {r : Refused} (h : ((w.eng c).vat v).cw ≠ 0)
    (hat : w.completionAt c v ((w.eng c).vat v) = .error (.refused r)) : (w.retire c v).mem = w.mem := by
  rw [World.retire_mem, World.storeCompletion_refused (r := r) _ (by rw [World.markRetired_vat]; exact h)
    (by rw [World.markRetired_completionAt]; exact hat)]
  rfl

end

/-- A change of a slot leaves the accesses to plain memory. -/
theorem PlainAt.setVat {s : State} {pa : PhysAddr} (h : PlainAt s pa) (v : Nat) (x : Vat) :
    PlainAt (s.withEng (s.eng.setVat v x)) pa := by
  have engs : ∀ k, ∃ vs, (s.withEng (s.eng.setVat v x)).w.eng k = { s.w.eng k with vats := vs } := fun k => by
    by_cases hk : k = s.cur
    · subst hk
      exact ⟨_, World.eng_setEng_same ..⟩
    · exact ⟨_, World.eng_setEng_ne _ _ hk⟩
  have part : ∀ k, ((s.withEng (s.eng.setVat v x)).w.eng k).partid = (s.w.eng k).partid := fun k => by
    obtain ⟨vs, hk⟩ := engs k
    rw [hk]
  refine ⟨h.here, .trans ?_ h.reach, h.region.imp_right fun ⟨k, e, o, hr, hm⟩ => ⟨k, e, o, hr, ?_⟩⟩
  · unfold World.mayReach
    simp only [part]
    rfl
  · obtain ⟨vs, hk⟩ := engs k
    rw [hk]
    exact hm

/-- A completion word in plain memory holds VSEQ, and every other byte stands. -/
theorem World.retire_stores {s : State} {v : Nat} {pa : PhysAddr} (h : (s.eng.vat v).cw ≠ 0) (hwf : Memory.wf s.w.mem = true)
    (hat : s.w.completionAt s.cur v (s.eng.vat v) = .ok pa) (hplain : PlainAt s pa) (z : Nat) :
    (within pa.addr 8 z → memRead (s.w.retire s.cur v).mem z = byteOf ((s.eng.vat v).vseq + 1).toNat (z - pa.addr)) ∧
      (¬ within pa.addr 8 z → memRead (s.w.retire s.cur v).mem z = memRead s.w.mem z) := by
  have hmem : (s.w.retire s.cur v).mem =
      ((s.w.markRetired s.cur v).store pa.addr (leBytes 8 ((s.eng.vat v).vseq + 1).toNat)).mem := by
    rw [World.retire_mem, World.storeCompletion_ok _ (by rw [World.markRetired_vat]; exact h)
      (by rw [World.markRetired_completionAt]; exact hat)]
    exact congrArg World.mem (World.releaseStore_plain (hplain.setVat v (s.eng.vat v).retired) _)
  rw [hmem, World.store_read (w := s.w.markRetired s.cur v) hwf]
  exact ⟨fun hz => if_pos hz, fun hz => if_neg hz⟩

section
variable {s : State} {v : BitVec 3}

theorem exec_vatRetire_eq : exec (.vatRetire v) s =
    .next (s.withWorld (if s.w.mayRetire s.cur v.toNat then s.w.retire s.cur v.toNat else s.w)) := rfl

theorem exec_vatRetire (h : s.w.mayRetire s.cur v.toNat = true) :
    exec (.vatRetire v) s = .next (s.withWorld (s.w.retire s.cur v.toNat)) := by
  rw [exec_vatRetire_eq, if_pos h]

theorem exec_vatRetire_not (h : s.w.mayRetire s.cur v.toNat = false) : exec (.vatRetire v) s = .next s := by
  rw [exec_vatRetire_eq, h]
  rfl

end

end Sys2Proof.Machine
end

section
/-! SUPPORT. The stall watchdog of a vat: its report (R124, R414). -/

namespace Sys2Proof.Machine

/-- A cause of a source is pending, or waits for the events that its unit raises before it. -/
def Eng.Reports (g : Eng) (code : BitVec 8) (source : Nat) : Prop :=
  ∃ q, (q ∈ g.pend ∨ ∃ r ∈ g.reports, r.cause = some q) ∧ q.code = code ∧ q.source = source

/-- A cause that is raised is pending, by an earlier report of its source where there is one. -/
theorem Eng.raise_reports (g : Eng) (p : Pending) : (g.raise p).Reports p.code p.source := by
  unfold Eng.raise
  split
  · next h =>
    obtain ⟨q, hq, hsame⟩ := List.any_eq_true.1 h
    simp only [Bool.and_eq_true, beq_iff_eq] at hsame
    exact ⟨q, .inl hq, hsame⟩
  · exact ⟨p, .inl (by simp), rfl, rfl⟩

@[simp] theorem Eng.raise_vat (g : Eng) (p : Pending) (v : Nat) : (g.raise p).vat v = g.vat v := by
  unfold Eng.raise
  split <;> rfl

/-- What a report with a cause does: memory and the slots stand, and the cause is pending or follows. -/
theorem World.report_reports (w : World) (c : Nat) {r : Report} {p : Pending} (h : r.cause = some p) :
    (w.report c r).mem = w.mem ∧ (∀ v, ((w.report c r).eng c).vat v = (w.eng c).vat v) ∧
      ((w.report c r).eng c).Reports p.code p.source := by
  unfold World.report
  split
  · refine ⟨rfl, fun v => ?_, p, .inr ⟨r, ?_, h⟩, rfl, rfl⟩
    · rw [World.eng_setEng_same]
      rfl
    · simp
  · rw [h]
    dsimp only [World.raise]
    rw [World.eng_setEng_same]
    exact ⟨World.emit_mem .., fun v => by simp, Eng.raise_reports ..⟩

/-- The controller has noted that it reports a stall. -/
def World.markStalled (w : World) (c v : Nat) : World :=
  w.setEng c ((w.eng c).setVat v { (w.eng c).vat v with stallReported := true })

theorem World.markStalled_vat (w : World) (c v : Nat) :
    ((w.markStalled c v).eng c).vat v = { (w.eng c).vat v with stallReported := true } := by
  unfold World.markStalled
  rw [World.eng_setEng_same, Eng.vat_setVat_same]

section
variable {w : World} {c v last : Nat}

/-- A stall that is due is noted and reported, with what starves as information. -/
theorem World.vatStall_due {p : Plane} (hp : ((w.eng c).vat v).active = some p) (hlive : ((w.eng c).vat v).state.live = true)
    (htokens : w.tokensPresent c p.has = true) (hnew : ((w.eng c).vat v).stallReported = false)
    (hlast : stallLimit ≤ last - ((w.eng c).vat v).lastFire) :
    ∃ r info, w.vatStall c v last = (w.markStalled c v).report c r ∧ r.cause = some ⟨cVATSTALL, v, info⟩ := by
  unfold World.vatStall World.markStalled
  dsimp only
  rw [hp]
  dsimp only
  rw [if_pos (by simp [hlive, htokens, hnew, hlast])]
  exact ⟨_, _, rfl, rfl⟩

theorem World.vatStall_idle (h : ((w.eng c).vat v).state.live = false ∨ ((w.eng c).vat v).stallReported = true ∨
    last - ((w.eng c).vat v).lastFire < stallLimit) : w.vatStall c v last = w := by
  unfold World.vatStall
  dsimp only
  split
  · rfl
  · refine if_neg fun hdue => ?_
    simp only [Bool.and_eq_true, Bool.not_eq_true', decide_eq_true_eq] at hdue
    obtain ⟨⟨⟨hlive, -⟩, hnew⟩, hlast⟩ := hdue
    rcases h with h | h | h
    · rw [hlive] at h
      cases h
    · rw [hnew] at h
      cases h
    · exact absurd hlast (Nat.not_le.2 h)

end

section
variable {s : State} {v : BitVec 3}

theorem exec_vatStall_eq : exec (.vatStall v) s =
    .next (s.withWorld (s.w.vatStall s.cur v.toNat (s.w.cycle - 1))) := rfl

theorem exec_vatStall_due {p : Plane} (hp : (s.eng.vat v.toNat).active = some p)
    (hlive : (s.eng.vat v.toNat).state.live = true) (htokens : s.w.tokensPresent s.cur p.has = true)
    (hnew : (s.eng.vat v.toNat).stallReported = false) (hlast : stallLimit ≤ s.w.cycle - 1 - (s.eng.vat v.toNat).lastFire) :
    ∃ w, exec (.vatStall v) s = .next (s.withWorld w) ∧ w.mem = s.w.mem ∧
      (w.eng s.cur).vat v.toNat = { s.eng.vat v.toNat with stallReported := true } ∧
      (w.eng s.cur).Reports cVATSTALL v.toNat := by
  obtain ⟨r, info, hstall, hcause⟩ := World.vatStall_due (w := s.w) (c := s.cur) hp hlive htokens hnew hlast
  obtain ⟨hmem, hvat, hreports⟩ := World.report_reports (s.w.markStalled s.cur v.toNat) s.cur hcause
  refine ⟨_, by rw [exec_vatStall_eq, hstall], hmem, ?_, hreports⟩
  rw [hvat, World.markStalled_vat]
  rfl

theorem exec_vatStall_idle (h : (s.eng.vat v.toNat).state.live = false ∨ (s.eng.vat v.toNat).stallReported = true ∨
    s.w.cycle - 1 - (s.eng.vat v.toNat).lastFire < stallLimit) : exec (.vatStall v) s = .next s := by
  rw [exec_vatStall_eq, World.vatStall_idle h]
  rfl

end

end Sys2Proof.Machine
end

section
/-! SUPPORT. VKILL: what stopping a region leaves of the slots, and the command's performance (R253, R259, R369). -/

namespace Sys2Proof.Machine

theorem Eng.cancelCopy_ctlKept (g : Eng) (u p : Nat) (x : Copy) : g.CtlKept u (g.cancelCopy p x) :=
  .of_walks (p := fun k => k.who != .copySrc p && k.who != .copyDst p) rfl rfl rfl rfl fun k hk => by simp [hk]

theorem World.cancelCopies_ctlKept (w : World) (c k u : Nat) (inside : Nat → Bool) :
    w.CtlKept c u (w.cancelCopies k inside) := by
  refine World.CtlKept.foldl (fun w' q => .setEng (Eng.CtlKept.foldl (fun g x => ?_) _ _)) _ _
  split
  · exact g.cancelCopy_ctlKept ..
  · exact .refl ..

theorem Eng.killRegion_ctlKept (g : Eng) (u now : Nat) (has : Nat → Bool) : g.CtlKept u (g.killRegion now has) := by
  unfold Eng.killRegion
  extract_lets g1 g2 gone g3 g4 g5
  have elems : g.CtlKept u g1 := .foldl (fun _ _ => by exact ⟨rfl, rfl⟩) _ _
  have pools : g1.CtlKept u g2 := ⟨rfl, rfl⟩
  have streams : g2.CtlKept u g3 := .foldl (fun _ _ => by exact ⟨rfl, rfl⟩) _ _
  have nodes : g3.CtlKept u g4 := .foldl (fun _ _ => by exact ⟨rfl, rfl⟩) _ _
  have ports : g4.CtlKept u g5 := .foldl (fun _ _ => by exact ⟨rfl, rfl⟩) _ _
  refine ((((elems.trans pools).trans streams).trans nodes).trans ports).trans ?_
  exact .of_walks rfl rfl rfl rfl fun k hk => by rw [hk]

theorem Eng.dropContribs_ctlKept (g : Eng) (u : Nat) (has : Nat → Bool) : g.CtlKept u (g.dropContribs has) := ⟨rfl, rfl⟩

/-- A vat as VKILL leaves it, but for the completion word. -/
def Vat.killed (x : Vat) : Vat :=
  { x with
    state := .killed, vseq := x.vseq + 1, code := if x.code == cdRESIDUE then 0 else x.code, quietFrom := none
    pressed := false, saved := false }

/-- The scheduler of a core drops what it was injecting into a killed slot. -/
def Eng.killSched (g : Eng) (v : Nat) : Eng :=
  { g with
    sched := { g.sched with injecting := g.sched.injecting.filter (fun q => q.1 != v) }
    walks := g.walks.filter (fun k => k.who != Walker.unit uSCHED) }

theorem Eng.killSched_ctlKept (g : Eng) {v : Nat} (hv : v < 8) : g.CtlKept (addrVat v) (g.killSched v) :=
  .of_walks rfl rfl rfl rfl fun k hk => by
    rw [hk, bne_iff_ne]
    intro e
    have : addrVat v = uSCHED := Walker.unit.inj e
    unfold addrVat uSCHED at this
    omega

/-- The units of a core as VKILL of a slot leaves them, but for the slot (R259). -/
def Eng.killUnits (g : Eng) (now v : Nat) (has : Nat → Bool) : Eng := ((g.killRegion now has).dropContribs has).killSched v

theorem Eng.killUnits_ctlKept (g : Eng) (now : Nat) {v : Nat} (hv : v < 8) (has : Nat → Bool) :
    g.CtlKept (addrVat v) (g.killUnits now v has) :=
  ((g.killRegion_ctlKept ..).trans (Eng.dropContribs_ctlKept ..)).trans (Eng.killSched_ctlKept _ hv)

/-- The controller has stopped its region and counted the VKILL, and has its completion still to store. -/
def World.markKilled (w : World) (c v : Nat) : World :=
  let w' := w.cancelCopies c ((w.eng c).vat v).region
  w'.setEng c (((w'.eng c).killUnits w'.cycle v ((w.eng c).vat v).region).setVat v ((w'.eng c).vat v).killed)

/-- The slot behind the retirement that comes before a VKILL. -/
def World.beforeKill (w : World) (c v : Nat) : World := if w.mayRetire c v then w.retiring c v else w

theorem World.performKill_eq {w : World} {c v : Nat} (h : (((w.beforeKill c v).eng c).vat v).state ≠ .free) :
    ∃ val p, w.performKill c v =
      ((((w.beforeKill c v).markKilled c v).storeCompletion c v val).emit c (addrVat v) tVATKILL p).collectVat c v := by
  refine ⟨(((w.beforeKill c v).eng c).vat v).vseq + 1 ||| 0x8000000000000000,
    BitVec.ofNat 3 v ++ ((((w.beforeKill c v).eng c).vat v).vseq + 1).extractLsb' 0 29, ?_⟩
  have kept := (w.beforeKill c v).cancelCopies_ctlKept c c 0 (((w.beforeKill c v).eng c).vat v).region
  unfold World.markKilled
  dsimp only
  rw [kept.vat]
  unfold World.performKill
  dsimp only
  exact if_neg (by simpa [World.beforeKill] using h)

section
variable {w : World} {c v : Nat}

theorem World.markKilled_vat : ((w.markKilled c v).eng c).vat v = ((w.eng c).vat v).killed := by
  unfold World.markKilled
  dsimp only
  rw [World.eng_setEng_same, Eng.vat_setVat_same, (World.cancelCopies_ctlKept w c c 0 _).vat]

theorem World.markKilled_access (hv : v < 8) : (w.markKilled c v).access c (addrVat v) = w.access c (addrVat v) := by
  have cancelled := w.cancelCopies_ctlKept c c (addrVat v) ((w.eng c).vat v).region
  rw [← (cancelled.trans (.setEng (Eng.killUnits_ctlKept _ (w.cancelCopies c ((w.eng c).vat v).region).cycle hv
    ((w.eng c).vat v).region))).access]
  unfold World.markKilled World.access
  dsimp only
  rw [World.eng_setEng_same, World.eng_setEng_same]
  rfl

/-- The retirement before a VKILL counts, and leaves the slot's address space and what its accesses go by. -/
theorem World.beforeKill_keeps (h : w.CompletionKnown c v ((w.eng c).vat v)) :
    ∃ y, ((w.beforeKill c v).eng c).vat v =
        { (if w.mayRetire c v then ((w.eng c).vat v).retired else (w.eng c).vat v) with window := y } ∧
      (w.beforeKill c v).access c (addrVat v) = w.access c (addrVat v) := by
  unfold World.beforeKill
  split
  · obtain ⟨⟨y, hvat⟩, haccess⟩ := World.retiring_keeps h
    exact ⟨y, hvat, haccess⟩
  · exact ⟨_, rfl, rfl⟩

/-- VKILL of a slot that is not FREE and whose completion word needs no walk: the slot is KILLED and has counted, and no walk is
asked for. -/
theorem World.performKill_kills (hv : v < 8) (hstate : ((w.eng c).vat v).state ≠ .free)
    (h : w.CompletionKnown c v ((w.eng c).vat v)) :
    (((w.performKill c v).eng c).vat v).state = .killed ∧
      (((w.performKill c v).eng c).vat v).vseq =
        (if w.mayRetire c v then ((w.eng c).vat v).vseq + 1 + 1 else ((w.eng c).vat v).vseq + 1) ∧
      (w.performKill c v).miss = w.miss := by
  obtain ⟨y, hvat, haccess⟩ := World.beforeKill_keeps h
  have hnot : (((w.beforeKill c v).eng c).vat v).state ≠ .free := by
    rw [hvat]
    split
    · exact nofun
    · exact hstate
  obtain ⟨val, p, hkill⟩ := World.performKill_eq hnot
  have hmarked := (World.markKilled_access (w := w.beforeKill c v) (c := c) hv).trans haccess
  have known : ((w.beforeKill c v).markKilled c v).CompletionKnown c v
      ((((w.beforeKill c v).markKilled c v).eng c).vat v) := by
    rw [World.markKilled_vat, hvat]
    refine h.imp (fun hcw => ?_) fun hat => ?_
    · split <;> exact hcw
    · rw [World.completionAt_congr hmarked (x := (w.eng c).vat v) (by split <;> rfl)]
      exact hat
  obtain ⟨⟨z, hstored⟩, hafter⟩ := World.storeCompletion_keeps val known
  have hmiss := congrArg Prod.snd (hafter.trans hmarked)
  rw [hkill, World.collectVat_vat, World.emit_vat, hstored, World.markKilled_vat, hvat]
  refine ⟨rfl, ?_, ?_⟩
  · split <;> rfl
  · rw [World.collectVat_miss, World.emit_miss]
    exact hmiss

end

/-- The queue of a core is no part of its slots. -/
theorem Eng.vat_withCommands (g : Eng) (cs : List Command) (v : Nat) : ({ g with commands := cs } : Eng).vat v = g.vat v := rfl

/-- The VKILL at the head of the queue is performed, and leaves the queue, once nothing of it waits for a walk. -/
theorem State.perform_vkill {s : State} {k : Command} {rest : List Command} {v : BitVec 3} (hq : s.eng.commands = k :: rest)
    (hk : k.instr = .vkill v) (hpress : s.eng.pressing = false) (hheld : s.w.heldUnit s.cur (addrVat v.toNat) = false)
    (hmiss : (s.w.performKill s.cur v.toNat).miss = none) :
    ∃ t, s.perform 0 = some t ∧ t.cps = s.cps ∧ t.eng.commands = rest ∧
      ∀ u, t.eng.vat u = ((s.w.performKill s.cur v.toNat).eng s.cur).vat u := by
  have hturn : s.killTurn 0 v.toNat = true := by simp [State.killTurn, hpress]
  have hunit : commandSource (.vkill v) = addrVat v.toNat := if_pos v.isLt
  have hdone : s.performUnit 0 k = some (s.w.performKill s.cur v.toNat) := by simp [State.performUnit, hk]
  have hperform : s.perform 0 = some (s.withWorld ((s.w.performKill s.cur v.toNat).setEng s.cur
      { (s.w.performKill s.cur v.toNat).eng s.cur with commands := rest })) := by
    unfold State.perform
    simp [hq, hk, hunit, hheld, hturn, hdone, hmiss]
  refine ⟨_, hperform, rfl, ?_⟩
  rw [State.eng, State.withWorld_w, State.withWorld_cur, World.eng_setEng_same]
  exact ⟨rfl, fun u => Eng.vat_withCommands ..⟩

end Sys2Proof.Machine
end

section
open Sys2Proof Sys2Proof.Machine

/-- Settles O29: each action by the rule of what it does, a retirement, the report of a stall, a VKILL; where a completion word
leads is the same before and behind the change of its slot. -/
theorem vatEnds : Obligations.VatEnds := by
  intro s v x n
  have answer : s.w.completionAt s.cur v.toNat x = (s.w.commandXlat s.cur (addrVat v.toNat) x.asid x.ptroot x.priv x.xoff
      .write x.cw).1 := (World.commandXlat_fst ..).symm
  refine ⟨fun hmay hcw => ⟨_, exec_vatRetire hmay, rfl, ?window⟩, fun pa w1 hmay hcw hwf hat hplain => ?stored,
    fun r w1 hmay hcw hat => ?refused, exec_vatRetire_not, fun p hp hlive htokens hnew hlast => ?stalled, exec_vatStall_idle,
    fun k rest hq hk hpress hstate hheld hmiss hknown => ?killed⟩
  case window =>
    obtain ⟨hmem, hvat, hslots, hothers⟩ := World.retire_window (w := s.w) (c := s.cur) hcw
    have hslot : (s.withWorld (s.w.retire s.cur v.toNat)).eng.vat v.toNat = { x.retired with window := n } := hvat
    rw [hslot]
    exact ⟨hmem, rfl, rfl, rfl, hslots, hothers⟩
  case stored =>
    have hpa : s.w.completionAt s.cur v.toNat x = .ok pa := by rw [answer, hat]
    obtain ⟨hstate, hseq⟩ := World.retire_counts (.of_answer hpa nofun)
    exact ⟨_, exec_vatRetire hmay, rfl, hstate, hseq, World.retire_stores hcw hwf hpa hplain⟩
  case refused =>
    have hr : s.w.completionAt s.cur v.toNat x = .error (.refused r) := by rw [answer, hat]
    obtain ⟨hstate, hseq⟩ := World.retire_counts (.of_answer hr nofun)
    exact ⟨_, exec_vatRetire hmay, rfl, World.retire_refused hcw hr, hstate, hseq⟩
  case stalled =>
    obtain ⟨w, he, hmem, hvat, hreports⟩ := exec_vatStall_due hp hlive htokens hnew hlast
    have hslot : (s.withWorld w).eng.vat v.toNat = { x with stallReported := true } := hvat
    refine ⟨_, he, rfl, hmem, ?_⟩
    rw [hslot]
    exact ⟨rfl, rfl, hreports⟩
  case killed =>
    have known : s.w.CompletionKnown s.cur v.toNat x := hknown.imp_right fun hne hwalk =>
      hne _ (Prod.ext (answer.symm.trans hwalk) rfl)
    obtain ⟨hkilled, hseq, hafter⟩ := World.performKill_kills v.isLt hstate known
    obtain ⟨t, ht, hcps, hrest, hslots⟩ := State.perform_vkill hq hk hpress hheld (hafter.trans hmiss)
    refine ⟨t, ht, hcps, hrest, ?_⟩
    rw [hslots]
    exact ⟨hkilled, hseq⟩
end

section
/-! SUPPORT. An instruction that writes one register, and the integers that its patterns stand for: sums, products, shifts and
comparisons (R147, R149, R151, R153, R154). -/

namespace Sys2Proof.Machine

/-- An instruction that finishes with a value writes it (R147). -/
theorem writes_of_exec_finish {i : Instr} {s : State} {d : Reg} {v u : Word} (h : exec i s = .next (s.finish d v))
    (hv : v = u) : Writes i s d u :=
  ⟨_, h, hv ▸ s.finish_wrote d v⟩

/-! Sums, differences and products, of any width. -/

section
variable {n : Nat} (x y : BitVec n)

theorem add_eq_ofNat : x + y = BitVec.ofNat n (x.toNat + y.toNat) := by simp [BitVec.ofNat_add]

theorem sub_eq_ofInt : x - y = BitVec.ofInt n (x.toInt - y.toInt) := by
  rw [Int.sub_eq_add_neg, BitVec.ofInt_add, BitVec.ofInt_neg, BitVec.ofInt_toInt, BitVec.ofInt_toInt, BitVec.sub_eq_add_neg]

theorem mul_eq_ofNat : x * y = BitVec.ofNat n (x.toNat * y.toNat) := by simp [BitVec.ofNat_mul]

theorem mul_eq_ofInt : x * y = BitVec.ofInt n (x.toInt * y.toInt) := by
  rw [BitVec.ofInt_mul, BitVec.ofInt_toInt, BitVec.ofInt_toInt]

end

/-- The sum with a shorter signed operand. -/
theorem add_signExtend {n m : Nat} (x : BitVec n) (i : BitVec m) :
    x + i.signExtend n = BitVec.ofInt n (x.toInt + i.toInt) := by
  rw [BitVec.ofInt_add, BitVec.ofInt_toInt]
  rfl

/-! The high halves of the products: both are exact in 128 bits. -/

theorem mulHighS_eq (x y : Word) : mulHighS x y = BitVec.ofInt 64 (x.toInt * y.toInt / 2 ^ 64) := by
  have hprod : x.signExtend 128 * y.signExtend 128 = BitVec.ofInt 128 (x.toInt * y.toInt) := (BitVec.ofInt_mul ..).symm
  rw [mulHighS, hprod]
  generalize x.toInt * y.toInt = p
  apply BitVec.eq_of_toNat_eq
  simp only [BitVec.extractLsb'_toNat, BitVec.toNat_ofInt, Nat.shiftRight_eq_div_pow]
  omega

theorem mulHighU_eq (x y : Word) : mulHighU x y = BitVec.ofNat 64 (x.toNat * y.toNat / 2 ^ 64) := by
  have hprod : x.setWidth 128 * y.setWidth 128 = BitVec.ofNat 128 (x.toNat * y.toNat) := by simp [BitVec.ofNat_mul]
  rw [mulHighU, hprod]
  generalize x.toNat * y.toNat = p
  apply BitVec.eq_of_toNat_eq
  simp only [BitVec.extractLsb'_toNat, BitVec.toNat_ofNat, Nat.shiftRight_eq_div_pow]
  omega

/-! Shifts by a count, and the rotation. -/

section
variable {n : Nat} (x : BitVec n)

theorem shiftLeft_eq_ofNat (k : Nat) : x <<< k = BitVec.ofNat n (x.toNat * 2 ^ k) := by
  apply BitVec.eq_of_toNat_eq
  simp [Nat.shiftLeft_eq]

theorem ushiftRight_eq_ofNat (k : Nat) : x >>> k = BitVec.ofNat n (x.toNat / 2 ^ k) := by
  apply BitVec.eq_of_toNat_eq
  rw [BitVec.toNat_ushiftRight, Nat.shiftRight_eq_div_pow, BitVec.toNat_ofNat,
    Nat.mod_eq_of_lt ((Nat.div_le_self ..).trans_lt x.isLt)]

theorem sshiftRight_eq_ofInt (k : Nat) : x.sshiftRight k = BitVec.ofInt n (x.toInt / (2 ^ k : Nat)) := by
  rw [← Int.shiftRight_eq_div_pow]
  rfl

theorem rotateLeft_eq_rotate (y : BitVec n) : x.rotateLeft (y.toNat % n) = rotate n x y := by
  rw [BitVec.rotateLeft_def, Nat.mod_mod, shiftLeft_eq_ofNat, ushiftRight_eq_ofNat]
  rfl

end

/-- A halfword behind the low 48 bits of a word (R153, LIH). -/
theorem shiftLeft_or_setWidth (x : Word) (i : BitVec 16) :
    (x <<< 16) ||| i.setWidth 64 = BitVec.ofNat 64 (x.toNat * 2 ^ 16 + i.toNat) := by
  rw [← Nat.shiftLeft_eq, Nat.shiftLeft_add_eq_or_of_lt i.isLt, BitVec.ofNat_or, Nat.shiftLeft_eq, ← shiftLeft_eq_ofNat,
    BitVec.ofNat_toNat]

/-! Comparisons. -/

/-- A truth value is 1 exactly where the comparison that it decides holds. -/
theorem truth_eq_ite {c : Bool} {p : Prop} [Decidable p] (h : c = true ↔ p) : truth c = if p then 1 else 0 :=
  if_congr h rfl rfl

section
variable {n : Nat} {x y : BitVec n}

theorem slt_iff_toInt : x.slt y = true ↔ x.toInt < y.toInt := by rw [BitVec.slt_eq_decide, decide_eq_true_iff]
theorem sle_iff_toInt : x.sle y = true ↔ x.toInt ≤ y.toInt := by rw [BitVec.sle_eq_decide, decide_eq_true_iff]
theorem ult_iff_toNat : x.ult y = true ↔ x.toNat < y.toNat := by rw [BitVec.ult_eq_decide, decide_eq_true_iff]
theorem ule_iff_toNat : x.ule y = true ↔ x.toNat ≤ y.toNat := by rw [BitVec.ule_eq_decide, decide_eq_true_iff]

theorem not_slt_iff_toInt : (!x.slt y) = true ↔ x.toInt ≥ y.toInt := by
  rw [Bool.not_eq_true', ← Bool.not_eq_true, slt_iff_toInt, not_lt]

theorem not_ult_iff_toNat : (!x.ult y) = true ↔ x.toNat ≥ y.toNat := by
  rw [Bool.not_eq_true', ← Bool.not_eq_true, ult_iff_toNat, not_lt]

end

end Sys2Proof.Machine
end

section
/-! SUPPORT. Division: the model's quotient and remainder, for any width, and the law of R150. -/

namespace Sys2Proof.Machine

section
variable {n : Nat} (x y : BitVec n)

theorem divS_eq_quotS : divS x y = quotS n x y := by
  refine if_congr Iff.rfl rfl (BitVec.eq_of_toInt_eq ?_)
  rw [BitVec.toInt_sdiv, BitVec.toInt_ofInt]

theorem divU_eq_quotU : divU x y = quotU n x y := by
  refine if_congr Iff.rfl rfl (BitVec.eq_of_toNat_eq ?_)
  rw [BitVec.toNat_udiv, BitVec.toNat_ofNat, Nat.mod_eq_of_lt ((Nat.div_le_self ..).trans_lt x.isLt)]

theorem remS_eq_restS : remS x y = restS n x y := by
  refine if_congr Iff.rfl rfl ?_
  rw [← BitVec.toInt_srem, BitVec.ofInt_toInt]

theorem remU_eq_restU : remU x y = restU n x y := by
  refine if_congr Iff.rfl rfl (BitVec.eq_of_toNat_eq ?_)
  rw [BitVec.toNat_umod, BitVec.toNat_ofNat, Nat.mod_eq_of_lt ((Nat.mod_le ..).trans_lt x.isLt)]

end

section
variable {n : Nat} {x y : BitVec n}

/-- The unsigned law: the divisor is not zero. -/
theorem divU_remU_law (hy : y ≠ 0) :
    x.toNat = (divU x y).toNat * y.toNat + (remU x y).toNat ∧ (remU x y).toNat < y.toNat := by
  rw [divU, remU, if_neg hy, if_neg hy, BitVec.toNat_udiv, BitVec.toNat_umod]
  exact ⟨(Nat.div_add_mod' ..).symm, Nat.mod_lt _ (Nat.pos_of_ne_zero fun h => hy (BitVec.eq_of_toNat_eq h))⟩

/-- The signed law: the divisor is not zero, and the quotient is a number of the width. The quotient is truncated, so that the
remainder takes the sign of the dividend. -/
theorem divS_remS_law (hy : y ≠ 0) (hover : x ≠ BitVec.intMin n ∨ y ≠ -1#n) :
    x.toInt = (divS x y).toInt * y.toInt + (remS x y).toInt ∧ (remS x y).toInt.natAbs < y.toInt.natAbs ∧
      ((remS x y).toInt = 0 ∨ (0 < (remS x y).toInt ↔ 0 < x.toInt)) := by
  have hpos : 0 < y.toInt.natAbs := Int.natAbs_pos.2 fun h => hy (BitVec.eq_of_toInt_eq (h.trans BitVec.toInt_zero.symm))
  rw [divS, remS, if_neg hy, if_neg hy, BitVec.toInt_sdiv_of_ne_or_ne x y hover, BitVec.toInt_srem]
  refine ⟨(Int.tdiv_mul_add_tmod ..).symm, ?_, ?_⟩
  · rw [Int.natAbs_tmod]
    exact Nat.mod_lt _ hpos
  · by_cases hdvd : y.toInt ∣ x.toInt
    · exact .inl (Int.tmod_eq_zero_of_dvd hdvd)
    · right
      rw [← Int.sign_eq_one_iff_pos, Int.sign_tmod, if_neg hdvd, Int.sign_eq_one_iff_pos]

end

/-- The one signed quotient of two words that no word holds gives its dividend, with nothing left over. -/
theorem divS_remS_overflow : divS (0x8000000000000000 : Word) 0xFFFFFFFFFFFFFFFF = 0x8000000000000000 ∧
    remS (0x8000000000000000 : Word) 0xFFFFFFFFFFFFFFFF = 0 := by decide

end Sys2Proof.Machine
end

section
/-! SUPPORT. Counting bits, the widths of SEXT and ZEXT, the order of bytes (R149). -/

namespace Sys2Proof.Machine

/-! Counting: the length of the false values at the head of a list is the first index of a true one. -/

theorem length_takeWhile_map_range (n : Nat) (f : Nat → Bool) :
    (((List.range n).map f).takeWhile (fun b => !b)).length = (List.range n).findIdx f := by
  rw [List.takeWhile_eq_take_findIdx_not, List.length_take, List.findIdx_map]
  simp only [Function.comp_def, Bool.not_not, List.length_map]
  exact Nat.min_eq_left List.findIdx_le_length

theorem findIdx_range (n : Nat) (f : Nat → Bool) :
    let k := (List.range n).findIdx f
    k ≤ n ∧ (∀ i, i < k → f i = false) ∧ (k < n → f k = true) := by
  intro k
  have hlen : (List.range n).length = n := List.length_range
  refine ⟨List.findIdx_le_length.trans_eq hlen, fun i hi => ?_, fun hk => ?_⟩
  · simpa using List.not_of_lt_findIdx hi
  · simpa [k] using List.findIdx_getElem (p := f) (w := hk.trans_eq hlen.symm)

section
variable {n : Nat} (x : BitVec n)

theorem bitsDown_reverse : (bitsDown x).reverse = (List.range n).map (fun i => x.getLsbD i) := by
  refine List.ext_getElem (by simp [bitsDown]) fun i hi _ => ?_
  have hlt : i < n := by simpa [bitsDown] using hi
  have hback : n - 1 - (n - 1 - i) = i := by omega
  simp [bitsDown, hback]

theorem leadingZeros_counts : CountsLeading x (leadingZeros x) := by
  obtain ⟨hle, hzero, hone⟩ := findIdx_range n (fun i => x.getLsbD (n - 1 - i))
  rw [leadingZeros, bitsDown, length_takeWhile_map_range]
  refine ⟨hle, fun i hi => ?_, hone⟩
  rcases Nat.lt_or_ge i n with hin | hin
  · have hback : n - 1 - (n - 1 - i) = i := by omega
    have hbelow := hzero (n - 1 - i) (by omega)
    rwa [hback] at hbelow
  · exact BitVec.getLsbD_of_ge x i hin

theorem trailingZeros_counts : CountsTrailing x (trailingZeros x) := by
  rw [trailingZeros, bitsDown_reverse, length_takeWhile_map_range]
  exact findIdx_range n _

theorem setBits_eq : setBits x = ((List.range n).filter (fun i => x.getLsbD i)).length := by
  rw [setBits, ← List.length_reverse, ← List.filter_reverse, bitsDown_reverse, List.filter_map, List.length_map]
  rfl

end

/-! Extension and the order of bytes. -/

theorem setWidth_setWidth_eq_ofNat (x : Word) (k : Nat) : (x.setWidth k).setWidth 64 = BitVec.ofNat 64 (x.toNat % 2 ^ k) := by
  rw [← BitVec.ofNat_toNat, BitVec.toNat_setWidth]

section
variable {m n : Nat} (x : BitVec m) (y : BitVec n)

theorem extractLsb'_append_low : BitVec.extractLsb' 0 n (no_index (x ++ y)) = y := BitVec.extractLsb'_append_eq_right ..

theorem extractLsb'_append_high {lo len : Nat} (h : n ≤ lo) :
    BitVec.extractLsb' lo len (no_index (x ++ y)) = x.extractLsb' (lo - n) len := BitVec.extractLsb'_append_eq_of_le h

end

/-- Byte `k` of the word is byte `7 - k` of the other. -/
theorem byteSwap_bytes (x : Word) {k : Nat} (hk : k < 8) :
    (byteSwap x).extractLsb' (8 * k) 8 = x.extractLsb' (8 * (7 - k)) 8 := by
  interval_cases k <;>
    simp (disch := decide) only [byteSwap, extractLsb'_append_high, extractLsb'_append_low, BitVec.extractLsb'_eq_self,
      Nat.reduceMul, Nat.reduceSub]

end Sys2Proof.Machine
end

section
open Sys2Proof Sys2Proof.Machine

/-- Settles O1: each function finishes with the model's value, which is the one that R149 gives on the integers. -/
theorem aluResults : Obligations.AluResults := by
  intro s d a b x y
  exact ⟨writes_of_exec_finish rfl (add_eq_ofNat x y),
    writes_of_exec_finish rfl (sub_eq_ofInt x y),
    writes_of_exec_finish rfl (mul_eq_ofNat x y),
    writes_of_exec_finish rfl (mulHighS_eq x y),
    writes_of_exec_finish rfl (mulHighU_eq x y),
    writes_of_exec_finish rfl (divS_eq_quotS x y),
    writes_of_exec_finish rfl (divU_eq_quotU x y),
    writes_of_exec_finish rfl (remS_eq_restS x y),
    writes_of_exec_finish rfl (remU_eq_restU x y),
    writes_of_exec_finish rfl rfl,
    writes_of_exec_finish rfl rfl,
    writes_of_exec_finish rfl rfl,
    writes_of_exec_finish rfl rfl,
    writes_of_exec_finish rfl (shiftLeft_eq_ofNat x _),
    writes_of_exec_finish rfl (ushiftRight_eq_ofNat x _),
    writes_of_exec_finish rfl (sshiftRight_eq_ofInt x _),
    writes_of_exec_finish rfl (rotateLeft_eq_rotate x y),
    writes_of_exec_finish rfl (if_congr sle_iff_toInt rfl rfl),
    writes_of_exec_finish rfl (if_congr sle_iff_toInt rfl rfl),
    writes_of_exec_finish rfl (if_congr BitVec.le_def rfl rfl),
    writes_of_exec_finish rfl (if_congr BitVec.le_def rfl rfl),
    writes_of_exec_finish rfl (truth_eq_ite beq_iff_eq),
    writes_of_exec_finish rfl ((truth_eq_ite bne_iff_ne).trans (ite_not ..)),
    writes_of_exec_finish rfl (truth_eq_ite slt_iff_toInt),
    writes_of_exec_finish rfl (truth_eq_ite ult_iff_toNat),
    writes_of_exec_finish rfl (truth_eq_ite sle_iff_toInt),
    writes_of_exec_finish rfl (truth_eq_ite ule_iff_toNat),
    ⟨_, leadingZeros_counts x, writes_of_exec_finish rfl rfl⟩,
    ⟨_, trailingZeros_counts x, writes_of_exec_finish rfl rfl⟩,
    writes_of_exec_finish rfl (congrArg (BitVec.ofNat 64) (setBits_eq x)),
    fun w _ => ⟨writes_of_exec_finish rfl rfl, writes_of_exec_finish rfl (setWidth_setWidth_eq_ofNat x _)⟩,
    ⟨_, fun k hk => byteSwap_bytes x hk, writes_of_exec_finish rfl rfl⟩⟩

/-- Settles O2: each function finishes with the extension of its value on the low halves of its sources. -/
theorem aluWordForms : Obligations.AluWordForms := by
  intro s d a b x y
  have extended {v u : BitVec 32} (h : v = u) : v.signExtend 64 = u.signExtend 64 := congrArg (BitVec.signExtend 64) h
  exact ⟨writes_of_exec_finish rfl (extended (add_eq_ofNat x y)),
    writes_of_exec_finish rfl (extended (sub_eq_ofInt x y)),
    writes_of_exec_finish rfl (extended (mul_eq_ofInt x y)),
    writes_of_exec_finish rfl (extended (divS_eq_quotS x y)),
    writes_of_exec_finish rfl (extended (divU_eq_quotU x y)),
    writes_of_exec_finish rfl (extended (remS_eq_restS x y)),
    writes_of_exec_finish rfl (extended (remU_eq_restU x y)),
    writes_of_exec_finish rfl (extended (shiftLeft_eq_ofNat x _)),
    writes_of_exec_finish rfl (extended (ushiftRight_eq_ofNat x _)),
    writes_of_exec_finish rfl (extended (sshiftRight_eq_ofInt x _)),
    writes_of_exec_finish rfl (extended (rotateLeft_eq_rotate x y)),
    ⟨_, leadingZeros_counts x, writes_of_exec_finish rfl rfl⟩,
    ⟨_, trailingZeros_counts x, writes_of_exec_finish rfl rfl⟩,
    writes_of_exec_finish rfl (congrArg (BitVec.ofNat 64) (setBits_eq x))⟩

/-- Settles O3: what the four divisions write are the model's quotients and remainders, which R150 fixes for a zero divisor and
for the overflow and which satisfy the law of division elsewhere. -/
theorem divisionLaws : Obligations.DivisionLaws := by
  intro s d a b x y
  have div : Writes (.div d a b 0) s d (divS x y) := writes_of_exec_finish rfl rfl
  have divu : Writes (.divu d a b 0) s d (divU x y) := writes_of_exec_finish rfl rfl
  have rem : Writes (.rem d a b 0) s d (remS x y) := writes_of_exec_finish rfl rfl
  have remu : Writes (.remu d a b 0) s d (remU x y) := writes_of_exec_finish rfl rfl
  refine ⟨fun hy => ?zero, fun hx hy => ?overflow, fun hy => ⟨_, _, divu, remu, divU_remU_law hy⟩, fun hy hover =>
    ⟨_, _, div, rem, divS_remS_law hy (not_and_or.1 hover)⟩⟩
  case zero =>
    rw [divS, if_pos hy] at div
    rw [divU, if_pos hy] at divu
    rw [remS, if_pos hy] at rem
    rw [remU, if_pos hy] at remu
    exact ⟨div, divu, rem, remu⟩
  case overflow =>
    obtain ⟨hquot, hrest⟩ := divS_remS_overflow
    rw [hx, hy, hquot] at div
    rw [hx, hy, hrest] at rem
    exact ⟨div, rem⟩

/-- Settles O4: each form finishes with the model's value on the extended immediate or the count, which is the one that R153 or
R154 gives. -/
theorem immediateResults : Obligations.ImmediateResults := by
  intro s d a i n x
  have himm : (i.signExtend 64).toInt = i.toInt := BitVec.toInt_signExtend_of_le (by decide)
  exact ⟨writes_of_exec_finish rfl (add_signExtend x i),
    writes_of_exec_finish rfl (congrArg (x &&& ·) (BitVec.ofNat_toNat ..).symm),
    writes_of_exec_finish rfl (congrArg (x ||| ·) (BitVec.ofNat_toNat ..).symm),
    writes_of_exec_finish rfl (congrArg (x ^^^ ·) (BitVec.ofNat_toNat ..).symm),
    writes_of_exec_finish rfl (truth_eq_ite (himm ▸ slt_iff_toInt)),
    writes_of_exec_finish rfl (truth_eq_ite ult_iff_toNat),
    writes_of_exec_finish rfl (shiftLeft_or_setWidth x i),
    writes_of_exec_finish rfl (shiftLeft_eq_ofNat x _),
    writes_of_exec_finish rfl (ushiftRight_eq_ofNat x _),
    writes_of_exec_finish rfl (sshiftRight_eq_ofInt x _)⟩
end

section
/-! SUPPORT. Jumps: their targets as integers, and the two ways of a jump through a register (R155 to R158). -/

namespace Sys2Proof.Machine

theorem targetOf_eq_ofInt {n : Nat} (pc : Word) (disp : BitVec n) :
    targetOf pc disp = BitVec.ofInt 64 (pc.toInt + 4 * disp.toInt) := by
  rw [BitVec.ofInt_add, BitVec.ofInt_mul, BitVec.ofInt_toInt]
  rfl

theorem add_four_eq_ofInt (pc : Word) : pc + 4 = BitVec.ofInt 64 (pc.toInt + 4) := by
  rw [BitVec.ofInt_add, BitVec.ofInt_toInt]
  rfl

/-- The low two bits are zero exactly in a multiple of 4. -/
theorem low_two_zero_iff {t : Word} : t.extractLsb' 0 2 = 0 ↔ t.toNat % 4 = 0 := by
  rw [← BitVec.toNat_inj, BitVec.extractLsb'_toNat, Nat.shiftRight_zero]
  rfl

section
variable {i : Instr} {s : State} {link : Bool} {t u : Word}

theorem jumps_of_exec_jumpTo (h : exec i s = .next (s.jumpTo link t)) (ht : t = u) : Jumps i s link u :=
  ⟨_, h, ht ▸ s.jumpTo_jumped link t⟩

/-- A branch goes to its target where its condition holds, and else to the next word (R156). -/
theorem jumps_of_exec_branchIf {c : Bool} {p : Prop} [Decidable p] {disp : BitVec 12}
    (h : exec i s = .next (s.branchIf c disp)) (hc : c = true ↔ p) :
    Jumps i s false (if p then BitVec.ofInt 64 (s.cp.pc.toInt + 4 * disp.toInt) else BitVec.ofInt 64 (s.cp.pc.toInt + 4)) :=
  jumps_of_exec_jumpTo h (if_congr hc (targetOf_eq_ofInt ..) (add_four_eq_ofInt _))

theorem jumps_of_exec_jumpReg (h : exec i s = .next (s.jumpReg link t)) (ht : t.toNat % 4 = 0) : Jumps i s link t := by
  rw [State.jumpReg, low_two_zero_iff.2 ht, if_neg (by decide)] at h
  exact jumps_of_exec_jumpTo h rfl

theorem traps_of_exec_jumpReg (h : exec i s = .next (s.jumpReg link t)) (ht : t.toNat % 4 ≠ 0) :
    Traps i s 0x03 s.cp.pc ⟨t, 0, 0, 0⟩ := by
  rw [State.jumpReg, if_pos (bne_iff_ne.2 (mt low_two_zero_iff.1 ht))] at h
  exact traps_of_exec_trap h

end

end Sys2Proof.Machine
end

section
open Sys2Proof Sys2Proof.Machine

/-- Settles O5: each jump and branch is one of the model's jumps, to a target that is read as an integer; a register's target is
looked at before the link is written. -/
theorem jumpsAndBranches : Obligations.JumpsAndBranches := by
  intro s a b i j x y pc next far
  refine ⟨jumps_of_exec_jumpTo rfl (targetOf_eq_ofInt pc j),
    jumps_of_exec_jumpTo rfl (targetOf_eq_ofInt pc j),
    jumps_of_exec_branchIf rfl beq_iff_eq,
    ?bne,
    jumps_of_exec_branchIf rfl slt_iff_toInt,
    jumps_of_exec_branchIf rfl not_slt_iff_toInt,
    jumps_of_exec_branchIf rfl ult_iff_toNat,
    jumps_of_exec_branchIf rfl not_ult_iff_toNat,
    fun ht => ⟨jumps_of_exec_jumpReg rfl ht, jumps_of_exec_jumpReg rfl ht⟩,
    fun ht => ⟨traps_of_exec_jumpReg rfl ht, traps_of_exec_jumpReg rfl ht⟩⟩
  case bne =>
    rw [← ite_not]
    exact jumps_of_exec_branchIf rfl bne_iff_ne
end

section
/-! SUPPORT. The ALU words that are no instruction (R41, R152), and the fetch of such a word (R142). -/

namespace Sys2Proof

/-- No row of the ALU group's table makes a well-formed instruction of the word (R41). -/
def AluRejects (w : BitVec 32) : Prop := ∀ i, decodeAlu w = .ok i → i.wellFormed = false

section
variable {w : BitVec 32}

theorem decodeFields_alu (hop : bitsAt w 26 6 = 0x01) : decodeFields w = decodeAlu w := by
  simp [decodeFields, hop]

theorem decodeWord_ne_ok_of_aluRejects (hop : bitsAt w 26 6 = 0x01) (h : AluRejects w) (i : Instr) : decodeWord w ≠ .ok i := by
  intro hi
  obtain ⟨hwf, henc⟩ := decodeWord_eq_ok_iff.1 hi
  have hdec := decodeFields_of_encode henc
  rw [decodeFields_alu hop] at hdec
  exact absurd hwf (by simp [h i hdec])

theorem aluRejects_of_error {e : Reject} (h : decodeAlu w = .error e) : AluRejects w := fun i hi => by
  rw [h] at hi
  cases hi

theorem unused_eq_ok {zero : Bool} {i j : Instr} (h : unused zero j = .ok i) : i = j := by
  cases zero <;> cases h
  rfl

section
variable {fn : Nat} (hrow : (bitsAt w 0 10).toNat = fn)
include hrow

theorem aluRejects_reserved (hfn : 0x021 ≤ fn) : AluRejects w := by
  apply aluRejects_of_error (e := .reservedFunction)
  unfold decodeAlu
  split
  case h_34 => rfl
  all_goals omega

/-- A function that has no `.w` form, under W = 1 (R44). -/
theorem aluRejects_width (hv : bitsAt w 10 1 ≠ 0)
    (hfn : fn = 0x003 ∨ fn = 0x004 ∨ (0x009 ≤ fn ∧ fn ≤ 0x00C) ∨ (0x011 ≤ fn ∧ fn ≤ 0x01A) ∨ fn = 0x01E ∨ fn = 0x01F ∨
      fn = 0x020) : AluRejects w := by
  apply aluRejects_of_error (e := .nonzeroField)
  unfold decodeAlu
  dsimp only
  rw [hrow, beq_eq_false_iff_ne.2 hv, Bool.false_and]
  rcases hfn with hfn | hfn | ⟨hlo, hhi⟩ | ⟨hlo, hhi⟩ | hfn | hfn | hfn
  case inr.inr.inl | inr.inr.inr.inl => interval_cases fn <;> rfl
  all_goals
    rw [hfn]
    rfl

/-- A function of one source, with a second one named. -/
theorem aluRejects_source (hb : bitsAt w 11 5 ≠ 0) (hfn : fn = 0x01B ∨ fn = 0x01C ∨ fn = 0x01D ∨ fn = 0x020) :
    AluRejects w := by
  apply aluRejects_of_error (e := .nonzeroField)
  unfold decodeAlu
  dsimp only
  rw [hrow, beq_eq_false_iff_ne.2 hb, Bool.and_false]
  rcases hfn with rfl | rfl | rfl | rfl <;> rfl

/-- An extension from a width that there is not: the check of the operands answers it. -/
theorem aluRejects_extension (hb : 3 ≤ (bitsAt w 11 5).toNat) (hfn : fn = 0x01E ∨ fn = 0x01F) : AluRejects w := by
  have hwidth : okExtWidth (bitsAt w 11 5) = false := decide_eq_false (Nat.not_lt.2 hb)
  intro i hi
  unfold decodeAlu at hi
  simp only [hrow] at hi
  rcases hfn with rfl | rfl
  all_goals
    rw [unused_eq_ok hi]
    exact hwidth

end

end

/-- A field of one bit is zero only where the bit is. -/
theorem bitsAt_one_ne_zero {w : BitVec 32} {k : Nat} (h : w.getLsbD k = true) : bitsAt w k 1 ≠ 0 := by
  intro hz
  have hbit : (bitsAt w k 1).getLsbD 0 = w.getLsbD k := by simp
  rw [hz, h] at hbit
  cases hbit

end Sys2Proof

namespace Sys2Proof.Machine

/-- A processor that fetches a word which is no instruction takes ILLEGAL at it, with the word as information (R41, R152). -/
theorem State.fetchTurn_illegal {s s1 : State} {w : BitVec 32} (hf : s.fetch = .ok (w, s1)) (h : ∀ i, decodeWord w ≠ .ok i) :
    ∃ t, s.fetchTurn = .after t ∧ s1.cp.Trapped t.cp 0x01 false s1.cp.pc ⟨w.setWidth 64, 0, w.setWidth 64, 0⟩ := by
  obtain ⟨-, -, htrapped⟩ := s1.trapAt_trapped (trapIllegalWord w) s1.cp.pc
  refine ⟨_, ?_, htrapped⟩
  rw [State.fetchTurn, hf]
  dsimp only
  split
  next i hi => exact absurd hi (h i)
  next => rfl

end Sys2Proof.Machine
end

section
open Sys2Proof Sys2Proof.Machine

/-- Settles O55: each of the four cases of R152 leaves the ALU group without a well-formed instruction for the word, and the
processor that fetches the word takes ILLEGAL; the worked words are those that the encoder writes. -/
theorem illegalAluWords : Obligations.IllegalAluWords := by
  refine ⟨?illegal, ?worked⟩
  case illegal =>
    intro w fn b noW bad hop hbad
    have hrejects : AluRejects w := by
      rcases hbad with hfn | ⟨hv, hfn⟩ | ⟨hb, hfn⟩ | ⟨hb, hfn⟩
      · exact aluRejects_reserved rfl hfn
      · exact aluRejects_width rfl (bitsAt_one_ne_zero hv) hfn
      · exact aluRejects_source rfl (fun h => hb (congrArg BitVec.toNat h)) hfn
      · exact aluRejects_extension rfl hb hfn
    have hword := decodeWord_ne_ok_of_aluRejects hop hrejects
    exact ⟨hword, fun s s1 hf => State.fetchTurn_illegal hf hword⟩
  case worked =>
    simp only [decodeWord_eq_ok_iff]
    decide
end

section
/-! SUPPORT. A token that arrives at its endpoint (R165, R180, R364, R448). -/

namespace Sys2Proof.Machine

/-! A pool after one was written, and what leaves every pool. -/

theorem Eng.pool_setPool (g : Eng) (d d' : Endpoint) (q : InQueue) :
    (g.setPool d q).pool d' = if d'.key = d.key then q else g.pool d' := Tbl.get_put ..

@[simp] theorem Eng.pool_setPool_same (g : Eng) (d : Endpoint) (q : InQueue) : (g.setPool d q).pool d = q :=
  Tbl.get_put_same ..

theorem Eng.pool_congr {g g' : Eng} (h : g'.pools = g.pools) (d : Endpoint) : g'.pool d = g.pool d := by
  rw [Eng.pool, h, Eng.pool]

@[simp] theorem Eng.raiseStage_pools (g : Eng) (v e k : Nat) (fl : FlagSet) (now : Nat) :
    (g.raiseStage v e k fl now).pools = g.pools := by
  unfold Eng.raiseStage
  split <;> rfl

/-- The markers of a port go into flight or into its router, and no flag of a flush stands in a pool. -/
@[simp] theorem Eng.markPort_pools (g : Eng) (now e p : Nat) : (g.markPort now e p).pools = g.pools := by
  unfold Eng.markPort
  split
  · rfl
  · dsimp only
    split
    · rfl
    · split
      · exact Eng.raiseStage_pools ..
      · rfl

/-- An element that stops for a press leaves what waits at every endpoint. -/
@[simp] theorem Eng.stopElem_pools (g : Eng) (now e : Nat) : (g.stopElem now e).pools = g.pools := by
  unfold Eng.stopElem
  dsimp only
  split
  · rfl
  · exact List.foldlRecOn (motive := fun h : Eng => h.pools = g.pools) _ _ rfl
      fun h hh p _ => (h.markPort_pools now e p).trans hh

/-! What the router at the end of a link makes of a token. -/

/-- The token that the router at the end of its link delivers. -/
def Eng.received (g : Eng) (f : Flight) : Token :=
  if f.spoilt then spoiltErr f.dest.addr f.tok else routed f.dest.addr f.fmt (g.linkFmt f.dest f.fmt) f.tok

/-- A router makes an ERR of a token or delivers it as it came. -/
theorem routed_eq_or_err (addr : Nat) (f h : BitVec 4) (t : Token) :
    routed addr f h t = t ∨ (routed addr f h t).kind = kERR := by
  unfold routed
  dsimp only
  split
  · exact .inr rfl
  · split
    · exact .inr rfl
    · split
      · exact .inr rfl
      · exact .inl rfl

theorem routed_wellFormed {t : Token} (addr : Nat) (f h : BitVec 4) (hmal : malformed t = none) (hcfg : cfgMalformed t = false)
    (hscale : t.kind ≠ kSCALE) : routed addr f h t = t := by
  simp [routed, hmal, hcfg, hscale]

theorem cfgMalformed_of_press {t : Token} (h : t.kind = kPRESS) : cfgMalformed t = false := by
  simp [cfgMalformed, h, kPRESS, kCFG]

section
variable {g : Eng} {f : Flight}

theorem Eng.received_spoilt (h : f.spoilt = true) : g.received f = spoiltErr f.dest.addr f.tok := if_pos h

theorem Eng.received_wellFormed (h : f.spoilt = false) (hmal : malformed f.tok = none) (hcfg : cfgMalformed f.tok = false)
    (hscale : f.tok.kind ≠ kSCALE) : g.received f = f.tok := by
  rw [Eng.received, h]
  exact routed_wellFormed _ _ _ hmal hcfg hscale

/-- No router makes a press marker of another token. -/
theorem Eng.received_kind_ne_press (h : f.spoilt = true ∨ f.tok.kind ≠ kPRESS) : (g.received f).kind ≠ kPRESS := by
  cases hs : f.spoilt with
  | true =>
    rw [Eng.received_spoilt hs]
    exact (by decide : kERR ≠ kPRESS)
  | false =>
    have htok : f.tok.kind ≠ kPRESS := h.resolve_left (by simp [hs])
    rw [Eng.received, hs]
    rcases routed_eq_or_err f.dest.addr f.fmt (g.linkFmt f.dest f.fmt) f.tok with he | he
    · exact fun hp => htok (by rwa [← he])
    · exact fun hp => absurd (he.symm.trans hp) (by decide)

/-! The arrival. -/

/-- A token that is no marker stands behind those that wait, and nothing else changes. -/
theorem Eng.arrive_queues (now : Nat) (h : (g.received f).kind ≠ kPRESS) : g.arrive now f = g.setPool f.dest
    { g.pool f.dest with toks := (g.pool f.dest).toks ++ [{ g.received f with shared := f.tok.shared }], fmt := f.fmt } :=
  if_neg (by rwa [← Eng.received, beq_iff_eq])

/-- A marker takes the place of the marker at its endpoint, whether or not an element stops for it. -/
theorem Eng.arrive_marks (now : Nat) (h : (g.received f).kind = kPRESS) :
    (g.arrive now f).pools = (g.setPool f.dest { g.pool f.dest with marker := some (g.received f) }).pools := by
  have hmarked : g.arrive now f = _ := if_pos (by rwa [← Eng.received, beq_iff_eq])
  rw [hmarked]
  split
  · exact Eng.stopElem_pools ..
  · rfl

end

/-! The event. -/

section
variable {s : State} {n : Nat} {f : Flight}

/-- When the n-th token in flight may arrive, its conditions taken one by one. -/
theorem Eng.mayArrive_iff {g : Eng} {now : Nat} (hf : g.flights[n]? = some f) :
    g.mayArrive now n = true ↔
      f.arrive ≤ now ∧ g.blockedAt f.dest = false ∧ g.heldUp f = false ∧ ∀ h ∈ g.flights.take n, h.dest ≠ f.dest := by
  simp only [Eng.mayArrive, hf, Bool.and_eq_true, decide_eq_true_eq, Bool.not_eq_true', List.any_eq_false, beq_iff_eq]
  tauto

/-- The units of the core once the n-th token in flight has arrived. -/
def State.delivered (s : State) (n : Nat) (f : Flight) : Eng :=
  { s.eng with flights := dropAt s.eng.flights n }.arrive s.w.cycle f

theorem exec_tokenDelivery (hf : s.eng.flights[n]? = some f) (hmay : s.eng.mayArrive s.w.cycle n = true) :
    exec (.tokenDelivery n) s = .next (s.withEng (s.delivered n f)) := by
  have hlt : n < s.eng.flights.length := (List.getElem?_eq_some_iff.1 hf).1
  have hone : s.eng.deliverOne s.w.cycle n = s.delivered n f := by simp [Eng.deliverOne, hf, hmay, State.delivered]
  have hw : s.w.deliver s.cur n = s.w.setEng s.cur (s.delivered n f) := by
    rw [← hone]
    exact (if_pos hlt).trans (if_pos hmay)
  exact congrArg (fun w => Host.Outcome.next (s.withWorld w)) hw

theorem exec_tokenDelivery_not (hf : s.eng.flights[n]? = some f) (hmay : ¬ s.eng.mayArrive s.w.cycle n = true) :
    exec (.tokenDelivery n) s = .next s := by
  have hlt : n < s.eng.flights.length := (List.getElem?_eq_some_iff.1 hf).1
  have hw : s.w.deliver s.cur n = s.w := (if_pos hlt).trans (if_neg hmay)
  exact congrArg (fun w => Host.Outcome.next (s.withWorld w)) hw

/-- A delivered token that is no marker is no longer in flight and stands at its endpoint; no other endpoint changes. -/
theorem State.delivered_queues (h : f.spoilt = true ∨ f.tok.kind ≠ kPRESS) :
    (s.delivered n f).flights = dropAt s.eng.flights n ∧
      ((s.delivered n f).pool f.dest).toks = (s.eng.pool f.dest).toks ++ [{ s.eng.received f with shared := f.tok.shared }] ∧
      ∀ d : Endpoint, d.key ≠ f.dest.key → (s.delivered n f).pool d = s.eng.pool d := by
  rw [State.delivered, Eng.arrive_queues _ (Eng.received_kind_ne_press h)]
  exact ⟨rfl, by rw [Eng.pool_setPool_same]; rfl, fun d hd => by rw [Eng.pool_setPool, if_neg hd]; rfl⟩

/-- A delivered marker takes the place of the marker at its endpoint, and the tokens there stay. -/
theorem State.delivered_marks (hkind : f.tok.kind = kPRESS) (hspoilt : f.spoilt = false) (hmal : malformed f.tok = none) :
    (s.delivered n f).pool f.dest = { s.eng.pool f.dest with marker := some f.tok } := by
  have hsame (g : Eng) : g.received f = f.tok :=
    Eng.received_wellFormed hspoilt hmal (cfgMalformed_of_press hkind) (by rw [hkind]; decide)
  rw [State.delivered, Eng.pool_congr (Eng.arrive_marks _ ((congrArg Token.kind (hsame _)).trans hkind)), Eng.pool_setPool_same,
    hsame]
  rfl

end

end Sys2Proof.Machine
end

section
open Sys2Proof Sys2Proof.Machine

/-- Settles O32: a token that may arrive is taken out of flight and given to the router at the end of its link, which delivers
it as it came or as an ERR, or latches it as a marker; one that may not arrive leaves the machine as it was. -/
theorem tokenDelivery : Obligations.TokenDelivery := by
  intro s n f hf due
  have hmay : s.eng.mayArrive s.w.cycle n = true ↔ due := Eng.mayArrive_iff hf
  refine ⟨fun hdue => ⟨_, exec_tokenDelivery hf (hmay.2 hdue), rfl, rfl, fun c hc => World.eng_setEng_ne _ _ hc, ?_⟩,
    fun hdue => exec_tokenDelivery_not hf (mt hmay.1 hdue)⟩
  rw [State.withEng_eng]
  refine ⟨fun hspoilt hkind hmal => ?marker, fun hkind => (State.delivered_queues (.inr hkind)).1,
    fun hspoilt hkind hscale hmal hcfg => ?token, fun hspoilt => ?err, fun hkind => (State.delivered_queues (.inr hkind)).2.2⟩
  case marker =>
    rw [State.delivered_marks hkind hspoilt hmal]
    exact ⟨rfl, rfl⟩
  case token =>
    obtain ⟨-, htoks, -⟩ := State.delivered_queues (s := s) (n := n) (.inr hkind)
    rw [htoks, Eng.received_wellFormed hspoilt hmal hcfg hscale]
  case err =>
    obtain ⟨-, htoks, -⟩ := State.delivered_queues (s := s) (n := n) (.inl hspoilt)
    refine ⟨_, htoks, ?_⟩
    rw [Eng.received_spoilt hspoilt]
    exact ⟨rfl, rfl, rfl, rfl⟩
end

section
/-! SUPPORT. A reorder window whose DST names the reserved bit 7 beside output port pn0 (R58, R81, R223, R455). -/

namespace Sys2Proof.Machine

/-- A memory element whose stage 1 holds MREORD with a window of one place and whose DST names bits 7 and 8; its output port
pn0 feeds the track that leaves the grid for input a1 of matrix node 0. No word gives such a DST without making the element
BLOCKED (R58), so the phase is written as data. -/
def bitSevenCfg : ElemCfg :=
  let c := ((ElemCfg.empty.apply 1 9 0x8512).apply 1 13 1).apply 1 0x32 0x000D
  c.setStage 1 ((c.stage 1).upd (fun p => { p with dst := 0x0180 }))

/-- A DATA token of one lane. -/
def oneLane : Token := { plainToken kDATA with valid := 1, data := 3 }

/-- A core whose window holds the token that is next in order, and whose router of pn0 holds one element of a partly filled
token. -/
def bitSevenEng : Eng :=
  { Eng.reset with
    vats := [(0, { Vat.reset with state := .running, active := some wholeGrid })]
    active := [(1, bitSevenCfg)]
    elems := [(1, { Elem.reset with
      window := [(0, oneLane)]
      outs := [(0, { OutConv.empty with
        elems := [{ pat := 1, fmt := 0, scale := none, p := false, r := false, shift := 0, inv := false }] })] })] }

/-- The reset machine with that grid on core 0. -/
def bitSevenState : State := { State.reset with w := { World.reset with engs := [(0, bitSevenEng)] } }

/-- The world in which the release acts. -/
def bitSevenActing : World :=
  let w0 := bitSevenState.w.beginGrid 0
  w0.setEng 0 ((w0.eng 0).actedOn (.release 1))

/-- The router of pn0 once a release's view has given it a token, in the link's own format. -/
def Fire.fillsFirstPort (x : Fire) (t : Token) : OutConv :=
  ((Tbl.get x.el.outs OutConv.empty 0).put 1 0 (oportFmt (x.cfg.outPort 0))
    (x.leaving 0 { t with r := false, shared := false })).1

theorem bitSeven_planned : plannedFor (bitSevenState.w.planned 0) (.release 1) = some ⟨.release 1, []⟩ := by decide +kernel

/-- The release is offered; its DST names bits 7 and 8, its window has one place, its branch of pn0 is not detached and has a link
on which the router packs elements, and one token leaves two of them there. -/
theorem bitSeven_offer : (bitSevenActing.releaseOffer 0 1).any (fun y =>
    y.1.pc.dst == 0x0180 && y.1.pc.arg == 1 && !y.1.st.detached.getLsbD 0 &&
      linkOf y.1.eng.cfg 1 0 == some (.matrix 0 2, 0) && y.1.repacks (Tbl.get y.1.el.outs OutConv.empty 0) 0 == some 0 &&
      (y.1.fillsFirstPort oneLane).elems.length == 2) = true := by decide +kernel

/-- The release has given the router of pn0 the token twice, for bit 7 and for bit 8. -/
theorem bitSeven_elements :
    (Tbl.get (((bitSevenState.w.release 0 1).eng 0).elem 1).outs OutConv.empty 0).elems.length = 3 := by decide +kernel

end Sys2Proof.Machine
end

section
open Sys2Proof Sys2Proof.Machine

/-- Refutes O28: the clause for a converting router says that it is left with what one token makes of it, but the model sends
the token for DST's bit 7 through output port pn0, as for bit 8, and where DST names both, the router of pn0 takes the token
twice. (R58 keeps bit 7 zero and an element with it is BLOCKED, so no configuration leads there; the statement asks it of
every state.) -/
theorem not_reorderRelease : ¬ Obligations.ReorderRelease := by
  rintro ⟨h, -⟩
  obtain ⟨⟨x, f⟩, hoffer, hat⟩ := (Option.any_eq_true _ _).mp bitSeven_offer
  simp only [Bool.and_eq_true, beq_iff_eq, Bool.not_eq_true'] at hat
  obtain ⟨⟨⟨⟨⟨hdst, harg⟩, hattached⟩, hlink⟩, hrepacks⟩, htwo⟩ := hat
  obtain ⟨hreleases, -⟩ := h bitSevenState 1
  obtain ⟨t, tok, hexec, hnext, -, hdests, -⟩ := hreleases _ x f bitSeven_planned hoffer rfl rfl
  have htok : tok = oneLane := by
    rw [harg] at hnext
    exact (Option.some.inj hnext).symm
  have ht : t = bitSevenState.withWorld (bitSevenState.w.release 0 1) := (Host.Outcome.next.inj hexec).symm
  obtain ⟨-, -, hports⟩ := hdests 8 (by rw [hdst]; decide)
  obtain ⟨-, hrouter⟩ := hports _ _ (by decide) hattached hlink
  obtain ⟨hout, -⟩ := hrouter 0 hrepacks
  have hthree : (x.fillsFirstPort tok).elems.length = 3 := by
    rw [ht] at hout
    rw [← bitSeven_elements]
    exact (congrArg (fun o : OutConv => o.elems.length) hout).symm
  rw [htok, htwo] at hthree
  cases hthree
end

section
/-! SUPPORT. An IDOT4 whose MOD names a 6-bit operand format (R63, R190, R196, R200). -/

namespace Sys2Proof.Machine

/-- An element whose stage 0 holds IDOT4 of input ports pn0, pn1 and pn2 with format code 6 (e3m2x5) in its MOD and in the LTAG
words of its ports, its results for the hold register. Each word is a legal one; together they break R196, and the check at
the end of the configuration would make the element BLOCKED. -/
def sixBitDotCfg : ElemCfg :=
  let c := (((ElemCfg.empty.apply 0 1 0x2512).apply 0 2 0x6000).apply 0 3 0x0040).apply 0 5 3
  [1, 2, 3].foldl (fun c p => ((c.apply 0 0x36 p).apply 0 0x37 0x8000).apply 0 0x38 0x8300) c

/-- A full DATA token with bit 30 of lane 0 set. -/
def bitThirtyToken : Token := { plainToken kDATA with valid := 16, data := 0x40000000 }

/-- A core whose vat 0 runs over the whole grid, with that element and one token at each of its three ports. -/
def sixBitDotEng : Eng :=
  { Eng.reset with
    vats := [(0, { Vat.reset with state := .running, active := some wholeGrid })]
    active := [(0, sixBitDotCfg)]
    pools := (List.range 3).map (fun p => ((Endpoint.grid 0 p 0).key, { InQueue.empty with toks := [bitThirtyToken] })) }

/-- What that stage sees in the reset machine with that core. -/
def sixBitDotView : Option Fire := World.fireAt { World.reset with engs := [(0, sixBitDotEng)] } 0 0 0

/-- The one token of input port `p`, read whole. -/
def bitThirtyGot (p : Nat) : Got := ⟨.port p 0, ⟨bitThirtyToken, [], 0, none, none, 0⟩⟩

/-- A firing of the view sends some token whose lane 0 is `v`. -/
def Fire.sendsLaneZero (x : Fire) (v : BitVec 32) : Bool :=
  (planOf x.op x).any (fun f => f.sends.any (fun d => lane d.2.data 0 == v))

/-- The one token that a firing sends to its destinations is the one of which `sendsLaneZero` speaks. -/
theorem Fire.lane_zero_of_sendsLaneZero {x : Fire} {v : BitVec 32} {f : Firing} {ds : List Nat} {tok : Token}
    (h : x.sendsLaneZero v = true) (hplan : planOf x.op x = some f) (hsends : f.sends = ds.map (fun d => (d, tok))) :
    lane tok.data 0 = v := by
  rw [Fire.sendsLaneZero, hplan, Option.any_some, hsends, List.any_map, List.any_eq_true] at h
  obtain ⟨_, -, hlane⟩ := h
  exact beq_iff_eq.mp hlane

/-- The stage has IDOT4 to fire, owes nothing and reads the three tokens. Their dot product in lane 0, 64 · 64 + 2^30, is
sent without bit 30, which a producer of a 6-bit format leaves zero (R63). -/
theorem sixBitDot_fires : sixBitDotView.any (fun x =>
    !x.owed && x.op == .idot4 && x.reads == [.tok (bitThirtyGot 0), .tok (bitThirtyGot 1), .tok (bitThirtyGot 2)] &&
      x.sendsLaneZero 0x00001000) = true := by decide +kernel

end Sys2Proof.Machine
end

section
open Sys2Proof Sys2Proof.Machine

/-- Refutes O27: IDOT4's clause has no condition on the operand format, and the model clears bits [31:30] of every result
lane under a 6-bit format (R63), while R200 and the clause keep the 32-bit sum: three tokens of lane 0 = 2^30 give 2^12, not
2^30 + 2^12. (R196 keeps IDOT4 to i8x4 and any other format makes the element BLOCKED, so no finished configuration leads there;
the statement asks it of every view of a firing.) -/
theorem not_stageIntegerValues : ¬ Obligations.StageIntegerValues := by
  rintro ⟨-, h⟩
  obtain ⟨x, -, hat⟩ := (Option.any_eq_true _ _).mp sixBitDot_fires
  simp only [Bool.and_eq_true, Bool.not_eq_true', beq_iff_eq] at hat
  obtain ⟨⟨⟨howed, hop⟩, hreads⟩, hlane⟩ := hat
  obtain ⟨⟨-, -, -, -, -, -, -, -, -, -, -, -, -, -, -, -, -, -, -, -, -, hidot4, -⟩, -⟩ := h x howed
  have hfull : bitThirtyToken.kind = kDATA ∧ bitThirtyToken.valid = 16 := ⟨rfl, rfl⟩
  obtain ⟨f, tok, hplan, hsends, -, -, hlanes⟩ := hidot4 hop _ _ _ hreads hfull hfull hfull
  have hsent : lane tok.data 0 = 0x00001000 := Fire.lane_zero_of_sendsLaneZero hlane hplan hsends
  have hclaimed : lane tok.data 0 = 0x40001000 := (hlanes 0 (by decide)).trans (by decide +kernel)
  rw [hsent] at hclaimed
  exact absurd hclaimed (by decide)
end

section
/-! SUPPORT. The exchange of a slot's planes, unit by unit (R226). -/

namespace Sys2Proof.Machine

/-- A fold whose every step keeps a part keeps that part. -/
theorem foldl_keeps {α β γ : Type} {f : β → α → β} {part : β → γ} (h : ∀ b a, part (f b a) = part b) (as : List α) (b : β) :
    part (as.foldl f b) = part b :=
  (List.foldl_hom part (g₂ := fun p _ => p) fun b a => (h b a).symm).symm.trans (List.foldl_fixed ..)

/-- What one of the two planes holds for an element: the active one by `cfg`, the culture plane by this. -/
def Eng.cultureCfg (g : Eng) (e : Nat) : ElemCfg := Tbl.get g.culture ElemCfg.empty e

section
variable (g : Eng)

theorem Eng.exchangeUnit_commands (a : Nat) : (g.exchangeUnit a).commands = g.commands := by
  unfold Eng.exchangeUnit
  split
  · rfl
  · split
    · rfl
    · split <;> rfl

theorem Eng.exchangeUnit_cfg_same {e : Nat} (he : e < 128) : (g.exchangeUnit e).cfg e = g.cultureCfg e := by
  unfold Eng.exchangeUnit
  rw [if_pos he]
  exact Tbl.get_put_same ..

/-- The exchange of one unit leaves what the planes hold for another element. -/
theorem Eng.exchangeUnit_ne {a e : Nat} (h : e ≠ a) :
    (g.exchangeUnit a).cfg e = g.cfg e ∧ (g.exchangeUnit a).cultureCfg e = g.cultureCfg e := by
  unfold Eng.exchangeUnit
  split
  · exact ⟨Tbl.get_put_ne _ _ _ h, Tbl.get_put_ne _ _ _ h⟩
  · split
    · exact ⟨rfl, rfl⟩
    · split <;> exact ⟨rfl, rfl⟩

/-- The exchange of units, each once, gives an element among them what the culture plane held for it, and leaves every
other. -/
theorem Eng.exchangeUnits_cfg {as : List Nat} (hnodup : as.Nodup) {e : Nat} (he : e < 128) :
    (as.foldl Eng.exchangeUnit g).cfg e = if e ∈ as then g.cultureCfg e else g.cfg e := by
  induction as generalizing g with
  | nil => rfl
  | cons a as ih =>
    obtain ⟨hfresh, hnodup⟩ := List.nodup_cons.1 hnodup
    rw [List.foldl_cons, ih _ hnodup]
    by_cases h : e = a
    · subst h
      rw [if_neg hfresh, if_pos List.mem_cons_self, g.exchangeUnit_cfg_same he]
    · obtain ⟨hcfg, hculture⟩ := g.exchangeUnit_ne h
      simp only [hcfg, hculture, List.mem_cons, h, false_or]

end

section
variable (g : Eng) (v : Nat) (x : Vat) (p : Plane)

/-- A slot whose planes have changed places. -/
def Vat.exchanged : Vat :=
  { x with
    active := some p, culture := x.active, cst := if x.active.isSome then .loaded else .empty
    state := .loaded, code := 0, faddr := 0, quietFrom := none }

theorem Eng.exchange_vat : (g.exchange v x p).vat v = x.exchanged p := Eng.vat_setVat_same ..

theorem Eng.exchange_commands : (g.exchange v x p).commands = g.commands := by
  unfold Eng.exchange
  extract_lets has as g1 g2 g3
  have units : g1.commands = g.commands := foldl_keeps Eng.exchangeUnit_commands ..
  have holds : g2.commands = g1.commands := foldl_keeps (part := Eng.commands) (by exact fun _ _ => rfl) ..
  exact holds.trans units

/-- Of the configurations of elements, an exchange changes those of the units of either plane. -/
theorem Eng.exchange_active :
    (g.exchange v x p).active = (((List.range 0xA0).filter (eitherHas p x.active)).foldl Eng.exchangeUnit g).active := by
  unfold Eng.exchange
  extract_lets has as g1 g2 g3
  have holds : g2.active = g1.active := foldl_keeps (part := Eng.active) (by exact fun _ _ => rfl) ..
  exact holds

theorem Eng.exchange_cfg {e : Nat} (he : e < 128) :
    (g.exchange v x p).cfg e = if eitherHas p x.active e then g.cultureCfg e else g.cfg e := by
  have hunits : (g.exchange v x p).cfg e = (((List.range 0xA0).filter (eitherHas p x.active)).foldl Eng.exchangeUnit g).cfg e :=
    congrArg (Tbl.get · ElemCfg.empty e) (g.exchange_active v x p)
  have hmem : e ∈ (List.range 0xA0).filter (eitherHas p x.active) ↔ eitherHas p x.active e = true := by
    rw [List.mem_filter, List.mem_range]
    exact and_iff_right (by omega)
  rw [hunits, g.exchangeUnits_cfg (List.nodup_range.filter _) he]
  simp only [hmem]

end

end Sys2Proof.Machine
end

section
/-! SUPPORT. The faults of a vat controller, and a residue (R229, R230, R357). -/

namespace Sys2Proof.Machine

/-- A cause that is raised is pending at once. -/
theorem Eng.raise_pend (g : Eng) (p : Pending) : ∃ q ∈ (g.raise p).pend, q.code = p.code ∧ q.source = p.source := by
  unfold Eng.raise
  split
  · next h =>
    obtain ⟨q, hq, hsame⟩ := List.any_eq_true.1 h
    simp only [Bool.and_eq_true, beq_iff_eq] at hsame
    exact ⟨q, hq, hsame⟩
  · exact ⟨p, by simp, rfl, rfl⟩

/-- What a change of a core's units leaves that only reports: its slots, its queue, what its elements hold. -/
structure Eng.OnlyReports (g g' : Eng) : Prop where
  vats : g'.vats = g.vats
  commands : g'.commands = g.commands
  active : g'.active = g.active

/-- Nothing but the reports of one core changes. -/
structure World.OnlyReports (c : Nat) (w w' : World) : Prop where
  mem : w'.mem = w.mem
  others : ∀ k, k ≠ c → w'.eng k = w.eng k
  eng : (w.eng c).OnlyReports (w'.eng c)

theorem World.OnlyReports.setEng {c : Nat} {w w' : World} (h : w.OnlyReports c w') (g : Eng) :
    (w.setEng c g).OnlyReports c (w'.setEng c g) where
  mem := h.mem
  others k hk := by rw [World.eng_setEng_ne _ _ hk, World.eng_setEng_ne _ _ hk, h.others k hk]
  eng := by
    rw [World.eng_setEng_same, World.eng_setEng_same]
    exact ⟨rfl, rfl, rfl⟩

theorem World.OnlyReports.trans {c : Nat} {w w' w'' : World} (h : w.OnlyReports c w') (h' : w'.OnlyReports c w'') :
    w.OnlyReports c w'' where
  mem := h'.mem.trans h.mem
  others k hk := (h'.others k hk).trans (h.others k hk)
  eng := ⟨h'.eng.vats.trans h.eng.vats, h'.eng.commands.trans h.eng.commands, h'.eng.active.trans h.eng.active⟩

theorem Eng.raise_onlyReports (g : Eng) (p : Pending) : g.OnlyReports (g.raise p) := by
  unfold Eng.raise
  split <;> exact ⟨rfl, rfl, rfl⟩

theorem World.raise_onlyReports (w : World) (c : Nat) (p : Pending) : w.OnlyReports c (w.raise c p) where
  mem := rfl
  others _ hk := World.eng_setEng_ne _ _ hk
  eng := by
    rw [World.raise, World.eng_setEng_same]
    exact Eng.raise_onlyReports ..

theorem World.emit_onlyReports (w : World) (c u : Nat) (t : BitVec 8) (y : BitVec 32) :
    w.OnlyReports c (w.emit c u t y) where
  mem := World.emit_mem ..
  others _ hk := World.emit_others _ _ _ _ hk
  eng := by
    obtain ⟨-, -, heng⟩ := w.emit_keeps c u t y
    obtain ⟨r, q, h⟩ := heng c
    rw [h]
    exact ⟨rfl, rfl, rfl⟩

/-- An event leaves what is pending. -/
theorem World.emit_pend (w : World) (c u : Nat) (t : BitVec 8) (y : BitVec 32) :
    ((w.emit c u t y).eng c).pend = (w.eng c).pend := by
  obtain ⟨-, -, heng⟩ := w.emit_keeps c u t y
  obtain ⟨r, q, h⟩ := heng c
  rw [h]

section
variable (w : World) (c v vcause detail addr : Nat) (t1 t2 t3 : Word)

theorem World.vatFault_onlyReports : w.OnlyReports c (w.vatFault c v vcause detail addr t1 t2 t3) :=
  (World.raise_onlyReports ..).trans (World.emit_onlyReports ..)

/-- VAT_FAULT of the slot is pending. -/
theorem World.vatFault_pend :
    ∃ q ∈ ((w.vatFault c v vcause detail addr t1 t2 t3).eng c).pend, q.code = cVATFAULT ∧ q.source = v := by
  rw [World.vatFault, World.emit_pend, World.raise, World.eng_setEng_same]
  exact Eng.raise_pend ..

end

/-- Finding the sender of a residue takes at most a free value. -/
theorem World.residueSender_onlyReports (w : World) (c : Nat) (d : Endpoint) : w.OnlyReports c (w.residueSender c d).2 := by
  unfold World.residueSender
  split <;> exact ⟨rfl, fun _ _ => rfl, rfl, rfl, rfl⟩

/-- A slot in whose planes' links a SWAP has found a token. -/
def Vat.withResidue (x : Vat) : Vat := { x with state := .residue, code := cdRESIDUE, quietFrom := none }

section
variable (w : World) (c v : Nat) (x : Vat) (ds : List Endpoint) (d : Endpoint)

/-- A residue changes the slot, and reports. -/
theorem World.residueFault_onlyReports :
    (w.setEng c ((w.eng c).setVat v x.withResidue)).OnlyReports c (w.residueFault c v x ds d) :=
  (((w.residueSender_onlyReports c d).setEng _).trans (World.emit_onlyReports ..)).trans (World.vatFault_onlyReports ..)

theorem World.residueFault_pend :
    ∃ q ∈ ((w.residueFault c v x ds d).eng c).pend, q.code = cVATFAULT ∧ q.source = v :=
  World.vatFault_pend ..

end

end Sys2Proof.Machine
end

section
/-! SUPPORT. SWAP at the head of its slot's commands: when it waits, and what it does (R228, R256). -/

namespace Sys2Proof.Machine

@[simp] theorem Eng.dropCommand_vat (g : Eng) (n v : Nat) : (g.dropCommand n).vat v = g.vat v := rfl
@[simp] theorem Eng.dropCommand_active (g : Eng) (n : Nat) : (g.dropCommand n).active = g.active := rfl
@[simp] theorem Eng.dropCommand_pend (g : Eng) (n : Nat) : (g.dropCommand n).pend = g.pend := rfl

theorem World.swapNow_exchange {w : World} {c v : Nat} {p : Plane}
    (h : (w.eng c).residue (eitherHas p ((w.eng c).vat v).active) = []) :
    w.swapNow c v p = w.setEng c ((w.eng c).exchange v ((w.eng c).vat v) p) := by
  unfold World.swapNow
  dsimp only
  rw [h]

/-- A token in a link of a unit of either plane makes a residue of a SWAP. -/
theorem World.swapNow_residueFault {w : World} {c v : Nat} {p : Plane}
    (h : (w.eng c).residue (eitherHas p ((w.eng c).vat v).active) ≠ []) :
    ∃ ds d, w.swapNow c v p = w.residueFault c v ((w.eng c).vat v) ds d := by
  obtain ⟨d, ds, hds⟩ := List.exists_cons_of_ne_nil h
  refine ⟨d :: ds, d, ?_⟩
  unfold World.swapNow
  dsimp only
  rw [hds]

/-- With a token or without one, a SWAP leaves memory, the other cores and the queue. -/
theorem World.swapNow_frame (w : World) (c v : Nat) (p : Plane) :
    (w.swapNow c v p).mem = w.mem ∧ (∀ k, k ≠ c → (w.swapNow c v p).eng k = w.eng k) ∧
      ((w.swapNow c v p).eng c).commands = (w.eng c).commands := by
  by_cases h : (w.eng c).residue (eitherHas p ((w.eng c).vat v).active) = []
  · rw [World.swapNow_exchange h, World.eng_setEng_same]
    exact ⟨rfl, fun _ hk => World.eng_setEng_ne _ _ hk, Eng.exchange_commands ..⟩
  · obtain ⟨ds, d, hfault⟩ := World.swapNow_residueFault h
    obtain ⟨hmem, hothers, -, hcommands, -⟩ := w.residueFault_onlyReports c v ((w.eng c).vat v) ds d
    rw [World.eng_setEng_same] at hcommands
    rw [hfault]
    exact ⟨hmem, fun k hk => (hothers k hk).trans (World.eng_setEng_ne _ _ hk), hcommands⟩

theorem World.swapNow_residue {w : World} {c v : Nat} {p : Plane}
    (h : (w.eng c).residue (eitherHas p ((w.eng c).vat v).active) ≠ []) :
    ((w.swapNow c v p).eng c).vat v = ((w.eng c).vat v).withResidue ∧
      ((w.swapNow c v p).eng c).active = (w.eng c).active ∧
      ∃ q ∈ ((w.swapNow c v p).eng c).pend, q.code = cVATFAULT ∧ q.source = v := by
  obtain ⟨ds, d, hfault⟩ := World.swapNow_residueFault h
  obtain ⟨-, -, hvats, -, hactive⟩ := w.residueFault_onlyReports c v ((w.eng c).vat v) ds d
  rw [World.eng_setEng_same] at hvats hactive
  rw [hfault]
  exact ⟨(congrArg (Tbl.get · Vat.reset v) hvats).trans (Eng.vat_setVat_same ..), hactive, World.residueFault_pend ..⟩

section
variable {w : World} {c v : Nat} {p : Plane} (hres : ((w.eng c).vat v).state ≠ .residue)
  (hlive : ((w.eng c).vat v).state.live = false) (hcst : ((w.eng c).vat v).cst = .loaded)
  (hplane : ((w.eng c).vat v).culture = some p)
include hres hlive hcst hplane

/-- The exchange of a loaded plane waits for its event to be possible, and for a cycle behind one that found the region
quiet. -/
theorem World.performSwap_waits
    (h : w.mustFollow c (addrVat v) tVATRESIDUE = true ∨ ∀ q, ((w.eng c).vat v).quietFrom = some q → w.cycle ≤ q) :
    w.performSwap c v = none := by
  unfold World.performSwap
  simp only [beq_iff_eq, hres, hlive, hcst, hplane, if_false, Bool.false_eq_true]
  split
  · next q hq =>
    refine if_neg fun hgo => ?_
    simp only [Bool.and_eq_true, decide_eq_true_eq, Bool.not_eq_true'] at hgo
    obtain ⟨hlater, hfree⟩ := hgo
    obtain hfollow | hnot := h
    · rw [hfollow] at hfree
      cases hfree
    · exact absurd (hnot q hq) (Nat.not_le.2 hlater)
  · rfl

theorem World.performSwap_swaps {q : Nat} (hquiet : ((w.eng c).vat v).quietFrom = some q) (hlater : q < w.cycle)
    (hfree : w.mustFollow c (addrVat v) tVATRESIDUE = false) : w.performSwap c v = some (w.swapNow c v p) := by
  unfold World.performSwap
  simp [hres, hlive, hcst, hplane, hquiet, hlater, hfree]

end

section
variable {w : World} {c : Nat} {v : BitVec 3} {k : Command} {n : Nat} (hhead : (w.eng c).firstOf v.toNat = some (k, n))
include hhead

theorem World.planeExchange_waits (h : w.performSwap c v.toNat = none) : w.planeExchange c v.toNat = w := by
  simp only [World.planeExchange, hhead, h, ite_self]

/-- A SWAP that is performed leaves the queue. -/
theorem World.planeExchange_performs {w' : World} (hk : k.instr = .swap v) (hpress : (w.eng c).pressing = false)
    (h : w.performSwap c v.toNat = some w') :
    w.planeExchange c v.toNat = w'.setEng c ((w'.eng c).dropCommand n) := by
  simp [World.planeExchange, hhead, hk, isSwapOf, hpress, h]

end

theorem exec_planeExchange_eq (s : State) (v : BitVec 3) :
    exec (.planeExchange v) s = .next (s.withWorld (s.w.planeExchange s.cur v.toNat)) := rfl

end Sys2Proof.Machine
end

section
open Sys2Proof Sys2Proof.Machine

/-- Settles O30: a SWAP that need not wait is its third test (R228), which exchanges the planes unit by unit or reports the
residue, and then leaves the queue. -/
theorem planeExchange : Obligations.PlaneExchange := by
  intro s v k n p x has hhead hk hpress hres hlive hcst hplane
  refine ⟨fun h => ?waits, fun q hquiet hlater hfree => ?performed⟩
  case waits =>
    rw [exec_planeExchange_eq, World.planeExchange_waits hhead (World.performSwap_waits hres hlive hcst hplane h)]
    rfl
  case performed =>
    have hswap := World.performSwap_swaps hres hlive hcst hplane hquiet hlater hfree
    obtain ⟨hmem, hothers, hcommands⟩ := s.w.swapNow_frame s.cur v.toNat p
    rw [exec_planeExchange_eq, World.planeExchange_performs hhead hk hpress hswap]
    have heng : ∀ g, (s.withWorld ((s.w.swapNow s.cur v.toNat p).setEng s.cur g)).eng = g := World.eng_setEng_same _ _
    refine ⟨_, rfl, rfl, hmem, ?_, fun c hc => (World.eng_setEng_ne _ _ hc).trans (hothers c hc), fun hnone => ?exchange,
      fun hsome => ?residue⟩
    · rw [heng]
      exact congrArg (dropAt · n) hcommands
    case exchange =>
      have hafter : (s.w.swapNow s.cur v.toNat p).eng s.cur = s.eng.exchange v.toNat x p := by
        rw [World.swapNow_exchange hnone, World.eng_setEng_same]
        rfl
      rw [heng, Eng.dropCommand_vat, hafter, Eng.exchange_vat]
      exact ⟨rfl, rfl, rfl, rfl, fun e he => s.eng.exchange_cfg v.toNat x p he⟩
    case residue =>
      obtain ⟨hslot, hsame, hpend⟩ := World.swapNow_residue hsome
      rw [heng, Eng.dropCommand_vat, hslot, Eng.dropCommand_active, Eng.dropCommand_pend]
      exact ⟨rfl, rfl, hplane, hsame, hpend⟩
end

section
/-! SUPPORT. A report to the host: its bytes, and its place in the ring (R442). -/

namespace Sys2Proof.Machine

/-- The bytes of two numbers in a row are those of one number. -/
theorem leBytes_append (m n x y : Nat) : leBytes m x ++ leBytes n y = leBytes (m + n) (x % 256 ^ m + 256 ^ m * y) := by
  induction m generalizing x with
  | zero => simp [leBytes, Nat.mod_one]
  | succ m ih =>
    have hpow : 256 ^ (m + 1) = 256 * 256 ^ m := by rw [Nat.pow_succ, Nat.mul_comm]
    have hmod : x % 256 ^ (m + 1) = x % 256 + 256 * (x / 256 % 256 ^ m) := by rw [hpow, Nat.mod_mul]
    have hfirst : (x % 256 ^ (m + 1) + 256 ^ (m + 1) * y) % 256 = x % 256 := by
      rw [hmod, hpow, Nat.mul_assoc]
      omega
    have hrest : (x % 256 ^ (m + 1) + 256 ^ (m + 1) * y) / 256 = x / 256 % 256 ^ m + 256 ^ m * y := by
      rw [hmod, hpow, Nat.mul_assoc]
      omega
    rw [Nat.succ_add, leBytes, leBytes, List.cons_append, ih, hrest]
    congr 1
    exact BitVec.eq_of_toNat_eq (by simp only [BitVec.toNat_ofNat]; omega)

/-- The 32 bytes of a report are those of the number of its four words. -/
theorem reportBytes_eq (code core time : Nat) (i0 i1 : Word) :
    reportBytes code core time i0 i1 = leBytes 32 ((code * 2 ^ 56 + core) % 2 ^ 64 + time % 2 ^ 64 * 2 ^ 64 +
      i0.toNat * 2 ^ 128 + i1.toNat * 2 ^ 192) := by
  rw [reportBytes, leBytes_append, leBytes_append, leBytes_append]
  congr 1
  have := i0.isLt
  omega

theorem HostBlock.hasPlace_iff (s : State) : s.w.host.hasPlace = true ↔ ¬ s.ringFull := by
  simp [HostBlock.hasPlace, HostBlock.reportsOn, HostBlock.ringSize, State.ringFull, bitsNat, BitVec.extractLsb'_toNat,
    Nat.shiftRight_eq_div_pow]

/-- A write of the device to DRAM of its own package. -/
theorem World.deviceWrite_dram {w : World} {a : Word} (hnode : a.extractLsb' 50 14 = (w.eng 0).node)
    (hdram : ∃ c, regionOf (a.toNat % 2 ^ 50) = .dram c) (bs : List Byte) :
    w.deviceWrite a bs = w.store (a.toNat % 2 ^ 50) bs := by
  obtain ⟨c, hc⟩ := hdram
  have hpa : physOfFabric (w.eng 0).node a = ⟨false, (w.eng 0).node, a.toNat % 2 ^ 50⟩ := by
    simp [physOfFabric, hnode, bitsNat]
  simp only [World.deviceWrite, hpa, hc, Bool.false_eq_true, if_false]

@[simp] theorem World.store_host (w : World) (a : Nat) (bs : List Byte) : (w.store a bs).host = w.host := by
  unfold World.store World.markLines
  split <;> rfl

/-- Reporting leaves the ingress ports. -/
theorem World.hostReport_ingress (w : World) (code core : Nat) (i0 i1 : Word) (c : Nat) :
    ((w.hostReport code core i0 i1).2.eng c).ingress = (w.eng c).ingress := by
  have hwrite : ∀ a bs, ((w.deviceWrite a bs).eng c).ingress = (w.eng c).ingress := fun a bs => by
    unfold World.deviceWrite
    dsimp only
    split
    · rfl
    · have hstore : ((w.store (physOfFabric (w.eng 0).node a).addr bs).eng c).ingress = (w.eng c).ingress := by
        obtain ⟨es, h⟩ := w.markLines_engs (physOfFabric (w.eng 0).node a).addr bs.length c
        rw [show (w.store (physOfFabric (w.eng 0).node a).addr bs).eng c = _ from h]
      split
      · exact hstore
      · exact hstore
      · rfl
  unfold World.hostReport
  dsimp only
  split
  · exact hwrite ..
  · rfl

section
variable {s : State} {w : World} (hhost : w.host = s.w.host) (code core : Nat) (i0 i1 : Word)
include hhost

theorem World.hostReport_full (h : s.ringFull) :
    w.hostReport code core i0 i1 = (false, { w with host := { w.host with hrlost := satInc w.host.hrlost } }) := by
  have : w.host.hasPlace = false := by
    rw [hhost, ← Bool.not_eq_true, HostBlock.hasPlace_iff]
    exact fun hn => hn h
  rw [World.hostReport, if_neg (by simp [this])]

theorem World.hostReport_sent (h : ¬ s.ringFull) : (w.hostReport code core i0 i1).1 = true := by
  rw [World.hostReport, if_pos (by rw [hhost]; exact (HostBlock.hasPlace_iff s).2 h)]

/-- A report is what R442 says of it, whatever the device does behind it that leaves memory and the host block. -/
theorem World.hostReport_told (hmem : w.mem = s.w.mem) (htime : w.time = s.w.time) (hnode : (w.eng 0).node = (s.w.eng 0).node)
    {t : State} (ht : t.w.host = (w.hostReport code core i0 i1).2.host ∧ t.w.mem = (w.hostReport code core i0 i1).2.mem) :
    Told s t code core i0 i1 where
  lost h := by
    obtain ⟨hh, hm⟩ := ht
    rw [hh, hm, w.hostReport_full hhost code core i0 i1 h]
    simp only [hhost, hmem, satInc, beq_iff_eq, implies_true, and_self]
  written h a ha han hdram hwf := by
    obtain ⟨hh, hm⟩ := ht
    have hwf' : Memory.wf w.mem = true := by rw [hmem]; exact hwf
    have hat : w.host.hrbase + BitVec.ofNat 64 (32 * (w.host.hrwidx.toNat % w.host.ringSize)) = a := by
      rw [ha, hhost]
      simp [HostBlock.ringSize, bitsNat, BitVec.extractLsb'_toNat]
    rw [World.hostReport, if_pos (by rw [hhost]; exact (HostBlock.hasPlace_iff s).2 h)] at hh hm
    simp only [hat, World.deviceWrite_dram (han.trans hnode.symm) hdram, World.store_host] at hh hm
    rw [hh, hm, reportBytes_eq]
    simp only [World.store_read hwf', hhost, hmem, htime, true_and]
    exact fun z => ⟨fun h => if_pos h, fun h => if_neg h⟩

end

end Sys2Proof.Machine
end

section
/-! SUPPORT. The ingress port: a push that is kept, and one that is dropped (R249). -/

namespace Sys2Proof.Machine

/-- A record of which a token is still to come hands nothing on. -/
theorem headRecord_short {h : Token} {more : List Token} (hlen : more.length < h.level.toNat) :
    headRecord (h :: more) = none := if_neg (Nat.not_le.2 hlen)

theorem midRecord_short (n : Nat) {h : Token} {more : List Token} (hlen : more.length < h.level.toNat) :
    midRecord (n + 1) (h :: more) = true := by
  rw [midRecord, headRecord_short hlen]
  rfl

theorem World.handRecords_none {w : World} {c : Nat} (h : headRecord (w.eng c).ingress.toks = none) (n : Nat) :
    w.handRecords c n = w := by
  cases n with
  | zero => rfl
  | succ n =>
    rw [World.handRecords, h]
    split
    · next heq => cases heq
    · rfl

section
variable {s : State} {off : BitVec 12} {data : BitVec 512} {v : Word}

/-- The units of the core in turn after its ingress port was written, and the response to the host. -/
def State.portWritten (s : State) (x : Ingress) (r : BitVec 2) : State :=
  s.withWorld ((s.w.setEng s.cur { s.eng with ingress := x }).respond r)

theorem State.portWritten_ingress (s : State) (x : Ingress) (r : BitVec 2) : (s.portWritten x r).eng.ingress = x :=
  congrArg Eng.ingress (World.eng_setEng_same ..)

theorem State.portWritten_unitsOnly (s : State) (x : Ingress) (r : BitVec 2) : UnitsOnly s (s.portWritten x r) :=
  ⟨rfl, rfl, rfl, fun _ hc => World.eng_setEng_ne _ _ hc, fun _ => rfl⟩

theorem exec_ingressSidebandWrite_eq :
    exec (.ingressSidebandWrite v) s = .next (s.withWorld (s.w.ingressSideband s.cur v)) := rfl

theorem exec_ingressPayloadWrite_eq :
    exec (.ingressPayloadWrite off data) s = .next (s.withWorld (s.w.ingressPayload s.cur off.toNat data)) := rfl

theorem exec_ingressSidebandWrite_perm (h : 2 ^ 24 ≤ v.toNat) :
    exec (.ingressSidebandWrite v) s = .next { s with w := { s.w with resp := 2 } } := by
  have hhigh : (v.extractLsb' 24 40 != 0) = true := by
    rw [bne_iff_ne]
    intro h0
    have h1 := congrArg BitVec.toNat h0
    rw [BitVec.extractLsb'_toNat, Nat.shiftRight_eq_div_pow, show (0 : BitVec 40).toNat = 0 from rfl] at h1
    have := v.isLt
    omega
  rw [exec_ingressSidebandWrite_eq, World.ingressSideband, if_pos hhigh]
  rfl

theorem exec_ingressSidebandWrite (h : v.toNat < 2 ^ 24) : exec (.ingressSidebandWrite v) s =
    .next (s.portWritten { s.eng.ingress with sideband := v.extractLsb' 0 24 } 0) := by
  have hhigh : (v.extractLsb' 24 40 != 0) = false := by
    rw [bne_eq_false_iff_eq]
    refine BitVec.eq_of_toNat_eq ?_
    rw [BitVec.extractLsb'_toNat, Nat.shiftRight_eq_div_pow, Nat.div_eq_of_lt h]
    rfl
  rw [exec_ingressSidebandWrite_eq, World.ingressSideband, hhigh]
  rfl

theorem exec_ingressPayloadWrite_decode (h : off ≠ 0) :
    exec (.ingressPayloadWrite off data) s = .next { s with w := { s.w with resp := 1 } } := by
  have hoff : (off.toNat != 0) = true := bne_iff_ne.2 fun h0 => h (BitVec.eq_of_toNat_eq h0)
  rw [exec_ingressPayloadWrite_eq, World.ingressPayload, if_pos hoff]
  rfl

theorem exec_ingressPayloadWrite_held (h : 64 ≤ s.eng.ingress.toks.length) :
    exec (.ingressPayloadWrite 0 data) s = .next s := by
  have hspace : (s.w.eng s.cur).ingress.space = 0 := Nat.sub_eq_zero_of_le h
  rw [exec_ingressPayloadWrite_eq, World.ingressPayload, if_neg (by decide)]
  dsimp only
  rw [if_pos hspace]
  rfl

/-- The token that a payload write pushes (R249, R263). -/
def State.pushed (s : State) (data : BitVec 512) : Token := Token.ofSideband s.eng.ingress.sideband data

/-- Does a token fit its place: a THR of LEVEL up to 3 at the start of a record, another kind in the middle of one? -/
def State.fitsPort (s : State) (t : Token) : Bool :=
  if midRecord 65 s.eng.ingress.toks then t.kind != kTHR else t.kind == kTHR && t.level.toNat ≤ 3

/-- A token as the port keeps it. -/
def keptToken (t : Token) : Token := if t.kind == kTHR then { t with r := true } else t

/-- A token that fits and does not complete its record is kept. -/
theorem World.pushToken_keeps {t : Token} (hfits : s.fitsPort t = true)
    (hshort : headRecord (s.eng.ingress.toks ++ [keptToken t]) = none) : s.w.pushToken s.cur t = (false,
      s.w.setEng s.cur { s.eng with ingress := { s.eng.ingress with toks := s.eng.ingress.toks ++ [keptToken t] } }) := by
  rw [World.pushToken]
  refine (if_pos hfits).trans (congrArg (Prod.mk false) (World.handRecords_none ?_ 65))
  rw [World.eng_setEng_same]
  exact hshort

/-- The units with one more drop counted at the port. -/
def State.dropCounted (s : State) : World :=
  s.w.setEng s.cur { s.eng with ingress := { s.eng.ingress with drops := s.eng.ingress.drops + 1 } }

theorem World.pushToken_drops {t : Token} (hfits : s.fitsPort t = false) :
    s.w.pushToken s.cur t = (true, s.dropCounted) := by
  rw [World.pushToken]
  exact if_neg (Bool.not_eq_true _ ▸ hfits)

section
variable (h : s.eng.ingress.toks.length < 64)
include h

theorem exec_ingressPayloadWrite_kept (hfits : s.fitsPort (s.pushed data) = true)
    (hshort : headRecord (s.eng.ingress.toks ++ [keptToken (s.pushed data)]) = none) :
    exec (.ingressPayloadWrite 0 data) s = .next (s.portWritten
      { s.eng.ingress with toks := s.eng.ingress.toks ++ [keptToken (s.pushed data)] } 0) := by
  have hspace : ¬ (s.w.eng s.cur).ingress.space = 0 := Nat.sub_ne_zero_of_lt h
  rw [exec_ingressPayloadWrite_eq, World.ingressPayload, if_neg (by decide)]
  refine congrArg (fun w => Host.Outcome.next (s.withWorld w)) ((if_neg hspace).trans ?_)
  rw [show Token.ofSideband (s.w.eng s.cur).ingress.sideband data = s.pushed data from rfl,
    World.pushToken_keeps hfits hshort]
  rfl

/-- The report of a drop, with the count. -/
def State.dropReport (s : State) : Bool × World :=
  s.dropCounted.hostReport 3 s.cur (s.eng.ingress.sideband.setWidth 64) (BitVec.ofNat 64 (s.eng.ingress.drops + 1))

/-- The count of drops goes back to zero where the report was written. -/
def State.dropReported (s : State) : World :=
  let w := s.dropReport.2
  if s.dropReport.1 then
    w.setEng s.cur { w.eng s.cur with ingress := { (w.eng s.cur).ingress with drops := 0 } }
  else w

theorem exec_ingressPayloadWrite_dropped (hfits : s.fitsPort (s.pushed data) = false) :
    exec (.ingressPayloadWrite 0 data) s = .next (s.withWorld (s.dropReported.respond 0)) := by
  have hspace : ¬ (s.w.eng s.cur).ingress.space = 0 := Nat.sub_ne_zero_of_lt h
  have hcount : (s.dropCounted.eng s.cur).ingress.drops = s.eng.ingress.drops + 1 := by
    rw [State.dropCounted, World.eng_setEng_same]
  rw [exec_ingressPayloadWrite_eq, World.ingressPayload, if_neg (by decide)]
  refine congrArg (fun w => Host.Outcome.next (s.withWorld w)) ((if_neg hspace).trans ?_)
  rw [show Token.ofSideband (s.w.eng s.cur).ingress.sideband data = s.pushed data from rfl,
    World.pushToken_drops hfits]
  dsimp only
  rw [hcount]
  rfl

end

theorem State.dropReport_ingress (s : State) :
    (s.dropReport.2.eng s.cur).ingress = { s.eng.ingress with drops := s.eng.ingress.drops + 1 } := by
  rw [State.dropReport, World.hostReport_ingress, State.dropCounted, World.eng_setEng_same]

theorem State.dropReported_full (h : s.ringFull) : s.dropReported = s.dropReport.2 := by
  have hlost : s.dropReport.1 = false := by
    rw [State.dropReport, World.hostReport_full (w := s.dropCounted) rfl _ _ _ _ h]
  rw [State.dropReported, hlost]
  rfl

theorem State.dropReported_sent (h : ¬ s.ringFull) : s.dropReported = s.dropReport.2.setEng s.cur
    { s.dropReport.2.eng s.cur with ingress := { (s.dropReport.2.eng s.cur).ingress with drops := 0 } } :=
  if_pos (World.hostReport_sent (w := s.dropCounted) rfl _ _ _ _ h)

theorem State.dropReported_ingress (s : State) : (s.dropReported.eng s.cur).ingress.toks = s.eng.ingress.toks ∧
    (s.ringFull → (s.dropReported.eng s.cur).ingress.drops = s.eng.ingress.drops + 1) ∧
    (¬ s.ringFull → (s.dropReported.eng s.cur).ingress.drops = 0) := by
  by_cases h : s.ringFull
  · rw [State.dropReported_full h, State.dropReport_ingress]
    exact ⟨rfl, fun _ => rfl, fun hn => absurd h hn⟩
  · rw [State.dropReported_sent h, World.eng_setEng_same, State.dropReport_ingress]
    exact ⟨rfl, fun hf => absurd hf h, fun _ => rfl⟩

theorem State.dropReported_told (s : State) : Told s (s.withWorld (s.dropReported.respond 0)) 3 s.cur
    (s.eng.ingress.sideband.setWidth 64) (BitVec.ofNat 64 (s.eng.ingress.drops + 1)) := by
  refine World.hostReport_told (w := s.dropCounted) rfl _ _ _ _ rfl rfl ?_ ?_
  · rw [State.dropCounted, World.eng_setEng]
    split
    · next h => rw [h]; rfl
    · rfl
  · by_cases h : s.ringFull
    · rw [State.dropReported_full h]
      exact ⟨rfl, rfl⟩
    · rw [State.dropReported_sent h]
      exact ⟨rfl, rfl⟩

end

end Sys2Proof.Machine
end

section
open Sys2Proof Sys2Proof.Machine

/-- Settles O47, by the place of the token in the record at the head of the port (R249, R263). -/
theorem ingressPort : Obligations.IngressPort := by
  intro s off data v x y tok only
  refine ⟨exec_ingressSidebandWrite_perm, fun h => ?sideband, exec_ingressPayloadWrite_decode, ?held, ?first, ?inner,
    ?dropped⟩
  case sideband =>
    refine ⟨_, exec_ingressSidebandWrite h, s.portWritten_unitsOnly .., rfl, ?_⟩
    simp only [y, State.portWritten_ingress]
    trivial
  case held =>
    rintro rfl h
    exact exec_ingressPayloadWrite_held h
  case first =>
    rintro rfl hnil hkind hlo hhi
    have htoks : s.eng.ingress.toks = [] := hnil
    have hkept : keptToken (s.pushed data) = { tok with r := true } := if_pos (beq_iff_eq.2 hkind)
    refine ⟨_, exec_ingressPayloadWrite_kept (by rw [htoks]; decide) ?_ ?_, s.portWritten_unitsOnly .., rfl, ?_⟩
    · rw [State.fitsPort, htoks]
      exact Bool.and_eq_true_iff.2 ⟨beq_iff_eq.2 hkind, decide_eq_true hhi⟩
    · rw [htoks, hkept]
      exact headRecord_short hlo
    · simp only [y, State.portWritten_ingress]
      rw [htoks, hkept]
      exact ⟨rfl, rfl⟩
  case inner =>
    rintro h more rfl htoks hlevel hlen hkind
    have hkept : keptToken (s.pushed data) = tok := if_neg (by rwa [beq_iff_eq])
    refine ⟨_, exec_ingressPayloadWrite_kept hlen ?_ ?_, s.portWritten_unitsOnly .., rfl, ?_⟩
    · rw [State.fitsPort, show s.eng.ingress.toks = h :: more from htoks, midRecord_short 64 (by omega)]
      exact bne_iff_ne.2 hkind
    · rw [show s.eng.ingress.toks = h :: more from htoks]
      exact headRecord_short (by simpa using hlevel)
    · simp only [y, State.portWritten_ingress, hkept]
      exact ⟨rfl, rfl⟩
  case dropped =>
    rintro rfl hplace
    have hdrop : s.eng.ingress.toks.length < 64 ∧ s.fitsPort (s.pushed data) = false := by
      obtain ⟨htoks, hkind⟩ | ⟨h, more, htoks, hlevel, hlen, hkind⟩ := hplace
      · rw [State.fitsPort, show s.eng.ingress.toks = [] from htoks]
        exact ⟨by decide, Bool.and_eq_false_imp.2 fun hthr => absurd (beq_iff_eq.1 hthr) hkind⟩
      · refine ⟨hlen, ?_⟩
        rw [State.fitsPort, show s.eng.ingress.toks = h :: more from htoks, midRecord_short 64 hlevel]
        exact bne_eq_false_iff_eq.2 hkind
    obtain ⟨htoks, hfull, hsent⟩ := s.dropReported_ingress
    exact ⟨_, exec_ingressPayloadWrite_dropped hdrop.1 hdrop.2, rfl, rfl, htoks, hfull, hsent, s.dropReported_told⟩
end

section
/-! SUPPORT. A token from outside the grid that enters a link at its lowest tag (R170, R171). -/

namespace Sys2Proof.Machine

theorem World.wakeVat_engs (w : World) (c addr : Nat) :
    ∃ vs, (w.wakeVat c addr).eng c = { w.eng c with vats := vs } := by
  unfold World.wakeVat
  dsimp only
  split
  · exact ⟨_, rfl⟩
  · split
    · exact ⟨_, rfl⟩
    · exact ⟨_, World.eng_setEng_same ..⟩

theorem World.wakeVat_frame (w : World) (c addr : Nat) :
    (w.wakeVat c addr).mem = w.mem ∧ ∀ k, k ≠ c → (w.wakeVat c addr).eng k = w.eng k := by
  unfold World.wakeVat
  dsimp only
  split
  · exact ⟨rfl, fun _ _ => rfl⟩
  · split
    · exact ⟨rfl, fun _ _ => rfl⟩
    · exact ⟨rfl, fun _ hk => World.eng_setEng_ne _ _ hk⟩

section
variable (w : World) (c : Nat) (d : Endpoint) (t : Token) (fmt : BitVec 4) (arrive : Nat) (shared : Bool)

theorem World.launchTo_frame : (w.launchTo c d t fmt arrive shared).mem = w.mem ∧
    ∀ k, k ≠ c → (w.launchTo c d t fmt arrive shared).eng k = w.eng k := by
  obtain ⟨hmem, hothers⟩ := w.wakeVat_frame c d.addr
  exact ⟨hmem, fun k hk => (World.eng_setEng_ne _ _ hk).trans (hothers k hk)⟩

/-- The token is the last in flight, with its own data and kind; the scheduler stands. -/
theorem World.launchTo_sends : ((w.launchTo c d t fmt arrive shared).eng c).sched = (w.eng c).sched ∧
    ∃ f, ((w.launchTo c d t fmt arrive shared).eng c).flights = (w.eng c).flights ++ [f] ∧ f.dest = d ∧
      f.tok.data = t.data ∧ f.tok.kind = t.kind := by
  obtain ⟨vs, h⟩ := w.wakeVat_engs c d.addr
  rw [World.launchTo, World.eng_setEng_same, h]
  exact ⟨rfl, _, rfl, rfl, rfl, rfl⟩

end

/-- No tag is lower than tag 0: a token for it enters when its pool has a slot. -/
theorem World.enterLink_tagZero {w : World} {c : Nat} {d : Endpoint} (htag : d.tag = 0)
    (hslot : (w.eng c).hasSlot d = true) (hearly : w.gridBegun c = false) (t : Token) (fmt : BitVec 4) (arrive : Nat) :
    w.enterLink c d t fmt arrive = some (w.launchTo c d t fmt arrive (!(w.eng c).reserveFree d)) := by
  have hclaims : w.lowerClaims c d = 0 := by
    unfold World.lowerClaims
    refine if_neg ?_
    simp [htag]
  have hunits : w.lowerUnits c d = 0 := by
    unfold World.lowerUnits
    simp [htag]
  unfold World.enterLink
  rw [hearly, hclaims, hunits]
  refine (if_neg Bool.false_ne_true).trans (if_pos ?_)
  simpa [Eng.hasSlot] using hslot

end Sys2Proof.Machine
end

section
/-! SUPPORT. Injection by the block scheduler, and where it stops (R265, R266). -/

namespace Sys2Proof.Machine

/-- The token that a slot injects next, with what is left of its record and of its block's queue. -/
def Eng.nextInjected (g : Eng) (v b : Nat) : Option (Token × List Token × List ThreadRec) :=
  let part := Tbl.get g.sched.injecting [] v
  let q := g.sched.queue b
  match part, q with
  | t :: rest, _ => some (t, rest, q)
  | [], r :: q' =>
    if g.sched.stopped.contains v then none
    else
      match r.toks with
      | t :: rest => some (t, rest, q')
      | [] => none
  | [], [] => none

/-- ENTRY of a scheduled vat, tag 0 (R264, R266). -/
def Plane.entry (p : Plane) : Endpoint := .grid p.entryElem p.entryPort 0

/-- The scheduler's record of a slot after its next token has entered. -/
def Sched.injectedTo (d : Sched) (v b : Nat) (rest : List Token) (q : List ThreadRec) : Sched :=
  { (d.setQueue b q) with injecting := Tbl.put d.injecting v rest }

/-- A token of a slot's record has entered the ENTRY port. -/
def World.injected (w : World) (c v : Nat) (p : Plane) (t : Token) (rest : List Token) (q : List ThreadRec) : World :=
  let w' := w.launchTo c p.entry t ((w.eng c).linkFmt p.entry 0) (w.cycle + 1) (!(w.eng c).reserveFree p.entry)
  w'.setEng c { w'.eng c with sched := (w'.eng c).sched.injectedTo v p.block rest q }

/-- The next token of a slot enters, if there is one and its link takes it. -/
def World.injectNext (w : World) (c v : Nat) (p : Plane) : Option (Token × List Token × List ThreadRec) → World
  | none => w
  | some (t, rest, q) =>
    match w.enterLink c p.entry t ((w.eng c).linkFmt p.entry 0) (w.cycle + 1) with
    | none => w
    | some w' => w'.setEng c { w'.eng c with sched := (w'.eng c).sched.injectedTo v p.block rest q }

/-- Does a slot inject: scheduled, live, and no press under way? -/
def Eng.injects (g : Eng) (v : Nat) : Bool :=
  !(g.pressing || !g.scheduledSlots.contains v || !((g.vat v).state == .armed || (g.vat v).state == .running))

section
variable {w : World} {c v : Nat} (hport : (w.eng c).ingress.toks = [])
include hport

theorem World.handRecords_empty (n : Nat) : w.handRecords c n = w := World.handRecords_none (by rw [hport]; rfl) n

theorem World.inject_not (h : (w.eng c).injects v = false) : w.inject c v = w := by
  unfold World.inject
  rw [World.handRecords_empty hport]
  exact if_pos (Bool.not_eq_false _ ▸ fun hn => by rw [Eng.injects, hn] at h; cases h)

theorem World.inject_eq {p : Plane} (h : (w.eng c).injects v = true) (hplane : ((w.eng c).vat v).active = some p) :
    w.inject c v = w.injectNext c v p ((w.eng c).nextInjected v p.block) := by
  unfold World.inject
  rw [World.handRecords_empty hport]
  refine (if_neg fun hn => by rw [Eng.injects, hn] at h; cases h).trans ?_
  rw [hplane]
  rfl

end

section
variable {s : State} {v : BitVec 3} (hport : s.eng.ingress.toks = [])
include hport

theorem exec_schedInject_not (h : v.toNat ∉ s.eng.scheduledSlots) : exec (.schedInject v) s = .next s :=
  congrArg (fun w => Host.Outcome.next (s.withWorld w)) (World.inject_not hport (by
    simp [Eng.injects, show v.toNat ∉ (s.w.eng s.cur).scheduledSlots from h]))

theorem exec_schedInject {p : Plane} {t : Token} {rest : List Token} {q : List ThreadRec}
    (hmine : v.toNat ∈ s.eng.scheduledSlots) (hpress : s.eng.pressing = false)
    (hplane : (s.eng.vat v.toNat).active = some p)
    (hstate : (s.eng.vat v.toNat).state = .armed ∨ (s.eng.vat v.toNat).state = .running)
    (hslot : s.eng.hasSlot p.entry = true) (hearly : s.w.gridBegun s.cur = false)
    (hnext : s.eng.nextInjected v.toNat p.block = some (t, rest, q)) :
    exec (.schedInject v) s = .next (s.withWorld (s.w.injected s.cur v.toNat p t rest q)) := by
  have hinjects : s.eng.injects v.toNat = true := by simpa [Eng.injects, hpress, hmine] using hstate
  show Host.Outcome.next (s.withWorld (s.w.inject s.cur v.toNat)) = _
  rw [World.inject_eq hport hinjects hplane, show (s.w.eng s.cur).nextInjected v.toNat p.block = _ from hnext,
    World.injectNext, World.enterLink_tagZero rfl hslot hearly]
  rfl

end

/-- What injecting a token leaves of the scheduler, and the token on its way. -/
theorem State.injected_sends (s : State) (v : Nat) (p : Plane) (t : Token) (rest : List Token) (q : List ThreadRec) :
    let u := s.withWorld (s.w.injected s.cur v p t rest q)
    UnitsOnly s u ∧ Tbl.get u.eng.sched.injecting [] v = rest ∧ u.eng.sched.queue p.block = q ∧
      ∃ f, u.eng.flights = s.eng.flights ++ [f] ∧ f.dest = p.entry ∧ f.tok.data = t.data ∧ f.tok.kind = t.kind := by
  intro u
  have hlaunch := s.w.launchTo_sends s.cur p.entry t ((s.w.eng s.cur).linkFmt p.entry 0) (s.w.cycle + 1)
    (!(s.w.eng s.cur).reserveFree p.entry)
  have hframe := s.w.launchTo_frame s.cur p.entry t ((s.w.eng s.cur).linkFmt p.entry 0) (s.w.cycle + 1)
    (!(s.w.eng s.cur).reserveFree p.entry)
  obtain ⟨hmem, hothers⟩ := hframe
  obtain ⟨-, hflight⟩ := hlaunch
  refine ⟨⟨rfl, rfl, rfl, fun c hc => (World.eng_setEng_ne _ _ hc).trans (hothers c hc),
    fun a => congrArg (memRead · a) hmem⟩, ?_⟩
  have heng : u.eng = _ := World.eng_setEng_same ..
  rw [heng]
  exact ⟨Tbl.get_put_same .., Tbl.get_put_same .., hflight⟩

/-! BLOCK_AGED. -/

/-- A block is aged when its oldest record has waited for 65,536 cycles (R266). -/
theorem Sched.aged_iff {d : Sched} {now b : Nat} :
    d.aged now b = true ↔ ∃ r rest, d.queue b = r :: rest ∧ 65536 ≤ now - r.at' := by
  unfold Sched.aged Sched.age ageLimit
  cases d.queue b with
  | nil => simp
  | cons r rest => simp

theorem Sched.mem_waiting {d : Sched} {b : Nat} : b ∈ d.waiting ↔ b < 256 ∧ d.queue b ≠ [] := by
  simp [Sched.waiting]

theorem Sched.queue_of_aged {d : Sched} {now b : Nat} (h : d.aged now b = true) : d.queue b ≠ [] := by
  obtain ⟨r, rest, hq, -⟩ := Sched.aged_iff.1 h
  simp [hq]

/-- The slots are listed from the lowest. -/
theorem Eng.scheduledSlots_sorted (g : Eng) : g.scheduledSlots.Pairwise (· < ·) :=
  List.Pairwise.filter _ List.pairwise_lt_range

/-- The first of an ascending list that a test accepts. -/
theorem find?_of_sorted {l : List Nat} {p : Nat → Bool} {v : Nat} (hsorted : l.Pairwise (· < ·)) (hmem : v ∈ l)
    (hv : p v = true) (hlow : ∀ u ∈ l, u < v → p u = false) : l.find? p = some v := by
  induction l with
  | nil => cases hmem
  | cons u l ih =>
    rw [List.pairwise_cons] at hsorted
    obtain ⟨hu, hl⟩ := hsorted
    rcases List.mem_cons.1 hmem with rfl | hin
    · rw [List.find?_cons, hv]
    · rw [List.find?_cons, hlow u (List.mem_cons_self ..) (hu v hin)]
      exact ih hl hin fun k hk => hlow k (List.mem_cons_of_mem _ hk)

section
variable {s : State} {v : BitVec 3}

/-- Is an aged block loaded in no slot? -/
def State.homeless (s : State) : Bool :=
  s.eng.sched.waiting.any (fun b => s.eng.sched.aged s.w.cycle b && !(s.eng.scheduledSlots.map s.eng.slotBlock).contains b)

theorem State.homeless_iff : s.homeless = true ↔
    ∃ b, b < 256 ∧ s.eng.sched.aged s.w.cycle b = true ∧ ∀ u ∈ s.eng.scheduledSlots, s.eng.slotBlock u ≠ b := by
  simp only [State.homeless, List.any_eq_true, Bool.and_eq_true, Bool.not_eq_true', List.contains_eq_mem,
    decide_eq_false_iff_not, List.mem_map, not_exists, not_and, Sched.mem_waiting]
  exact ⟨fun ⟨b, ⟨hb, _⟩, h⟩ => ⟨b, hb, h⟩, fun ⟨b, hb, h⟩ => ⟨b, ⟨hb, Sched.queue_of_aged h.1⟩, h⟩⟩

theorem exec_blockAged_eq : exec (.blockAged v) s = .next (s.withWorld (
    if (s.homeless && s.eng.scheduledSlots.find? (fun u => !s.eng.sched.aged s.w.cycle (s.eng.slotBlock u)) == some v.toNat &&
      !s.eng.sched.stopped.contains v.toNat) = true
    then s.w.setEng s.cur { s.eng with sched := { s.eng.sched with stopped := s.eng.sched.stopped ++ [v.toNat] } }
    else s.w)) := rfl

theorem exec_blockAged_homeless (h : s.homeless = false) : exec (.blockAged v) s = .next s := by
  rw [exec_blockAged_eq, h]
  rfl

theorem exec_blockAged_not (h : v.toNat ∉ s.eng.scheduledSlots) : exec (.blockAged v) s = .next s := by
  have hlow : s.eng.scheduledSlots.find? (fun u => !s.eng.sched.aged s.w.cycle (s.eng.slotBlock u)) ≠ some v.toNat :=
    fun hf => h (List.mem_of_find?_eq_some hf)
  rw [exec_blockAged_eq, if_neg (by simp [hlow])]
  rfl

theorem exec_blockAged_stops (hhome : s.homeless = true)
    (hlow : s.eng.scheduledSlots.find? (fun u => !s.eng.sched.aged s.w.cycle (s.eng.slotBlock u)) = some v.toNat)
    (hgoes : v.toNat ∉ s.eng.sched.stopped) : exec (.blockAged v) s = .next (s.withEng
      { s.eng with sched := { s.eng.sched with stopped := s.eng.sched.stopped ++ [v.toNat] } }) := by
  rw [exec_blockAged_eq, if_pos (by simp [hhome, hlow, hgoes])]
  rfl

end

theorem State.withEng_unitsOnly (s : State) (g : Eng) : UnitsOnly s (s.withEng g) :=
  ⟨rfl, rfl, rfl, fun _ hc => World.eng_setEng_ne _ _ hc, fun _ => rfl⟩

end Sys2Proof.Machine
end

section
/-! SUPPORT. The selection of a block for a slot (R266). -/

namespace Sys2Proof.Machine

/-- What `pickMax` picks: a member of greatest measure, and of an ascending list the lowest of those. -/
theorem pickMax_spec {f : Nat → Nat} {l : List Nat} {b : Nat} (hsorted : l.Pairwise (· < ·)) (h : pickMax f l = some b) :
    b ∈ l ∧ ∀ k ∈ l, f k ≤ f b ∧ (f k = f b → b ≤ k) := by
  induction l generalizing b with
  | nil => cases h
  | cons a l ih =>
    rw [List.pairwise_cons] at hsorted
    obtain ⟨ha, hl⟩ := hsorted
    rw [pickMax] at h
    split at h
    · next hnone =>
      have hnil : l = [] := by
        cases l with
        | nil => rfl
        | cons x l =>
          rw [pickMax] at hnone
          split at hnone
          · cases hnone
          · split at hnone <;> cases hnone
      obtain rfl := Option.some.inj h
      simp [hnil]
    · next k hk =>
      obtain ⟨hmem, hmax⟩ := ih hl hk
      split at h
      · next hle =>
        obtain rfl := Option.some.inj h
        refine ⟨List.mem_cons_self .., fun u hu => ?_⟩
        rcases List.mem_cons.1 hu with rfl | hin
        · exact ⟨le_rfl, fun _ => le_rfl⟩
        · exact ⟨(hmax u hin).1.trans hle, fun _ => (ha u hin).le⟩
      · next hlt =>
        obtain rfl := Option.some.inj h
        refine ⟨List.mem_cons_of_mem _ hmem, fun u hu => ?_⟩
        rcases List.mem_cons.1 hu with rfl | hin
        · exact ⟨(not_le.1 hlt).le, fun he => absurd he.ge hlt⟩
        · exact hmax u hin

section
variable {g : Eng} {now v b : Nat}

/-- The blocks with a waiting record that no other scheduled slot holds. -/
def Eng.candidates (g : Eng) (v : Nat) : List Nat :=
  g.sched.waiting.filter (fun b => !((g.scheduledSlots.filter (· != v)).map g.slotBlock).contains b)

theorem Eng.mem_candidates : b ∈ g.candidates v ↔
    b < 256 ∧ g.sched.queue b ≠ [] ∧ ∀ u ∈ g.scheduledSlots, u ≠ v → g.slotBlock u ≠ b := by
  simp only [Eng.candidates, List.mem_filter, Sched.mem_waiting, Bool.not_eq_true', List.contains_eq_mem,
    decide_eq_false_iff_not, List.mem_map, bne_iff_ne, not_exists, not_and, and_assoc]

theorem Eng.candidates_sorted (g : Eng) (v : Nat) : (g.candidates v).Pairwise (· < ·) :=
  List.Pairwise.filter _ (List.Pairwise.filter _ List.pairwise_lt_range)

theorem Eng.pickBlock_eq : g.pickBlock now v = if (g.candidates v).any (g.sched.aged now) = true
    then pickMax (g.sched.age now) (g.candidates v) else pickMax (fun b => (g.sched.queue b).length) (g.candidates v) := rfl

theorem Eng.pickBlock_mem (h : g.pickBlock now v = some b) : b ∈ g.candidates v := by
  rw [Eng.pickBlock_eq] at h
  split at h
  · exact (pickMax_spec (g.candidates_sorted v) h).1
  · exact (pickMax_spec (g.candidates_sorted v) h).1

/-- With an aged candidate the pick is aged, and of the greatest age. -/
theorem Eng.pickBlock_aged (h : g.pickBlock now v = some b) {k : Nat} (hk : k ∈ g.candidates v)
    (haged : g.sched.aged now k = true) :
    g.sched.aged now b = true ∧ ∀ u ∈ g.candidates v, g.sched.age now u ≤ g.sched.age now b := by
  rw [Eng.pickBlock_eq, if_pos (List.any_eq_true.2 ⟨k, hk, haged⟩)] at h
  obtain ⟨hmem, hmax⟩ := pickMax_spec (g.candidates_sorted v) h
  obtain ⟨-, hwaits, -⟩ := Eng.mem_candidates.1 hmem
  refine ⟨?_, fun u hu => (hmax u hu).1⟩
  simp only [Sched.aged, Bool.and_eq_true, decide_eq_true_eq] at haged ⊢
  exact ⟨by simpa [List.isEmpty_iff] using hwaits, haged.2.trans (hmax k hk).1⟩

/-- Without one the pick has the most records, and is the lowest of those that have as many. -/
theorem Eng.pickBlock_longest (h : g.pickBlock now v = some b) (hnone : ∀ k ∈ g.candidates v, ¬ g.sched.aged now k = true) :
    ∀ k ∈ g.candidates v, (g.sched.queue k).length ≤ (g.sched.queue b).length ∧
      ((g.sched.queue k).length = (g.sched.queue b).length → b ≤ k) := by
  rw [Eng.pickBlock_eq, if_neg (by simpa using hnone)] at h
  exact (pickMax_spec (g.candidates_sorted v) h).2

end

/-- Behind the commands of a switch injection goes on, or the slot leaves the scheduler. -/
def World.endSwitch (w : World) (c v : Nat) : World :=
  let g := w.eng c
  let d := { g.sched with stopped := g.sched.stopped.filter (· != v) }
  let d := if (g.vat v).state == .armed then d else { d with left := d.left ++ [v] }
  w.setEng c { g with sched := d }

/-- Whatever a switch's commands come to, it ends so. -/
theorem World.switchBlock_cases {P : World → Prop} {w : World} {c nbv v b : Nat} (h : ∀ w' : World, P (w'.endSwitch c v)) :
    P (w.switchBlock c nbv v b) := by
  rw [World.switchBlock]
  split
  exact h _

/-- Behind a switch injection has not stopped, and the slot is armed or has left the scheduler. -/
theorem World.switchBlock_ends (w : World) (c nbv v b : Nat) :
    v ∉ ((w.switchBlock c nbv v b).eng c).sched.stopped ∧
      ((((w.switchBlock c nbv v b).eng c).vat v).state = .armed ∨ v ∈ ((w.switchBlock c nbv v b).eng c).sched.left) := by
  refine World.switchBlock_cases (P := fun u => v ∉ (u.eng c).sched.stopped ∧
    (((u.eng c).vat v).state = .armed ∨ v ∈ (u.eng c).sched.left)) fun w' => ?_
  rw [World.endSwitch, World.eng_setEng_same]
  dsimp only
  split
  · next harmed => exact ⟨by simp, .inl (beq_iff_eq.1 harmed)⟩
  · exact ⟨by simp, .inr (by simp)⟩

/-- Injection into a slot goes on. -/
def Eng.goOn (g : Eng) (v : Nat) : Eng := { g with sched := { g.sched with stopped := g.sched.stopped.filter (· != v) } }

section
variable {w : World} {c nbv v b : Nat} (hpick : (w.eng c).pickBlock w.cycle v = some b)
  (hmine : v ∈ (w.eng c).scheduledSlots) (hpress : (w.eng c).pressing = false) (hdrained : w.slotDrained c v = true)
  (hends : (w.eng c).sched.queue ((w.eng c).slotBlock v) = [] ∨ v ∈ (w.eng c).sched.stopped)
include hpick hmine hpress hdrained hends

/-- A drained slot whose queue is empty, or into which injection has stopped, goes on with its block, or gets the pick. -/
theorem World.schedSelect_picks : w.schedSelect c nbv v =
    if b = (w.eng c).slotBlock v then w.setEng c ((w.eng c).goOn v) else w.switchBlock c nbv v b := by
  have hgoes : ¬ ((w.eng c).pressing || !(w.eng c).scheduledSlots.contains v || !w.slotDrained c v) = true := by
    simp [hpress, hmine, hdrained]
  have hmay : ¬ (!(((w.eng c).sched.queue ((w.eng c).slotBlock v)).isEmpty || (w.eng c).sched.stopped.contains v)) = true := by
    simpa [or_iff_not_imp_left] using hends
  rw [World.schedSelect]
  refine (if_neg hgoes).trans ((if_neg hmay).trans ?_)
  rw [hpick]
  rfl

end

section
variable {s : State} {v : BitVec 3}

theorem exec_schedSelect_eq :
    exec (.schedSelect v) s = .next (s.withWorld (s.w.schedSelect s.cur s.cp.nbv.toNat v.toNat)) := rfl

theorem exec_schedSelect_not (h : v.toNat ∉ s.eng.scheduledSlots) : exec (.schedSelect v) s = .next s := by
  rw [exec_schedSelect_eq, World.schedSelect]
  refine congrArg (fun w => Host.Outcome.next (s.withWorld w)) (if_pos ?_)
  simp [show v.toNat ∉ (s.w.eng s.cur).scheduledSlots from h]

end

end Sys2Proof.Machine
end

section
open Sys2Proof Sys2Proof.Machine

/-- Settles O44: tag 0 is the lowest of the ENTRY port, so a slot of its pool is enough to enter (R171); the pick is that of
`pickMax` over the blocks that no other slot holds. -/
theorem blockScheduler : Obligations.BlockScheduler := by
  intro s v d now begun aged mine
  have haged : ∀ b, d.aged now b = true ↔ aged b := fun b => Sched.aged_iff
  refine ⟨fun hnot hport => ⟨exec_schedInject_not hport hnot, exec_schedSelect_not hnot, exec_blockAged_not hnot⟩,
    fun p t0 rest hmine hport hpress hplane hstate hslot hearly => ?inject,
    fun b hb hold hhome hmine hyoung hlow hgoes => ?stops, fun hheld => ?loaded, fun b hpick => ?select⟩
  case inject =>
    refine ⟨fun hpart => ?_, fun r q hpart hqueue htoks hgoes => ?_⟩
    · have hnext : s.eng.nextInjected v.toNat p.block = some (t0, rest, d.queue p.block) := by
        rw [Eng.nextInjected, show Tbl.get s.eng.sched.injecting [] v.toNat = t0 :: rest from hpart]
      obtain ⟨honly, hbegun, hq, f, hf⟩ := s.injected_sends v.toNat p t0 rest (d.queue p.block)
      exact ⟨_, f, exec_schedInject hport hmine hpress hplane hstate hslot hearly hnext, honly, hbegun, hq, hf⟩
    · have hnext : s.eng.nextInjected v.toNat p.block = some (t0, rest, q) := by
        rw [Eng.nextInjected, show Tbl.get s.eng.sched.injecting [] v.toNat = [] from hpart,
          show s.eng.sched.queue p.block = r :: q from hqueue]
        dsimp only
        rw [if_neg (by simpa using hgoes), htoks]
      obtain ⟨honly, hbegun, hq, f, hf⟩ := s.injected_sends v.toNat p t0 rest q
      exact ⟨_, f, exec_schedInject hport hmine hpress hplane hstate hslot hearly hnext, honly, hbegun, hq, hf⟩
  case stops =>
    refine ⟨_, exec_blockAged_stops (State.homeless_iff.2 ⟨b, hb, (haged b).2 hold, hhome⟩) ?_ hgoes,
      s.withEng_unitsOnly _, by rw [State.withEng_eng]⟩
    refine find?_of_sorted s.eng.scheduledSlots_sorted hmine ?_ fun u hu hlt => ?_
    · rw [Bool.not_eq_true', ← Bool.not_eq_true]
      exact fun h => hyoung ((haged _).1 h)
    · rw [Bool.not_eq_false']
      exact (haged _).2 (hlow u hu hlt)
  case loaded =>
    refine exec_blockAged_homeless (Bool.eq_false_iff.2 fun hhome => ?_)
    obtain ⟨b, hb, hold, hnone⟩ := State.homeless_iff.1 hhome
    obtain ⟨u, hu, he⟩ := hheld b hb ((haged b).1 hold)
    exact hnone u hu he
  case select =>
    intro free
    have hfree : ∀ k, k ∈ s.eng.candidates v.toNat ↔ free k := fun k => Eng.mem_candidates
    refine ⟨(hfree b).1 (Eng.pickBlock_mem hpick), ?_, ?_, fun hmine hpress hdrained hends => ?_⟩
    · rintro ⟨k, hk, hold⟩
      obtain ⟨hb, hmax⟩ := Eng.pickBlock_aged hpick ((hfree k).2 hk) ((haged k).2 hold)
      exact ⟨(haged b).1 hb, fun u hu _ => hmax u ((hfree u).2 hu)⟩
    · intro hnone k hk
      exact Eng.pickBlock_longest hpick (fun u hu h => hnone u ((hfree u).1 hu) ((haged u).1 h)) k ((hfree k).2 hk)
    · have hselect := World.schedSelect_picks (nbv := s.cp.nbv.toNat) hpick hmine hpress hdrained hends
      rw [exec_schedSelect_eq]
      by_cases h : b = s.eng.slotBlock v.toNat
      · rw [hselect.trans (if_pos h)]
        refine ⟨s.withEng (s.eng.goOn v.toNat), rfl, rfl, ?_, fun _ => ⟨s.withEng_unitsOnly _, ?_⟩,
          fun hne => absurd h hne⟩
        · rw [State.withEng_eng, Eng.goOn]
          simp
        · rw [State.withEng_eng]
          rfl
      · obtain ⟨hstopped, hend⟩ := s.w.switchBlock_ends s.cur s.cp.nbv.toNat v.toNat b
        rw [hselect.trans (if_neg h)]
        generalize s.w.switchBlock s.cur s.cp.nbv.toNat v.toNat b = w' at hstopped hend ⊢
        exact ⟨_, rfl, rfl, hstopped, fun heq => absurd heq h, fun _ => hend⟩
end

section
/-! SUPPORT. A read of a command leaves the slots (R254, R282, R448). -/

namespace Sys2Proof.Machine

theorem World.corrected_vats (w : World) (c u i a n k : Nat) : ((w.corrected c u i a n).eng k).vats = (w.eng k).vats := by
  obtain ⟨-, -, heng⟩ := w.corrected_keeps c u i a n
  obtain ⟨r, q, h⟩ := heng k
  rw [h]

theorem World.raise_vats (w : World) (c : Nat) (p : Pending) (k : Nat) : ((w.raise c p).eng k).vats = (w.eng k).vats := by
  rw [World.raise, World.eng_setEng]
  split
  · next h => rw [h, (Eng.raise_onlyReports ..).vats]
  · rfl

theorem World.eccReport_vats (w : World) (c u a : Nat) (copy : Bool) (who k : Nat) :
    ((w.eccReport c u a copy who).eng k).vats = (w.eng k).vats := by
  rw [World.eccReport, World.eccFrom]
  obtain ⟨-, -, heng⟩ := World.emit_keeps _ c u tECCUE ((eccInfo (memAt a) false copy who).setWidth 32)
  obtain ⟨r, q, h⟩ := heng k
  rw [h, World.eccPend]
  dsimp only
  rw [World.eng_setEng]
  split
  · next hk => rw [hk, World.raise_vats]
  · exact World.raise_vats ..

theorem World.readLocal_vats {w w' : World} {c u who a n : Nat} {bs : List Byte}
    (h : w.readLocal c u who a n = .ok bs w') (k : Nat) : (w'.eng k).vats = (w.eng k).vats := by
  unfold World.readLocal at h
  split at h
  · cases h
  · cases h
    exact World.corrected_vats ..

/-- A read of a unit may take a line of a FIFO, and leaves the slots. -/
theorem World.unitReadAs_vats {w w' : World} {paced : Bool} {c u who n : Nat} {pa : PhysAddr} {bs : List Byte}
    (h : w.unitReadAs paced c u who pa n = .ok bs w') (k : Nat) : (w'.eng k).vats = (w.eng k).vats := by
  unfold World.unitReadAs at h
  split at h
  · cases h
  split at h
  · cases h
    rfl
  split at h
  case h_1 => exact World.readLocal_vats h k
  case h_2 m e _ _ =>
    dsimp only at h
    split at h
    case h_1 =>
      split at h
      · cases h
      · exact World.readLocal_vats h k
    case h_2 =>
      split at h
      · split at h
        · cases h
        · split at h
          · cases h
          · cases h
          · cases h
            rw [World.corrected_vats, World.eng_setEng]
            split
            · next hk => rw [hk, Eng.setElem]
            · rfl
      · cases h
    all_goals cases h
  all_goals cases h

section
variable (w : World) (c u unit : Nat) (asid : BitVec 16) (root : Word) (p o : Bool) (va : Word) (n : Nat)

theorem World.commandXlat_vats (k : Access) (m : Nat) :
    ((w.commandXlat c u asid root p o k va).2.eng m).vats = (w.eng m).vats := by
  have hseek : ((w.commandSeek c u asid root p o k va).2.eng m).vats = (w.eng m).vats := by
    rcases w.commandSeek_world c u asid root p o k va with h | ⟨-, _, h⟩
    · rw [h]
    · rw [h]
      rfl
  unfold World.commandXlat
  split
  · next w' h =>
    rw [h] at hseek
    refine Eq.trans ?_ hseek
    show ((w'.collect c u asid va).eng m).vats = (w'.eng m).vats
    rw [World.collect, World.eng_setEng]
    split
    · next hm => rw [hm]
    · rfl
  · exact hseek

/-- Whatever a command's read comes to, the slots stand. -/
theorem World.commandRead_vat (v : Nat) :
    ((w.commandRead c u unit asid root p o va n).2.eng c).vat v = (w.eng c).vat v := by
  suffices h : ((w.commandRead c u unit asid root p o va n).2.eng c).vats = (w.eng c).vats from
    congrArg (Tbl.get · Vat.reset v) h
  have hxlat := w.commandXlat_vats c u asid root p o va .read c
  unfold World.commandRead
  split
  · next h => rwa [h] at hxlat
  · next h =>
    rw [h] at hxlat
    split
    · next hread => exact (World.unitReadAs_vats hread c).trans hxlat
    · exact hxlat
    · exact hxlat
    · exact (World.eccReport_vats ..).trans hxlat

end

end Sys2Proof.Machine
end

section
/-! SUPPORT. CULTURE_PLANE_LOAD, way by way (R255). -/

namespace Sys2Proof.Machine

/-- A slot whose culture plane is INCOMPLETE. -/
def Vat.incomplete (x : Vat) (p : Option Plane) (code : BitVec 4) (at' : Option Nat) : Vat :=
  { x with
    cst := .incomplete, cstCode := code, code := code, culture := p, loadAt := none
    faddr := match at' with | some a => BitVec.ofNat 10 a | none => x.faddr }

/-- A slot whose stream has been read to its END, or as far as it could be. -/
def Vat.read (x : Vat) (l : Load) : Vat := { x with addrError := x.addrError || l.addrError }

/-- The same with its culture plane LOADED. -/
def Vat.loaded (x : Vat) (l : Load) : Vat := { x.read l with cst := .loaded, cstCode := 0, culture := some l.p, loadAt := none }

/-- An INCOMPLETE culture plane changes the slot and makes VAT_FAULT pending. -/
theorem World.incomplete_slot (w : World) (c v : Nat) (p : Option Plane) (code : BitVec 4) (at' : Option Nat) :
    ((w.incomplete c v p code at').eng c).vat v = ((w.eng c).vat v).incomplete p code at' ∧
      ∃ q ∈ ((w.incomplete c v p code at').eng c).pend, q.code = cVATFAULT ∧ q.source = v := by
  have hfault : ∀ w' : World, w'.eng c = (w.eng c).setVat v (((w.eng c).vat v).incomplete p code at') → ∀ vc d a,
      ((w'.vatFault c v vc d a 0 0 0).eng c).vat v = ((w.eng c).vat v).incomplete p code at' := fun w' h vc d a => by
    refine (congrArg (Tbl.get · Vat.reset v) (w'.vatFault_onlyReports c v vc d a 0 0 0).eng.vats).trans ?_
    rw [h]
    exact Eng.vat_setVat_same ..
  cases at' with
  | some a => exact ⟨hfault _ (World.eng_setEng_same ..) .., World.vatFault_pend ..⟩
  | none => exact ⟨hfault (World.fresh (w.setEng c ((w.eng c).setVat v (((w.eng c).vat v).incomplete p code none)))).2
    (World.eng_setEng_same ..) .., World.vatFault_pend ..⟩

section
variable {w : World} {c v : Nat}

theorem World.planeLoad_none (h : ((w.eng c).vat v).loadAt = none) : w.planeLoad c v = w := by
  rw [World.planeLoad]
  dsimp only
  rw [h]

section
variable {k : Command} (hload : ((w.eng c).vat v).loadAt = some k)
include hload

/-- The first word cannot be read. -/
theorem World.planeLoad_unread {r : Refused} {w1 : World}
    (h : w.commandRead c (addrVat v) uCP k.asid k.ptroot k.priv k.xoff k.x 4 = (.error r, w1)) :
    w.planeLoad c v = w1.incomplete c v ((w.eng c).vat v).culture cdCFGREAD none := by
  rw [World.planeLoad]
  dsimp only
  rw [hload]
  dsimp only
  rw [h]

section
variable {bs : List Byte} {w1 : World}
  (h : w.commandRead c (addrVat v) uCP k.asid k.ptroot k.priv k.xoff k.x 4 = (.ok bs, w1))
include h

theorem World.planeLoad_noBegin (hb : cfgAddr (BitVec.ofNat 32 (leNat bs)) ≠ 0x3FC) :
    w.planeLoad c v = w1.incomplete c v ((w.eng c).vat v).culture cdCFGREAD none := by
  rw [World.planeLoad]
  dsimp only
  rw [hload]
  dsimp only
  rw [h]
  exact if_pos (bne_iff_ne.2 hb)

variable (hb : cfgAddr (BitVec.ofNat 32 (leNat bs)) = 0x3FC)
include hb

theorem World.planeLoad_overlap {e : Nat} (he : (w1.eng c).loadOverlap v (cfgValue (BitVec.ofNat 32 (leNat bs))) = some e) :
    w.planeLoad c v = w1.incomplete c v ((w.eng c).vat v).culture cdOVERLAP (some e) := by
  rw [World.planeLoad]
  dsimp only
  rw [hload]
  dsimp only
  rw [h]
  refine (if_neg (by rw [hb]; decide)).trans ?_
  rw [he]

theorem World.planeLoad_words
    (he : (w1.eng c).loadOverlap v (cfgValue (BitVec.ofNat 32 (leNat bs))) = none) {ended : Bool} {l : Load} {w2 : World}
    (hwords : (w1.setEng c (Load.begin (w1.eng c) (BitVec.ofNat 32 (leNat bs)) k.x).g).loadWords c v k 65535 (k.x + 4)
      (Load.begin (w1.eng c) (BitVec.ofNat 32 (leNat bs)) k.x) = (ended, l, w2)) :
    w.planeLoad c v = if ended then w2.setEng c ((w2.eng c).setVat v (((w2.eng c).vat v).loaded l))
      else (w2.setEng c ((w2.eng c).setVat v (((w2.eng c).vat v).read l))).incomplete c v (some l.p) cdCFGREAD none := by
  rw [World.planeLoad]
  dsimp only
  rw [hload]
  dsimp only
  rw [h]
  refine (if_neg (by rw [hb]; decide)).trans ?_
  rw [he]
  dsimp only
  rw [show streamWords - 1 = 65535 from rfl, hwords]
  rfl

end

end

end

theorem exec_culturePlaneLoad {s : State} {v : BitVec 3} (h : s.eng.pressing = false) :
    exec (.culturePlaneLoad v) s = .next (s.withWorld (s.w.planeLoad s.cur v.toNat)) :=
  congrArg (fun w => Host.Outcome.next (s.withWorld w)) (if_neg (by rw [show (s.w.eng s.cur).pressing = false from h]; decide))

theorem exec_culturePlaneLoad_idle {s : State} {v : BitVec 3}
    (h : (s.eng.vat v.toNat).loadAt = none ∨ s.eng.pressing = true) : exec (.culturePlaneLoad v) s = .next s := by
  refine congrArg (fun w => Host.Outcome.next (s.withWorld w)) (?_ : (if _ then _ else _) = s.w)
  split
  · rfl
  · next hpress => exact World.planeLoad_none (h.resolve_right hpress)

end Sys2Proof.Machine
end

section
/-! SUPPORT. What the words of a configuration stream change: the culture planes of units (R61, R255). -/

namespace Sys2Proof.Machine

/-- Nothing of a core's units but their culture planes differs. -/
def Eng.OnlyCulture (g g' : Eng) : Prop := ∃ ce cr ag mx ep, g' = { g with
  culture := ce, cultureRead := cr, agCulture := ag, mxCulture := mx, epCulture := ep }

namespace Eng.OnlyCulture

variable {g g' g'' : Eng}

theorem refl (g : Eng) : g.OnlyCulture g := ⟨_, _, _, _, _, rfl⟩

theorem trans (h : g.OnlyCulture g') (h' : g'.OnlyCulture g'') : g.OnlyCulture g'' := by
  obtain ⟨_, _, _, _, _, rfl⟩ := h
  obtain ⟨_, _, _, _, _, rfl⟩ := h'
  exact ⟨_, _, _, _, _, rfl⟩

theorem vat (h : g.OnlyCulture g') (v : Nat) : g'.vat v = g.vat v := by
  obtain ⟨_, _, _, _, _, rfl⟩ := h
  rfl

theorem active (h : g.OnlyCulture g') : g'.active = g.active := by
  obtain ⟨_, _, _, _, _, rfl⟩ := h
  rfl

/-- Steps that each leave all but culture planes do so together; `part` is the units of what the steps change. -/
theorem foldl {α β : Type} (part : β → Eng) {f : β → α → β} (h : ∀ b a, (part b).OnlyCulture (part (f b a)))
    (as : List α) (b : β) : (part b).OnlyCulture (part (as.foldl f b)) := by
  induction as generalizing b with
  | nil => exact refl _
  | cons a as ih => exact (h b a).trans (ih (f b a))

end Eng.OnlyCulture

theorem Load.elemWord_only (l : Load) (e : Nat) (f : BitVec 6) (v : BitVec 16) : l.g.OnlyCulture (l.elemWord e f v).g :=
  ⟨_, _, _, _, _, rfl⟩

theorem Load.touch_only (l : Load) (a : Nat) : l.g.OnlyCulture (l.touch a).g := by
  unfold Load.touch
  split
  · exact .refl _
  · dsimp only
    split
    · exact ⟨_, _, _, _, _, rfl⟩
    · split <;> exact ⟨_, _, _, _, _, rfl⟩

theorem Load.edgeWord_only (l : Load) (a : Nat) (f : BitVec 6) (v : BitVec 16) : l.g.OnlyCulture (l.edgeWord a f v).g := by
  refine (l.touch_only a).trans ?_
  unfold Load.edgeWord
  dsimp only
  split
  · exact ⟨_, _, _, _, _, rfl⟩
  · split <;> exact ⟨_, _, _, _, _, rfl⟩

theorem Load.word_only (l : Load) (slot : Nat) (w : BitVec 32) : l.g.OnlyCulture (l.word slot w).g := by
  unfold Load.word
  dsimp only
  split
  · split
    · exact .refl _
    · exact Eng.OnlyCulture.foldl Load.g (fun l e => l.elemWord_only e _ _) _ _
  split
  · exact .refl _
  split
  · split
    · exact .refl _
    · split <;> exact .refl _
  split
  · split <;> exact .refl _
  split
  · exact .refl _
  split
  · split
    · exact Load.elemWord_only ..
    · exact .refl _
  split
  · split <;> exact .refl _
  · exact Load.edgeWord_only ..

theorem Load.finish_only (l : Load) (w : BitVec 32) : l.g.OnlyCulture (l.finish w).g := by
  unfold Load.finish
  dsimp only
  have hframed : (if (cfgField w != 0 || cfgValue w != BitVec.ofNat 16 l.n) = true then l.framing 0x3FD else l).g = l.g := by
    split <;> rfl
  generalize (if (cfgField w != 0 || cfgValue w != BitVec.ofNat 16 l.n) = true then l.framing 0x3FD else l) = l' at hframed ⊢
  rw [← hframed]
  refine (Eng.OnlyCulture.foldl (fun g => g) (fun g e => ⟨_, _, _, _, _, rfl⟩) (rectElems l'.p.rect) l'.g).trans
    (Eng.OnlyCulture.foldl (fun g => g) (fun g a => ?_) l'.p.units _)
  split
  · exact ⟨_, _, _, _, _, rfl⟩
  · split <;> exact ⟨_, _, _, _, _, rfl⟩

theorem Load.begin_only (g : Eng) (w : BitVec 32) (va : Word) : g.OnlyCulture (Load.begin g w va).g := by
  have hempty := Eng.OnlyCulture.foldl (fun g => g)
    (f := fun (g : Eng) e => { g with culture := Tbl.put g.culture e ElemCfg.empty }) (fun g e => ⟨_, _, _, _, _, rfl⟩)
    (rectElems (cfgValue w)) g
  unfold Load.begin
  dsimp only
  split <;> exact hempty.trans ⟨_, _, _, _, _, rfl⟩

end Sys2Proof.Machine
end

section
/-! SUPPORT. A configuration stream in plain memory is read to its END (R255, R282). -/

namespace Sys2Proof.Machine

/-- The world of a load under way, or behind it: the units of the core in turn are `g`, with other culture planes than at
first; of the rest only registers of the fabric that no access goes by may differ. -/
structure State.Loading (s : State) (w : World) (g : Eng) : Prop where
  mem : w.mem = s.w.mem
  failing : w.eccUe = s.w.eccUe
  corrected : w.eccCe = s.w.eccCe
  others : ∀ c, c ≠ s.cur → w.eng c = s.w.eng c
  eng : w.eng s.cur = g
  only : s.eng.OnlyCulture g

namespace State.Loading

variable {s : State} {w : World} {g : Eng}

theorem setEng (h : s.Loading w g) {g' : Eng} (hg : g.OnlyCulture g') : s.Loading (w.setEng s.cur g') g' where
  mem := h.mem
  failing := h.failing
  corrected := h.corrected
  others c hc := (World.eng_setEng_ne _ _ hc).trans (h.others c hc)
  eng := World.eng_setEng_same ..
  only := h.only.trans hg

/-- What of a core's units an access goes by. -/
theorem keeps (h : s.Loading w g) (c : Nat) : (w.eng c).partid = (s.w.eng c).partid ∧ (w.eng c).active = (s.w.eng c).active ∧
    ∀ u, (w.eng c).access u = (s.w.eng c).access u := by
  by_cases hc : c = s.cur
  · obtain ⟨_, _, _, _, _, hg⟩ := h.only
    rw [hc, h.eng, hg]
    exact ⟨rfl, rfl, fun _ => rfl⟩
  · rw [h.others c hc]
    exact ⟨rfl, rfl, fun _ => rfl⟩

theorem mayReach (h : s.Loading w g) {pa : PhysAddr} (hhere : pa.remote = false) :
    w.mayReach s.cur pa = s.w.mayReach s.cur pa := by
  unfold World.mayReach
  dsimp only
  rw [hhere, (h.keeps s.cur).1]
  simp only [Bool.false_eq_true, if_false, (h.keeps _).1]

end State.Loading

/-- Reading sound bytes of plain memory changes nothing. -/
theorem World.readLocal_sound {s : State} {w : World} {g : Eng} (h : s.Loading w g) {a n : Nat} (hsound : SoundAt s a n)
    (c unit who : Nat) : w.readLocal c unit who a n = .ok (memBytes s.w.mem a n) w := by
  have hfailing : w.failing a n = none := by
    rw [World.failing, h.failing]
    exact hsound.failing
  have hcorrected : w.corrected c unit who a n = w := by
    have hnone : wordsIn w.eccCe a n = [] := by
      rw [wordsIn, h.corrected, List.filter_eq_nil_iff]
      exact fun u hu => by simpa using hsound.corrected u hu
    rw [World.corrected, hnone]
  rw [World.readLocal, hfailing, hcorrected, h.mem]

theorem World.unitReadAs_sound {s : State} {w : World} {g : Eng} (h : s.Loading w g) {pa : PhysAddr} {n : Nat}
    (hplain : PlainAt s pa) (hsound : SoundAt s pa.addr n) (unit who : Nat) :
    w.unitReadAs false s.cur unit who pa n = .ok (memBytes s.w.mem pa.addr n) w := by
  obtain ⟨hhere, hreach, hregion⟩ := hplain
  have hlocal := World.readLocal_sound h hsound s.cur unit who
  rw [World.unitReadAs, h.mayReach hhere, hreach, hhere]
  refine (if_neg (by decide)).trans ((if_neg (by decide)).trans ?_)
  obtain ⟨c, hc⟩ | ⟨c, e, o, hc, hmode⟩ := hregion
  · rw [hc]
    exact hlocal
  · have hram : ((w.eng c).cfg e).bankMode = .ram := by
      rw [Eng.cfg, (h.keeps c).2.1]
      exact hmode
    rw [hc]
    dsimp only
    rw [hram]
    exact hlocal

/-- A word of a stream stands at a virtual address, in plain memory that the slot's controller reaches without a walk. -/
def State.HasWord (s : State) (v : Nat) (k : Command) (va : Word) (y : BitVec 32) : Prop :=
  ∃ a, s.w.commandXlat s.cur (addrVat v) k.asid k.ptroot k.priv k.xoff .read va = (.ok ⟨false, 0, a⟩, s.w) ∧
    PlainAt s ⟨false, 0, a⟩ ∧ SoundAt s a 4 ∧ memNat s.w.mem a 4 = y.toNat

/-- Word `i` behind the first is word `i + 1`. -/
theorem word_after (va : Word) (i : Nat) : va + 4 + BitVec.ofNat 64 (4 * i) = va + BitVec.ofNat 64 (4 * (i + 1)) := by
  rw [Nat.mul_succ, Nat.add_comm, BitVec.ofNat_add, ← BitVec.add_assoc]
  rfl

section
variable {s : State} {w : World} {v : Nat} {k : Command}

/-- The load reads it there, whatever it has written so far, and that changes nothing. -/
theorem World.commandRead_word {g : Eng} (h : s.Loading w g) {va : Word} {y : BitVec 32} (hword : s.HasWord v k va y) :
    ∃ bs, w.commandRead s.cur (addrVat v) uCP k.asid k.ptroot k.priv k.xoff va 4 = (.ok bs, w) ∧
      BitVec.ofNat 32 (leNat bs) = y := by
  obtain ⟨a, hxlat, hplain, hsound, hval⟩ := hword
  refine ⟨memBytes s.w.mem a 4, ?_, by rw [show leNat (memBytes s.w.mem a 4) = y.toNat from hval, BitVec.ofNat_toNat,
    BitVec.setWidth_eq]⟩
  have hseek : (w.commandSeek s.cur (addrVat v) k.asid k.ptroot k.priv k.xoff .read va).1 = .ok ⟨false, 0, a⟩ := by
    rw [World.commandSeek_congr ((h.keeps s.cur).2.2 _), ← World.commandXlat_fst, hxlat]
  have hat : w.commandXlat s.cur (addrVat v) k.asid k.ptroot k.priv k.xoff .read va = (.ok ⟨false, 0, a⟩, w) := by
    rw [World.commandXlat, World.commandSeek_answer _ _ _ _ _ _ _ _ _ hseek (by simp)]
  rw [World.commandRead, hat]
  dsimp only
  rw [World.unitReadAs_sound h hplain hsound]

/-- The words behind BEGIN, END last. -/
theorem World.loadWords_stream {z : BitVec 32} (hz : cfgAddr z = 0x3FD) {ws : List (BitVec 32)}
    (hws : ∀ y ∈ ws, cfgAddr y ≠ 0x3FD) {l : Load} {va : Word} {fuel : Nat} (h : s.Loading w l.g)
    (hhas : ∀ i y, (ws ++ [z])[i]? = some y → s.HasWord v k (va + BitVec.ofNat 64 (4 * i)) y) (hfuel : ws.length < fuel) :
    let l' := (ws.foldl (fun l y => l.word v y) l).finish z
    ∃ w', w.loadWords s.cur v k fuel va l = (true, l', w') ∧ s.Loading w' l'.g := by
  induction ws generalizing l va w fuel with
  | nil =>
    obtain ⟨fuel, rfl⟩ := Nat.exists_eq_succ_of_ne_zero (Nat.ne_of_gt hfuel)
    obtain ⟨bs, hread, hval⟩ := World.commandRead_word h (va := va) (by simpa using hhas 0 z rfl)
    refine ⟨_, ?_, h.setEng (l.finish_only z)⟩
    rw [World.loadWords, hread]
    dsimp only
    rw [hval, h.eng, if_pos hz]
    rfl
  | cons y ws ih =>
    obtain ⟨fuel, rfl⟩ := Nat.exists_eq_succ_of_ne_zero (Nat.ne_of_gt (Nat.zero_lt_of_lt hfuel))
    obtain ⟨bs, hread, hval⟩ := World.commandRead_word h (va := va) (by simpa using hhas 0 y rfl)
    have hy : ¬ cfgAddr y = 0x3FD := hws y (List.mem_cons_self ..)
    obtain ⟨w', hwords, hdone⟩ := ih (fun x hx => hws x (List.mem_cons_of_mem _ hx)) (va := va + 4)
      (h.setEng (l.word_only v y)) (fun i x hx => by
        rw [word_after]
        exact hhas (i + 1) x hx) (Nat.lt_of_succ_lt_succ hfuel)
    refine ⟨w', ?_, hdone⟩
    rw [World.loadWords, hread]
    dsimp only
    rw [hval, h.eng, if_neg hy]
    exact hwords

end

end Sys2Proof.Machine
end

section
open Sys2Proof Sys2Proof.Machine

/-- Settles O31, by what the first read comes to, and for a stream in plain memory by induction over its words. -/
theorem planeLoad : Obligations.PlaneLoad := by
  intro s v x same failed
  refine ⟨fun k hload hpress => ?_, exec_culturePlaneLoad_idle⟩
  have hvat : ((s.w.commandRead s.cur (addrVat v.toNat) uCP k.asid k.ptroot k.priv k.xoff k.x 4).2.eng s.cur).vat v.toNat = x :=
    World.commandRead_vat ..
  have hfails : ∀ (w1 : World) p code at', (w1.eng s.cur).vat v.toNat = x →
      s.w.planeLoad s.cur v.toNat = w1.incomplete s.cur v.toNat p code at' →
      ∃ t, exec (.culturePlaneLoad v) s = .next t ∧ failed t p ∧
        ∀ e, at' = some e → (t.eng.vat v.toNat).faddr = BitVec.ofNat 10 e := by
    intro w1 p code at' hx hw
    obtain ⟨hslot, hpend⟩ := w1.incomplete_slot s.cur v.toNat p code at'
    rw [hx, ← hw] at hslot
    rw [← hw] at hpend
    have hafter : (s.withWorld (s.w.planeLoad s.cur v.toNat)).eng.vat v.toNat = x.incomplete p code at' := hslot
    refine ⟨_, exec_culturePlaneLoad hpress, ?_, fun e he => ?_⟩
    · dsimp only [failed, same]
      rw [hafter]
      exact ⟨⟨rfl, rfl, rfl, rfl⟩, rfl, rfl, hpend⟩
    · rw [hafter, he]
      rfl
  refine ⟨fun r w1 hread _ => ?unread, fun bs w1 hread => ?read, fun b ws z at' hlen hb hws hz hover hstream => ?stream⟩
  case unread =>
    rw [hread] at hvat
    obtain ⟨t, hexec, hfailed, -⟩ := hfails w1 x.culture _ none hvat (World.planeLoad_unread hload hread)
    exact ⟨t, hexec, hfailed⟩
  case read =>
    rw [hread] at hvat
    refine ⟨fun hb => ?_, fun hb e he => ?_, fun hb he ended l w2 hwords _ => ?_⟩
    · obtain ⟨t, hexec, hfailed, -⟩ := hfails w1 x.culture _ none hvat (World.planeLoad_noBegin hload hread hb)
      exact ⟨t, hexec, hfailed⟩
    · obtain ⟨t, hexec, hfailed, hat⟩ := hfails w1 x.culture _ (some e) hvat (World.planeLoad_overlap hload hread hb he)
      exact ⟨t, hexec, hfailed, hat e rfl⟩
    · have hw := World.planeLoad_words hload hread hb he hwords
      refine ⟨_, exec_culturePlaneLoad hpress, rfl, ?_⟩
      cases ended with
      | true =>
        have hafter : (s.withWorld (s.w.planeLoad s.cur v.toNat)).eng.vat v.toNat = ((w2.eng s.cur).vat v.toNat).loaded l := by
          rw [hw]
          exact (congrArg (Eng.vat · v.toNat) (World.eng_setEng_same ..)).trans (Eng.vat_setVat_same ..)
        rw [hafter]
        exact ⟨rfl, rfl, rfl, rfl, rfl, fun h => nomatch h⟩
      | false =>
        obtain ⟨hslot, hpend⟩ := (w2.setEng s.cur ((w2.eng s.cur).setVat v.toNat (((w2.eng s.cur).vat v.toNat).read
          l))).incomplete_slot s.cur v.toNat (some l.p) cdCFGREAD none
        rw [World.eng_setEng_same, Eng.vat_setVat_same] at hslot
        have hafter : (s.withWorld (s.w.planeLoad s.cur v.toNat)).eng.vat v.toNat =
            (((w2.eng s.cur).vat v.toNat).read l).incomplete (some l.p) cdCFGREAD none := by
          rw [hw]
          exact hslot
        rw [hafter]
        refine ⟨rfl, rfl, rfl, rfl, rfl, fun _ => ?_⟩
        rw [hw]
        exact hpend
  case stream =>
    intro l
    have hhas : ∀ i y, (b :: (ws ++ [z]))[i]? = some y →
        s.HasWord v.toNat k (k.x + BitVec.ofNat 64 (4 * i)) y := fun i y hy => ⟨at' i, hstream i y hy⟩
    have hstart : s.Loading s.w s.eng := ⟨rfl, rfl, rfl, fun _ _ => rfl, rfl, .refl _⟩
    obtain ⟨bs, hread, hval⟩ := World.commandRead_word hstart (va := k.x) (by simpa using hhas 0 b rfl)
    obtain ⟨w', hwords, hdone⟩ := World.loadWords_stream hz hws (va := k.x + 4) (fuel := 65535)
      (hstart.setEng (Load.begin_only s.eng b k.x)) (fun i y hy => by
        rw [word_after]
        exact hhas (i + 1) y hy) (by omega)
    subst hval
    have hw := World.planeLoad_words hload hread hb hover hwords
    obtain ⟨hmem, -, -, hothers, heng, honly⟩ := hdone
    rw [if_pos rfl, heng] at hw
    have hafter : (s.withWorld (s.w.planeLoad s.cur v.toNat)).eng = l.g.setVat v.toNat ((l.g.vat v.toNat).loaded l) := by
      rw [hw]
      exact World.eng_setEng_same ..
    have hvats : l.g.vat v.toNat = x := honly.vat v.toNat
    refine ⟨_, exec_culturePlaneLoad hpress, ?_⟩
    dsimp only [same]
    rw [hafter, Eng.vat_setVat_same, hvats]
    refine ⟨⟨rfl, rfl, rfl, rfl⟩, ?_, fun c hc => ?_, rfl, rfl, rfl, rfl, rfl, rfl, honly.active⟩
    · rw [hw]
      exact hmem
    · rw [hw]
      exact (World.eng_setEng_ne _ _ hc).trans (hothers c hc)
end

section
/-! SUPPORT. A TMARK at its end, whose fetch has asked for a walk (R301, R434). -/

namespace Sys2Proof.Machine

/-- MARK has been raised at time 0 and its record has left; the control processor still knows the walk that the fetch of the
TMARK asked for in cycle 0. -/
def markSentAsking : State :=
  { State.reset with
    cps := [(0, { Cp.reset 0 with asked := some 0 })]
    w := { World.reset with engs := [(0, { Eng.reset with marking := some (0, true) })] } }

theorem markSentAsking_settled : markSentAsking.w.unsettled markSentAsking.cur 1 = false := by decide +kernel

/-- The TMARK completes, and the request is forgotten with it, as with every completion. -/
theorem exec_tmark_markSentAsking : ∃ t, exec (.tmark 0) markSentAsking = .next t ∧ t.cp.asked = none := ⟨_, rfl, rfl⟩

end Sys2Proof.Machine
end

section
open Sys2Proof Sys2Proof.Machine

/-- Refutes O25: the clause for a TMARK whose records are all settled says that the control processor stands but for the
program counter, RETIRED and the lock, but an instruction that completes forgets the walk it had asked for (`asked`), as in a
state whose TMARK has waited for its fetch's walk. The clause for RCSNAP says the same of the processor. -/
theorem not_directUnitInstructions : ¬ Obligations.DirectUnitInstructions := by
  intro h
  obtain ⟨-, -, -, -, htmark, -⟩ := h markSentAsking 0 0 0 0 0 rfl
  obtain ⟨hsent, -⟩ := htmark (by decide +kernel)
  obtain ⟨-, hends, -⟩ := hsent 0 true (by decide +kernel)
  obtain ⟨t, hexec, -, -, -, hcp⟩ := hends markSentAsking_settled (.inl rfl)
  obtain ⟨t', hexec', hasked⟩ := exec_tmark_markSentAsking
  obtain rfl : t = t' := Host.Outcome.next.inj (hexec.symm.trans hexec')
  rw [hcp] at hasked
  exact absurd (show (some 0 : Option Nat) = none from hasked) (by decide)
end
